-- ==== Sys2Proof/Word.lean ====
section
/-! DEFINITION. The word types of the OHN-4820 (00_scope.md R9). -/
namespace Sys2Proof

/-- A byte of a device memory. -/
abbrev Byte := BitVec 8
/-- A 32-bit register or store word. -/
abbrev Word := BitVec 32
/-- A 64-bit global address (01_architecture.md R18). -/
abbrev Addr := BitVec 64

end Sys2Proof
end

