-- ==== Sys2Proof/Machine/CmdTypes.lean ====
section
/-! DEFINITION. The operand types of the commands: the shapes that the rows of the opcode table carry.
Facts of the device's surroundings that no register holds (an upset, a link, a received frame, a sample) reach the
model as operands of these types (assumption 1). -/
namespace Sys2Proof

/-- A CSR requester path with copies of its own (17_register_reference.md R632). -/
inductive Path where
  | wellhead | bar2 | fabric
  deriving DecidableEq, Repr

/-- How a CSR write names a CORE block: region 0x1 by logical, region 0x2 by physical number (R638, R639). -/
inductive CoreSel where
  | logical (k : Fin 48)
  | physical (p : Fin 52)
  deriving DecidableEq, Repr

/-- The stores of a core that carry ECC or parity (04_core.md R147, R157). -/
inductive CoreStore where
  | localMem | laneStore | tile | elem | codebook | instrMem | sequencer
  deriving DecidableEq, Repr

/-- An upset of one store of a core that an access of the command meets: corrected, or uncorrectable. -/
structure Upset where
  store : CoreStore
  uncorr : Bool
  /-- local offset, or word index in the store -/
  addr : Nat
  /-- the bits of the stored word that an uncorrectable error has changed -/
  flip : Nat
  deriving DecidableEq, Repr

/-- An error of one compute lane or checksum replay of a pass: the bits flipped in element (row, column). -/
structure LaneErr where
  row : Fin 64
  col : Fin 64
  flip : Word
  deriving DecidableEq, Repr

/-- A slot of radio time: SFN and slot in the frame (12_time.md R471, R472). -/
structure SlotId where
  sfn : Fin 1024
  slot : Fin 80
  deriving DecidableEq, Repr

/-- A symbol of a slot. -/
structure SymId where
  sfn : Fin 1024
  slot : Fin 80
  sym : Fin 14
  deriving DecidableEq, Repr

/-- One complex sample as two integers. -/
structure Cplx where
  re : Int
  im : Int
  deriving DecidableEq, Repr

/-- What the slot's allocation list gives an uplink codeword (08 R277; the list's format is the flow software's). -/
structure AllocShape where
  /-- its first layer's place among the 16 of a reach -/
  layerBase : Fin 16
  /-- its symbols that carry DMRS, ascending -/
  dmrs : List (Fin 14)
  /-- its data symbols in ascending order, each with its data subcarriers of the carrier in ascending order -/
  res : List (Fin 14 × List Nat)
  deriving DecidableEq, Repr

/-- An entry of a slot's uplink allocation list (02 R66, R67; 08 R277): order, layers, where its codeword is decoded, its
DMRS occasions, and its data resource elements. -/
structure UlAlloc where
  carrier : Fin 16
  alloc : Nat
  qm : Nat
  /-- layer places layerBase to layerBase + layers - 1 of the reaches -/
  layers : Nat
  layerBase : Fin 16
  /-- rank of the device that decodes it, and the quad there -/
  rank : Fin 4
  quad : Fin 4
  /-- last DMRS symbol of each of its occasions, and whether each has two symbols -/
  dmrs : List (Fin 14)
  dmrsDouble : Bool
  /-- CP-OFDM; CAPTURE and the basin of its descriptor (09 R322, R328) -/
  cpOfdm : Bool
  capture : Bool
  basin : Fin 8
  /-- its data symbols in ascending order, each with its data subcarriers of the carrier in ascending order -/
  res : List (Fin 14 × List Nat)
  deriving DecidableEq, Repr

/-- A codeword's entry of a slot's downlink allocation list (03 R82): the subcarriers of the carrier that carry it, by symbol,
both in ascending order. -/
structure DlAlloc where
  res : List (Fin 14 × List Nat)
  deriving DecidableEq, Repr

/-- What an allocation entry of reference signals or control channels carries (03 R92): a sequence, or the coded bits of a
polar codeword of the slot by its number (R89). -/
inductive CtlBits where
  | signal (bits : List Bool)
  | coded (n : Nat)
  deriving DecidableEq, Repr

/-- An allocation entry of DMRS, CSI-RS, PT-RS, PDCCH or SS/PBCH resource elements in one symbol (03 R92): BPSK or QPSK, its
own amplitude, its layer places, its subcarriers in ascending order. -/
structure CtlAlloc where
  carrier : Fin 16
  qm : Fin 3
  amp : BitVec 16
  layerBase : Fin 16
  layers : Nat
  /-- rank of the device that modulates it -/
  rank : Fin 4
  res : List Nat
  /-- index of the entry's first bit in this symbol -/
  first : Nat
  bits : CtlBits
  deriving DecidableEq, Repr

/-- A control payload that the control program encodes (03 R89): a DCI with its RNTI, or the PBCH's; `n` numbers it in its
carrier and slot, `e` is its rate-matched length. -/
structure PolarItem where
  n : Nat
  dci : Bool
  rnti : BitVec 16
  payload : List Bool
  e : Nat
  deriving DecidableEq, Repr

/-- The work that the flow image's schedule starts at a gate (02 R54, 03 R104, 09 R346, 15 R574). -/
inductive LaunchWork where
  /-- a job's or program's own gate: no scheduled stage slot -/
  | plain
  /-- F slot `slot` of the DMRS occasion that ends with symbol `sym` (02 R56); in a group, of the front positions of reach
  `slot`; the front positions whose checksum mismatches -/
  | occasionF (cluster : Fin 4) (mu : Fin 4) (sym : SymId) (slot : Nat) (bad : List Nat)
  /-- the D1 slot that combines the Gram partials of back position `reach` (02 R56) -/
  | occasionD1 (cluster : Fin 4) (mu : Fin 4) (sym : SymId) (reach : Nat)
  /-- the F slot of reach k of a data symbol, with the slot's allocation list; owner ranks whose position's checksum
  mismatches (02 R54, R55, R76) -/
  | stageF (cluster : Fin 4) (mu : Fin 4) (reach : Nat) (sym : SymId) (allocs : List UlAlloc) (bad : List Nat)
  /-- the D1, D2 or D3 slot (stage 1, 2 or 3) of reach k, with the outcome of the stage's checksum (02 R54, R75) -/
  | stageD (cluster : Fin 4) (mu : Fin 4) (reach : Nat) (sym : SymId) (stage : Fin 4) (mismatch : Bool)
  /-- the M slot of reach k, with the outcome of its checksum (02 R54, R66, R72) -/
  | stageM (cluster : Fin 4) (mu : Fin 4) (reach : Nat) (sym : SymId) (mismatch : Bool)
  /-- the D1 launch of fallback slot 0: the symbol's slots are assigned (02 R73) -/
  | fallbackAssign (cluster : Fin 4) (mu : Fin 4) (sym : SymId)
  /-- the M slot of fallback slot j: the rerun or LMMSE result of the reach that holds it (02 R74, R75) -/
  | fallbackM (cluster : Fin 4) (mu : Fin 4) (sym : SymId) (slot : Nat)
  /-- a replay slot of reach k; whether an error has made the replay's LLRs differ (15 R571) -/
  | replaySlot (cluster : Fin 4) (mu : Fin 4) (reach : Nat) (sym : SymId) (differ : Bool)
  /-- the control program encodes a slot's DCIs and PBCH of a carrier (03 R89) -/
  | control (carrier : Fin 16) (slot : SlotId) (items : List PolarItem)
  /-- stage X of a symbol, with the symbol's entries of reference signals and control channels (03 R87, R92, R94, R102) -/
  | stageX (cluster : Fin 4) (mu : Fin 4) (sym : SymId) (ctl : List CtlAlloc)
  /-- P slot j of a symbol: fills whose checksum mismatches, or at level 50 whose two results differ (03 R96, R99; 15 R572) -/
  | stageP (cluster : Fin 4) (mu : Fin 4) (sym : SymId) (slot : Nat) (bad : List Nat)
  /-- the rerun slot of a symbol (03 R99) -/
  | rerunP (cluster : Fin 4) (mu : Fin 4) (sym : SymId)
  /-- a Backwater step window opens for a region (09 R346), with the window's cycles (14 R539) -/
  | stepStart (region : Fin 16) (window : Nat)
  /-- an in-field test segment starts on this core, with the window's cycles (15 R574) -/
  | testStart (segment : Fin 4) (window : Nat)
  deriving DecidableEq, Repr

/-- What an abandoning gate cuts beside the core's own units (04 R155). -/
inductive AbandonWork where
  | none
  /-- a stage had not finished its share of the reach (02 R78) -/
  | stageOverrun (cluster : Fin 4) (mu : Fin 4) (reach : Nat) (sym : SymId)
  /-- a Backwater step's window closed (09 R346) -/
  | stepCut (region : Fin 16)
  /-- a Backwater step window opens at this gate (95, STEP_START) -/
  | stepStart (region : Fin 16) (window : Nat)
  /-- a test segment starts at this gate (15 R574) -/
  | testStart (segment : Fin 4) (window : Nat)
  /-- a test segment's window closed (15 R576) -/
  | testCut
  deriving DecidableEq, Repr

/-- A row, or a burst of one, presented to an arbiter (07 R255): port, whether it writes, its local address and data or length,
and the activity tag of its origin (14 R535). -/
structure Burst where
  port : Fin 32
  addr : Nat
  len : Nat
  write : Bool
  data : List Byte
  activity : Fin 6
  deriving DecidableEq, Repr

/-- An error that an access of a pool bank or DRAM channel meets in the protected word that holds a byte offset of the access:
one that is corrected, or an uncorrectable one with the bytes that the word now holds. -/
inductive MemUpset where
  | corrected (off : Nat)
  | uncorrectable (off : Nat) (stored : List Byte)
  deriving DecidableEq, Repr

/-- An error that a quad meets at an iteration's end (08, table "WEIR.FAULTWORD fields"): corrected, or uncorrectable in the
engine or the input buffer, or parity of the parameter store. -/
inductive WeirUpset where
  | none | corrected | engine | inputBuffer | paramStore
  deriving DecidableEq, Repr

/-- A failure that a pool's collector latches (15, table "POOL.FAULTWORD fields"). -/
inductive PoolFail where
  | bank | arbiter | router
  deriving DecidableEq, Repr

/-- An error that a port's buffers meet (15, table "PGRP.FAULTWORD fields"). -/
inductive PortUpset where
  | none | corrected | uncorrectable
  deriving DecidableEq, Repr

/-- A report of a margin monitor (16 R604, R605): slack below the low threshold, between the thresholds, above the high one. -/
inductive Slack where
  | low | between | high
  deriving DecidableEq, Repr

/-- A signal pin (18 R657). -/
inductive Pin where
  | cpTx (k : Fin 8) (p : Fin 4) (neg : Bool) | cpRx (k : Fin 8) (p : Fin 4) (neg : Bool)
  | jrx (n : Fin 12) (neg : Bool) | jtx (n : Fin 12) (neg : Bool)
  | sysref (neg : Bool)
  | agcD (k : Fin 4) (b : Fin 6) | agcA (k : Fin 4) (b : Fin 3) | agcStb (k : Fin 4)
  | peTx (n : Fin 8) (neg : Bool) | peRx (n : Fin 8) (neg : Bool)
  | perstN
  /-- the 36 pins of a channel in the order of the table: DQ, DMI, RDQS, WCK, CA, CS, CK -/
  | ddr (c : Fin 16) (b : Fin 36)
  | ddrReset (q : Fin 8) | ddrZq (q : Fin 8)
  | refclk (neg : Bool)
  | porstN
  | smbClk | smbDat
  | avsClk | avsMdata | avsSdata
  | uartTxd | uartRxd
  | gpio (b : Fin 16)
  | ppsIn | ppsOut | synceOut
  /-- CLK, CS_N, DQS, DQ[7:0], RESET_N -/
  | xspi (b : Fin 12)
  /-- TCK, TMS, TDI, TDO, TRST_N -/
  | jtag (b : Fin 5)
  /-- HOST_EN, SMB_FIXED, RECOVERY, DRAM_CH[1:0], DRAM_DEN[1:0], SMB_ADDR[2:0] -/
  | strap (b : Fin 10)
  | spillN
  | sense (rail : Fin 2) (neg : Bool)
  deriving DecidableEq, Repr

/-- A Tributary frame (11 R406): header fields and payload. -/
structure Frame where
  ver : BitVec 4
  typ : BitVec 4
  flags : Byte
  dst : BitVec 24
  src : BitVec 24
  seq : BitVec 24
  basin : Byte
  length : BitVec 16
  xfer : BitVec 16
  addr : BitVec 64
  crc : Word
  zero : Word
  payload : List Byte
  deriving DecidableEq, Repr

/-- One section of an uplink U-plane message (11 R438, R440): compressed PRBs as exponent and 24 mantissas each. -/
structure USection where
  startPrb : Nat
  /-- per PRB: exponent and the 24 components (real and imaginary in turn) -/
  prbs : List (Nat × List Int)
  deriving DecidableEq, Repr

/-- An uplink U-plane message (11 R435, R436). -/
structure UMsg where
  /-- its message type is 0 (IQ data), and it stands inside the supported subset -/
  known : Bool
  inSubset : Bool
  pcid : BitVec 16
  seqid : Byte
  symId : SymId
  sections : List USection
  deriving DecidableEq, Repr

/-- The kinds of PTP message the device handles (12 R461 to R466). -/
inductive PtpMsg where
  | sync (originNs : Int) (twoStep : Bool)
  | followUp (originNs : Int)
  | delayReqSent
  | delayResp (recvNs : Int)
  /-- an Announce: the master it comes from, and whether the BMCA selects it -/
  | announce (master : Nat) (best : Bool)
  deriving DecidableEq, Repr

/-- Why a time source is lost (12 R464). -/
inductive SourceLoss where
  | announce | syncs
  deriving DecidableEq, Repr

/-- A PCIe function: the PF or a VF (13 R482). -/
inductive PFunc where
  | pf
  | vf (n : Fin 8)
  deriving DecidableEq, Repr

/-- What a firmware slot of the flash holds (16 R614): header, signature and rollback facts of the image. -/
structure FwSlot where
  wellFormed : Bool
  key : Fin 4
  sigOk : Bool
  rollback : Fin 64
  version : Word
  deriving DecidableEq, Repr

/-- A live range of a cheap point (14 R544): local memory, a tile, a lane-store word range under its recorded format, an
element register, codebook memory. -/
inductive LiveRange where
  | lm (off len : Nat)
  | tile (t : Fin 4)
  | ls (wa len : Nat)
  | er (e : Fin 16)
  | cb (off len : Nat)
  deriving DecidableEq, Repr

/-- The contents of a live range (14 R544). -/
structure LiveData where
  range : LiveRange
  bytes : List Byte
  words : List Word
  fmt : Nat
  deriving DecidableEq, Repr

/-- A cheap point of a leaf's program (14 R544; 15 R565): its bundle with CP set, the live ranges that a spill there writes, and
the re-entry set with the DRAM addresses of the copies that the image keeps. -/
structure CheapPoint where
  at_ : Fin 4096
  live : List LiveRange
  reentry : List (LiveRange × Nat)
  deriving DecidableEq, Repr

/-- What a flow image puts into a logical core at load: its instructions, from bundle 0, and the initial contents of its
stores (04 R149, 09 R342). -/
structure CoreImage where
  core : Fin 48
  code : List (BitVec 128)
  init : List LiveData
  /-- its cheap points, ascending -/
  cheap : List CheapPoint
  /-- what a test segment may write: ranges reserved for it, and tiles and element registers dead in its windows (15 R575) -/
  test : List LiveRange
  deriving DecidableEq, Repr

/-- A leaf of a catchment: device address, and the logical core there (01 R20, R25). -/
structure Leaf where
  dev : BitVec 18
  core : Fin 48
  /-- up to four spare logical cores of the same cluster (15 R564) -/
  spares : List (Fin 48)
  deriving DecidableEq, Repr

/-- A catchment descriptor of a flow image. -/
structure Catchment where
  desc : Fin 256
  /-- the group catchment of a four-device receiver (01 R39) -/
  group : Bool
  /-- the radio function its jobs serve: 0 uplink, 1 downlink; none for background and test work -/
  func : Option (Fin 2)
  leaves : List Leaf
  deriving DecidableEq, Repr

/-- Where a reach position of an owner stands on every device of the receiver: cluster, grid block there, and the index k of
its reach among those of the cluster (02 R47, R54, R60). -/
structure RxPlace where
  cluster : Fin 4
  block : Fin 48
  reach : Nat
  deriving DecidableEq, Repr

/-- Where a transmit position stands: cluster, place q in its layer ring (03 R90), and the pool addresses of its transmit grid
blocks of even and odd symbols. -/
structure TxPlace where
  cluster : Fin 4
  q : Fin 32
  even : Nat
  odd : Nat
  deriving DecidableEq, Repr

/-- The part of the LLR ring of a quad that one source writes (02 R67): rank and quad that decode, rank and cluster of the
source, place and size in bytes of its segments and of its descriptors, from the ring's base. -/
structure LlrPart where
  dec : Fin 4
  quad : Fin 4
  rank : Fin 4
  cluster : Fin 4
  seg : Nat
  segLen : Nat
  desc : Nat
  descLen : Nat
  deriving DecidableEq, Repr

/-- A stage slot of the reference flows as the compiler has placed it, transmit slots already moved (03 R106): logical core and
1,000 ns window of the schedule. -/
structure StageSlot where
  core : Fin 48
  window : Nat
  deriving DecidableEq, Repr

/-- A weight tensor of a kind 1 region (09 R340, R345): where its operand stands in the model slot, its format (0 CB4, 1 CB8),
block size code and elements. -/
structure Tensor where
  off : Nat
  fmt : Fin 2
  blk : Fin 3
  n : Nat
  deriving DecidableEq, Repr

/-- A model region as a flow image declares it (09 R315, R316). -/
structure RegionDecl where
  kind2 : Bool
  mus : List (Fin 4)
  quads : List (Fin 4)
  modelId : BitVec 16
  /-- record kind of training: 2 reach, 3 reference-signal image -/
  recordKind : Nat
  slotA : Nat
  slotB : Nat
  stateArea : Nat
  /-- clusters whose stage cores run the model -/
  clusters : List (Fin 4)
  /-- its weight tensors, and where its codebooks stand in the slot, laid out as codebook memory (06 R226) -/
  tensors : List Tensor
  books : Nat
  /-- width and height of the samples of an image region (09 R339) -/
  width : Nat
  height : Nat
  deriving DecidableEq, Repr

/-- The content of a flow image, in the device's terms (the byte format is LMS-SW-0110's; 01 R20 to R25, 09 R315,
14 R540, 16 R595, R617). -/
structure ImageFile where
  tag : Word
  sigOk : Bool
  key : Fin 4
  rollback : Fin 64
  catchments : List Catchment
  cores : List CoreImage
  regions : List RegionDecl
  envelope : Nat
  /-- the image's highest numerology, and for each logical core its ramp schedule: offsets from the start of the ramp period in ns,
  ascending, and target levels (16 R598) -/
  rampMu : Fin 4
  ramps : List (Fin 48 × List (Nat × Nat))
  /-- foreground idle unit-cycles that the schedule leaves, per unit kind 0 to 4 -/
  idle : List Nat
  /-- checking levels the image holds a placement for -/
  levels : List Nat
  /-- the image also names other devices outside its catchments -/
  namesOthers : Bool
  /-- DRAM rings of mirrored grids, matched-filter sections and Gram records (02 R61; 09, "Capture and labels"), and the
  label staging (09 R326) -/
  gridRing : Nat
  reachRing : Nat
  gramRing : Nat
  staging : Nat
  permTable : List (List (Fin 16))
  /-- the phase table of augmentation, CQ16 (09 R339) -/
  phases : List Word
  /-- parts of the LLR rings (02 R67) -/
  parts : List LlrPart
  /-- where the stage cores keep model images A and B in their local memories (02 R70) -/
  modelA : Nat
  modelB : Nat
  deriving DecidableEq, Repr

/-- A carrier record's content, as far as the manual names it (02 R48, R49, R57, R58, R71; 03 R105, R106, R108;
10 R364 to R387; 11 R447). -/
structure CarrierRec where
  mu : Fin 4
  group : Bool
  viaSwitch : Bool
  uplink : Bool
  downlink : Bool
  fronthaul : Bool
  /-- receive antennas of each device of the receiver, by device rank -/
  rxAntennas : List Nat
  rxLayers : Nat
  /-- highest modulation order, in bits -/
  rxQm : Nat
  normalCp : Bool
  dmrsFirst : Bool
  dmrsNoData : Bool
  bandwidthMHz : Nat
  /-- reach positions of each owner in ascending order (02 R45, R47) -/
  rxPlaces : List (List RxPlace)
  fallbacks : Nat
  txStreams : Nat
  txLayers : Nat
  txQm : Nat
  /-- transmit positions in ascending order of their subcarriers (03 R90) -/
  txPlaces : List TxPlace
  pSlots : Nat
  /-- transmit and receive stage slots of the carrier (03 R106) -/
  txSlots : List StageSlot
  rxSlots : List StageSlot
  outShift : Fin 16
  /-- DRAM addresses of the carrier's beam-weight tables (03 R101) -/
  tableA : Nat
  tableB : Nat
  nrb : Nat
  /-- front-end configuration-memory words the record writes, (offset from 0x50_0000, value) -/
  dfeWords : List (Nat × Word)
  /-- the record's reserved bytes are zero and it lies in the format -/
  wellFormed : Bool
  deriving DecidableEq, Repr

/-- The 48-byte update parameter record (09 R317). -/
structure UpdateRec where
  region : Nat
  kind : Nat
  epochs : Nat
  samples : Nat
  source : Addr
  lr : Word
  batch : Nat
  k1 : Nat
  k2 : Nat
  gclip : Nat
  pinEpoch : Nat
  valCount : Nat
  margin : Nat
  flags : Nat
  swapAt : Nat
  seed : Word
  reservedZero : Bool
  deriving DecidableEq, Repr

/-- How one run of a Backwater step ended (09 R347 to R349): the physical cores that ran it, and what errors have changed: bytes
of its gradient buffer and bits of its loss. -/
structure StepRun where
  cores : List (Fin 52)
  flips : List (Nat × Byte)
  lossFlip : BitVec 64
  deriving DecidableEq, Repr

/-- What a capture takes (09 R322, R329): the reach of a position and symbol, or an occasion of a privileged stream by its first
DMRS symbol, with the port's pilot subcarriers in ascending order and the pilots sent there, as the allocation list gives them. -/
inductive Capture where
  | reach (carrier : Fin 16) (sym : SymId) (position : Fin 64)
  | image (stream : Fin 4) (sym : SymId) (pilots : List (Nat × Word))
  deriving DecidableEq, Repr

/-- A test that ends: a segment on a core with its signature and the test image's, or a known-answer block on a Weir unit
(0 to 5 engines, 6 and 7 encoders of the quad) with its outcome (15 R576, R577). -/
inductive TestEnd where
  | core (p : Fin 52) (signature expected : BitVec 64)
  | weir (q : Fin 4) (unit : Fin 8) (ok : Bool)
  deriving DecidableEq, Repr

/-- One activity-budget row of BUDGET_SET: activity, unit kind, MIN, MAX (14 R536). -/
structure BudgetRow where
  activity : Fin 6
  kind : Fin 5
  min : Nat
  max : Nat
  deriving DecidableEq, Repr

/-- A budget unit: kind and number (14 R534). -/
structure UnitId where
  kind : Fin 5
  num : Nat
  deriving DecidableEq, Repr

/-- Boot facts of the surroundings (16 R612 to R616; 18 R661, R668). -/
structure BootFacts where
  hostEn : Bool
  smbFixed : Bool
  smbAddr : Fin 8
  recovery : Bool
  dramCh : Fin 4
  dramDen : Fin 4
  /-- rails are all in range at the release -/
  railsOk : Bool
  /-- DRAM channel pairs that fail link training -/
  badPairs : List (Fin 8)
  /-- switched domains that do not signal power-good -/
  badDomains : List (Fin 65)
  deriving DecidableEq, Repr

/-- The way an asynchronous command's background work ends (13 R498). -/
inductive AsyncResult where
  /-- IMAGE_LOAD: the image read, or none when the parameter read ended in error -/
  | image (f : Option ImageFile)
  /-- FW_STAGE: the firmware image read and what it holds -/
  | fwStage (f : Option FwSlot)
  /-- REMOTE_MBX: the remote mailbox's response, or none when the access ended in error -/
  | remote (resp : Option (List Byte))
  deriving DecidableEq, Repr

/-- An Ethernet frame's outer facts (11 R402, R444). -/
structure EthFrame where
  size : Nat
  fcsOk : Bool
  tags : Nat
  etype : BitVec 16
  dstMac : BitVec 48
  pcp : Fin 8
  /-- a PFC frame: the priority it pauses -/
  pfc : Option (Fin 8 × Bool)
  /-- it carries a PTP Sync or Delay_Req (12 R465) -/
  ptpEvent : Bool
  /-- FEC codewords that its reception corrected, and could not correct (11, CP registers) -/
  fecCorr : Nat
  fecUncorr : Nat
  /-- an error of the receive buffer that held it (15, PGRP.FAULTWORD) -/
  buf : PortUpset
  bytes : List Byte
  deriving DecidableEq, Repr

end Sys2Proof
end

