-- ==== Sys2Proof/Syntax.lean ====
section
/-! DEFINITION. The commands of the OHN-4820 block: one constructor for each row of spec/opcode_table.json, in the
table's order, with the row's operands. No row of the table gives bits, so no word spells a command. -/
namespace Sys2Proof

/-- A command: an operation or event of spec/opcode_table.json. -/
inductive Instr where
  -- the core (04, 05, 06)
  | bundleIssue (p : Fin 52) (outside : List (Fin 24)) (ups : List Upset)
  | ldprogDone (p : Fin 52)
  | passEnd (p : Fin 52) (errs : List LaneErr) (ups : List Upset)
  | eddyRunStart (p : Fin 52) (ups : List Upset)
  | eddyRunEnd (p : Fin 52)
  | sluiceTransferComplete (p : Fin 52) (so : Bool) (which : Fin 6) (ups : List Upset)
  | gateLaunch (p : Fin 52) (work : LaunchWork)
  | gateLate (p : Fin 52) (work : LaunchWork)
  | abandoningGate (p : Fin 52) (work : AbandonWork)
  | stallTimeout (p : Fin 52)
  | halt (path : Path) (sel : CoreSel) (on : Bool)
  | haltAtBoundary (p : Fin 52)
  | scrub (path : Path) (sel : CoreSel)
  | scrubDone (p : Fin 52)
  -- transmit (03)
  | encodeLaunch (mu : Fin 4) (slot : SlotId)
  | encoderCodeBlockDone (e : Fin 8) (uncorr : Bool)
  | ifftStart (carrier : Fin 16) (sym : SymId)
  | firstSampleOut (carrier : Fin 16) (sym : SymId)
  -- the codeword's entry of the slot's allocation list, which the host posts with it
  | dlCodewordDescriptor (b : Fin 8) (alloc : DlAlloc)
  -- Weir (08) and jobs (14)
  | decodeDescriptor (b : Fin 8) (alloc : AllocShape)
  | jobRecord (b : Fin 8)
  | llrSegmentArrival (q : Fin 4) (part : Fin 16) (descOff : Nat)
  | llrWaitExpiry (q : Fin 4) (slot : SlotId) (carrier : Fin 16)
  | decodeDeadline (q : Fin 4) (slot : SlotId) (carrier : Fin 16)
  | decodeIterationEnd (q : Fin 4) (e : Fin 6) (upset : WeirUpset)
  | polarRequest (q : Fin 4) (place : Fin 32) (req : BitVec 256) (basin : Option (Fin 8))
  | polarDone (q : Fin 4) (uncorr : Bool)
  -- radio time, periods, power (12, 14, 16)
  | slotBoundary (mu : Fin 4)
  | frameBoundary
  | subsecWrap
  | budgetPeriodStart
  | estimatorInterval (estA estB : BitVec 17)
  | sensorReading (sensor : Fin 9) (reading : BitVec 16)
  | marginCheck (domain : Fin 65) (slack : Slack) (headroom avsOk : Bool)
  | voltageLower (domain : Fin 65)
  -- memory (07)
  -- fails: a failure of the bank, its arbiter or the cluster's router
  | arbiterGrant (a : Fin 72) (arriving : List Burst) (fails : Option PoolFail)
  | burstComplete (a : Fin 72) (upsets : List MemUpset)
  | starved (a : Fin 72) (port : Fin 32)
  | poolScrubRead (c : Fin 4) (upsets : List MemUpset)
  | dramScrubRead (upsets : List MemUpset)
  | dramRefresh (channel : Fin 16) (hot : Bool)
  | dramChannelLoss (channel : Fin 16)
  -- front end (10)
  | sysrefEdge (tx : Bool) (offCycles : Nat)
  | rxMultiblock (lane : Fin 12) (crcOk : Bool)
  | laneSyncLoss (lane : Fin 12)
  | agcBlock (stream : Fin 32) (block : List (Int × Int × Bool))
  | fftDrain (channel : Fin 64) (sym : SymId)
  | cfrBlock (stream : Fin 32)
  | maskAverage (stream : Fin 32)
  | chirpWindow (channel : Fin 8) (sf : Fin 8)
  -- Tributary (11)
  -- ownGap: a sequence value missing below the frame's belongs to its own transfer (R424)
  | write (port : Fin 8) (f : Frame) (ownGap : Bool)
  | readReq (port : Fin 8) (f : Frame) (ownGap : Bool)
  | readResp (port : Fin 8) (f : Frame) (ownGap : Bool)
  | ack (port : Fin 8) (f : Frame)
  | nack (port : Fin 8) (f : Frame)
  | discover (port : Fin 8) (f : Frame) (mac : BitVec 48)
  | offer (port : Fin 8) (f : Frame)
  | request (port : Fin 8) (f : Frame) (mac : BitVec 48)
  | grant (port : Fin 8) (f : Frame)
  | ackTimer (src : BitVec 18)
  | nackDelayExpiry (src : BitVec 18)
  | retryTimeout (dst : BitVec 18) (seq : BitVec 24)
  | heldFrameLanding (src : BitVec 18) (seq : BitVec 24) (ownGap : Bool)
  | discoverTimer
  | offerCollectEnd
  | offerWithdraw (uid : BitVec 128)
  | leaseRenew
  | leaseLost
  -- fronthaul and ports (11)
  -- frame: the multicast or broadcast frame that carried the message, to be forwarded too (R444)
  | uPlaneMessage (port : Fin 8) (m : UMsg) (frame : Option EthFrame)
  | oneWayDelayRequest (port : Fin 8) (src : BitVec 48) (id : Byte) (subset : Bool) (frame : Option EthFrame)
  | oneWayDelayResponse (port : Fin 8) (delayNs : Word) (subset : Bool) (frame : Option EthFrame)
  | rxWindowClose (carrier : Fin 16) (sym : SymId)
  | cPlaneSend (entry : Fin 512) (sections : List Byte)
  -- buf: an error of the queue that held the frame
  | forwardEgress (port : Fin 8) (buf : PortUpset)
  -- fails: an error of the replay buffer, MAC or PCS that cannot be corrected
  | portLinkLoss (port : Fin 8) (fails : Bool)
  -- time (12)
  | ptpEventMessage (port : Fin 8) (domain : Byte) (m : PtpMsg) (correction : Int) (frame : Option EthFrame)
  | announceTimeout (why : SourceLoss)
  | ppsInEdge
  | ppsMissing
  | synceLos
  | incrementWrite (path : Path) (v : Word)
  | adjWrite (path : Path) (v : Word)
  | go (path : Path) (v : Word)
  | frameAdvWrite (path : Path) (v : Word)
  | ns32Read (path : Path)
  | reachLoRead (path : Path) (c : Fin 4)
  | choicesRead (path : Path)
  -- guarded and sequenced register writes (17)
  | wseqClear (path : Path) (off : BitVec 24) (v : Word)
  | unlock (path : Path) (off : BitVec 24) (v : Word)
  | lockTimeout (off : BitVec 24)
  | portStart (path : Path) (port : Fin 8) (v : Word)
  | portStop (path : Path) (port : Fin 8) (v : Word)
  | dramCfgWrite (path : Path) (v : Word)
  | epochAdv (path : Path) (v : Word)
  | trainDisable (path : Path) (v : Word)
  | cacheConfigWrite (path : Path) (size : Bool) (v : Word)
  | commandSlotWrite (f : PFunc) (m : Fin 9) (off : Fin 64) (bytes : List Byte)
  | registerWrite (path : Path) (off : BitVec 24) (bytes : List Byte)
  -- host interface (13)
  | doorbell (f : PFunc) (m : Fin 9) (v : BitVec 16)
  | sqDoorbell (f : PFunc) (b : Fin 8) (ring : Fin 3) (v : BitVec 16)
  | cqDoorbell (f : PFunc) (ring : Fin 9) (v : BitVec 16)
  | ringFetch (b : Fin 8) (ring : Fin 3)
  | completionDequeue (b : Fin 8)
  | shadowWrite (ring : Fin 9)
  | msixMessage (f : PFunc) (vec : Fin 32)
  | asyncCommandDone (opcode : Byte) (r : AsyncResult)
  | identify (m : Fin 9)
  | echo (m : Fin 9)
  | getState (m : Fin 9)
  | imageLoad (m : Fin 9)
  | imageInfo (m : Fin 9)
  | imageUnload (m : Fin 9)
  | carrierConfig (m : Fin 9) (rec : Option CarrierRec)
  | carrierRemove (m : Fin 9)
  | funcStart (m : Fin 9)
  | funcStop (m : Fin 9)
  | funcChange (m : Fin 9)
  | stopBoundary
  | applyPhase (badDomains : List (Fin 65))
  | restartBoundary
  | basinConfig (m : Fin 9)
  | basinReset (m : Fin 9)
  | basinResetEnd (b : Fin 8)
  | basinStats (m : Fin 9)
  | ringConfig (m : Fin 9)
  | jobCancel (m : Fin 9)
  | atuContext (m : Fin 9)
  | atuInval (m : Fin 9)
  | train (m : Fin 9)
  | load (m : Fin 9)
  | swap (m : Fin 9)
  | modelStatus (m : Fin 9)
  | bkwCtrl (m : Fin 9)
  | bkwCache (m : Fin 9)
  | bkwRefsig (m : Fin 9)
  | bkwPerm (m : Fin 9)
  | fence (m : Fin 9)
  | unfence (m : Fin 9)
  | checkLevel (m : Fin 9)
  | telemetry (m : Fin 9)
  | telemetryPeriod (m : Fin 9)
  | faultLog (m : Fin 9)
  | timeSet (m : Fin 9)
  | timeSource (m : Fin 9)
  | fabricLease (m : Fin 9)
  | fabricRoute (m : Fin 9)
  | remoteMbx (m : Fin 9)
  | budgetSet (m : Fin 9) (rows : List BudgetRow)
  | detMode (m : Fin 9)
  | powerCap (m : Fin 9)
  | fwStage (m : Fin 9)
  | fwActivate (m : Fin 9)
  | fwStatus (m : Fin 9)
  | deviceReset (m : Fin 9)
  -- jobs and Backwater (14, 09)
  -- resume: the launch time that Wellhead chooses for a pre-empted job (R545)
  | jobReady (b : Fin 8) (num : BitVec 48) (resume : Word)
  | preemptWaitExpiry (p : Fin 52)
  | spill (p : Fin 52)
  | capture (r : Capture)
  | reEncode (q : Fin 4) (block : Nat)
  | stepEnd (region : Fin 16) (r : StepRun)
  | validationDone (region : Fin 16)
  | commit (region : Fin 16)
  | commitDone (region : Fin 16)
  | swapLatch (mu : Fin 4)
  -- faults and test (15)
  -- launch: the catchment's next launch time and its target bundle (R565)
  | remap (p : Fin 52) (launch : Option (Word × Fin 4096))
  | testSegmentEnd (t : TestEnd)
  | collectorError
  | wellheadLockstep
  | watchdogExpiry
  | pllLockLoss
  | railFault
  | domainFail (domain : Fin 65)
  -- power and reset (16, 18)
  | powerOn
  | aonPowerLoss
  | porstNAssert
  | porstNRelease (facts : BootFacts)
  | warmReset (facts : BootFacts)
  | coldReset (facts : BootFacts)
  | perstN
  | functionLevelReset (f : PFunc)
  | pcieLinkDown
  | tapReset
  | extest
  | idcode
  -- the levels that the boundary cells capture, and the data shifted into them
  | samplePreload (pins data : List (Pin × Bool))
  | clamp
  | highz
  | extestPulse
  | extestTrain
  -- code: the instruction code shifted in (R669)
  | bypass (code : Byte)
  -- SMBus (13)
  | prepareToArp (pecOk : Bool)
  | resetDevice (directed : Option (BitVec 7)) (pecOk : Bool)
  | getUdid (directed : Option (BitVec 7)) (bus : BitVec 128)
  | assignAddress (udid : BitVec 128) (addr : BitVec 7) (pecOk : Bool)
  | csrRead (off : BitVec 24) (pecOk : Bool)
  | mbxStatus
  | ident
  -- rows added after the first (11, 16, 15, 09, 10)
  | portLinkUp (port : Fin 8) (fecLanes : BitVec 4)
  -- bars: base and size of each BAR as the host has placed them (13 R482)
  | pcieLinkUp (width : Fin 9) (speed : Fin 6) (numVf : Fin 9) (bars : List (Nat × Nat))
  | perstNRelease
  | railsInRange
  | faultBlockParity
  | stagingDone (region : Fin 16) (readOk : Bool)
  | symbolBoundary (mu : Fin 4)
  | ethernetFrame (port : Fin 8) (f : EthFrame)
  deriving DecidableEq, Repr

end Sys2Proof
end

