-- ==== Sys2Proof/Decode.lean ====
section
/-! DEFINITION. Decoding. spec/opcode_table.json gives no row any bits: the block takes commands, not words. -/
namespace Sys2Proof

/-- The command that a word of the opcode table spells: none, for no row of the table has bits (assumption 13). -/
def decodeTableWord (_nbits _w : Nat) : Option Instr := none

end Sys2Proof
end

