-- ==== Sys2Proof/Config.lean ====
section
/-! DEFINITION. The free values: what the manual leaves open, as constants with no body. Nothing can be proved of
their values, so every claim holds for all of them (assumption 2 and the rows it names). -/
namespace Sys2Proof.Config

/-- The contents of a store word that the manual calls undefined (04 R155), by the counter and the word's index. -/
opaque freeWord : Nat → Nat → Word
/-- Which of the words within 2 units in the last place of the exact result RCP, RSQRT, EXP2 and LOG2 give, by operation and
operand as it is read (05 R210: one fixed algorithm). -/
opaque ulpOffset : Nat → Word → Nat
/-- Which of two writes of one bundle to one a-register, landing in the same cycle, is kept (05 R168, R169). -/
opaque pickPostMod : Nat → Bool
/-- The cycle of a pass, or of a run, in which an access to local memory falls (04 R117, R139, R140 give spans only): compute
cycles start after a fill, a run's vectors are read and written within their wave, by program length and vector, and BROW, BCOL
and element programs are loaded within 16 cycles. -/
opaque passFill : Nat
opaque eddyCycle : Bool → Nat → Nat → Nat
opaque operandCycle : Nat → Nat
/-- The base graph's entries of TS 38.212, Tables 5.3.2-2 and 5.3.2-3: base graph (1 or 2), lifting-size set, row to
the list of (column, shift coefficient), in ascending columns (the tables are not in the manual). -/
opaque baseGraph : Nat → Nat → Nat → List (Nat × Nat)
/-- The parity bits of a code block, for base graph, lifting-size set, Z and information bits (TS 38.212; the manual
does not hold the graphs, assumption 7). -/
opaque ldpcParity : Nat → Nat → Nat → List Bool → List Bool
/-- What LCORE reads on a physical core that no logical number names, by the core (05 R166 names only mapped cores). -/
opaque noLogical : Nat → Nat
/-- The circular-buffer length of limited-buffer rate matching of a downlink codeword, by TBS and RATE (03 R82 gives LBRM
but no length). -/
opaque lbrmLimit : Nat → Nat → Nat
/-- The slot that a job completion carries, 17 bits (the manual gives a job none), by the counter. -/
opaque jobSlot : Nat → Nat
/-- The bytes of an admin event's DETAIL from its type and the values it carries (13: the layout is not in the manual). -/
opaque eventDetail : Nat → List Nat → List Byte
/-- The scrambling sequence of TS 38.211, clause 5.2.1: c_init and index (not restated in the manual). -/
opaque goldBit : Nat → Nat → Bool
/-- The result of the list decoder for the rate-matched LLRs of a request (its path metric details are not in the
manual, 08 R307): pass, path index, metric and payload bits, by K, CRC kind, log2 N, I_BIL and the LLRs. -/
opaque polarDecode : Nat → Nat → Nat → Bool → List Int → (Bool × Nat × Nat × List Bool)
/-- The firmware's servo: the next increment and slew for an offset (12: Wellhead firmware runs the servo). -/
opaque servoIncrement : Nat → Int → BitVec 48
opaque servoAdj : Nat → Int → Word
/-- Wellhead's ULP: the vendor and manufacturer identities of the data sheet (13 UDID, 18 R670). -/
opaque vendorId : BitVec 16
opaque subsystemId : BitVec 32
opaque jtagMaker : BitVec 11
/-- The capability byte of the UDID by address type (fixed or not), its version and revision byte by STEP_MAJOR and
STEP_MINOR, its interface field (13, table "UDID": SMBus 3.2's encodings are not in the manual). -/
opaque udidCaps : Bool → BitVec 8
opaque udidRevision : Nat → Nat → BitVec 8
opaque udidInterface : BitVec 16

/-- What the delay and asymmetry word of a port takes off a PTP offset, in ns (13 TIME_SOURCE: no layout). -/
opaque portCorrection : Word → Int
/-- The bytes that a telemetry transfer writes for a counter group (13 TELEMETRY: neither groups nor layout), by group and
counter. -/
opaque telemetryBytes : Nat → Nat → List Byte

/-- A byte that another device returns to a read of Wellhead or of a ring fetch, by the counter and the byte's index
(assumption 9). -/
opaque remoteByte : Nat → Nat → Byte
/-- Whether another device answers such an access without error, by the counter (assumption 9). -/
opaque remoteOk : Nat → Bool

/-- The Q1.15 twiddle factors of the front end's FFT, real and imaginary part, by log2 N and exponent (10 R377: a fixed
table that the manual does not print). -/
opaque twiddle : Nat → Nat → Int × Int
/-- The NCO's CQ16 table, cosine and sine by the top 16 phase bits, and the taps of the halfband filter (10 R373, R374: fixed, and not
in the manual). -/
opaque ncoTable : Nat → Int × Int
opaque halfband : Nat → Int
/-- The final low-pass filter of a chirp channel, on its newest inputs (10 R394: no taps), and the powers in FP32 of the bins of a
chirp window, by spreading factor (10 R395: the base chirp and the transform are not in the manual). -/
opaque chirpFinal : List (Int × Int) → Int × Int
opaque chirpPower : Nat → List (Int × Int) → List Word
/-- The FP32 bin powers of a window of 256 samples in the mask checker (10 R389: its window function and transform are fixed, and
not in the manual). -/
opaque maskPower : List (Int × Int) → List Word
/-- The latency from the lane pins to the front-end input in ns that a release buffer delay gives (10 R369: no formula). -/
opaque rxLatency : Nat → Nat
/-- The part of the transmit path's delay in ns that no record sets (10 R387: no formula). -/
opaque txFixedPath : Nat

/-- The first result of GET_STATE, for an image loaded and functions started (13: no encoding of the device state). -/
opaque stateByte : Bool → Bool → Byte
/-- The carrier slots of a flow image that IMAGE_INFO returns, by FLOW_TAG (not among the image's facts). -/
opaque carrierSlots : Word → Byte
/-- The version that a boot ROM in recovery returns, and a slot that holds no image (13 IDENTIFY, FW_STATUS). -/
opaque noVersion : Word

/-- The arithmetic of the receiver's flow programs, which the manual names but does not lay down (02, "Stages and their
work"; assumption 74). Each is a function of bytes that the state holds, so its results are the same from run to run (R77).
The channel estimator: the estimator sections of a stage core, the grid blocks of the occasion's last two symbols for a front
position and its neighbours, and the position, to 32 KiB of matrices and 16 noise variances (R62). -/
opaque estimator : List Byte → List (List Byte) → Nat → List Byte
/-- The partial matched filter over a device's antennas: the H record of each subcarrier's occasion, by subcarriers, and the
grid block, to 16 layers of 256 complex INT32 sums (R64). -/
opaque mfPartial : List (List Nat × List Byte) → List Byte → List Int
/-- The partial Gram matrices of a front position: its H record to 16 matrices of 136 complex INT32 sums (R64). -/
opaque gramPartial : List Byte → List Int
/-- The narrowing of matched-filter sums to CQ16 and of Gram sums to CQ16 with one e5m3 scale for each matrix (R63, R65). -/
opaque mfNarrow : List Int → List Byte
opaque gramNarrow : List Int → List Byte
/-- A detector iteration: stage 1 to 3, detector sections of the stage's two cores, matched-filter vectors, for each allocation
its subcarriers, layers, order, Gram record and H record, and the estimates and variances so far, to new ones (R65). -/
opaque detector : Nat → List Byte → List Byte → List Byte → List (List Nat × Nat × Nat × List Byte × List Byte) → List Byte
  → List Byte
/-- The demapper: demapper sections, estimates and variances, order, subcarrier, layer and bit to an LLR6 value. -/
opaque demapper : List Byte → List Byte → Nat → Nat → Nat → Nat → BitVec 6
/-- The LMMSE receiver: matched-filter vectors, Gram and H record, order, subcarrier, layer and bit to an LLR6 value (R74). -/
opaque lmmse : List Byte → List Byte → List Byte → Nat → Nat → Nat → Nat → BitVec 6
/-- The delay spread in ns and the Doppler estimate in Hz of an H record (09, table "Record header"; no method is laid down). -/
opaque delayRms : List Byte → BitVec 16
opaque dopplerHz : List Byte → BitVec 16
/-- The training and validation programs of a region (09 R315, R351, R352; 'reference programs', not laid down): flow tag,
region, model image and, for training, master weights, then the samples (header and sections of each record with its occasion
record, augmented for training), to the gradient buffer, the loss and the errors. -/
opaque trainGrad : Word → Nat → List Byte → List (List Byte) → List (List Byte) → List Byte
opaque trainLoss : Word → Nat → List Byte → List (List Byte) → List (List Byte) → BitVec 64
opaque valLoss : Word → Nat → List Byte → List (List Byte) → BitVec 64
opaque valErrors : Word → Nat → List Byte → List (List Byte) → Word
/-- The weights of a kind 2 region's parameter table, as BF16 words, and the table that weights give (09 R344, R345 state the
blocks of a kind 1 image alone). -/
opaque tableWeights : Word → List Byte → List Nat
opaque tableOf : Word → List Nat → List Byte → List Byte
/-- TS 38.212's polar tables (03 R89; not restated in the manual): the interleaver of a payload of K bits (clause 5.3.1.1), and
the positions of a code of length 2^n in ascending reliability (Table 5.3.1.2-1). -/
opaque polarInterleave : Nat → List Nat
opaque polarOrder : Nat → List Nat

/-- What a test segment leaves in the ranges that it may write (15 R575). -/
opaque testByte : Nat → Nat → Byte

/-- What Wellhead adds to a rail when a domain's LDO runs out of headroom, in 0.1 mV (16 R604: no value). -/
opaque railStep : Nat

end Sys2Proof.Config
end

