-- ==== Sys2Proof/Machine/Tab.lean ====
section
/-! DEFINITION. Sparse tables in one canonical form: sorted lists of (key, value) pairs. Memories, register files and
tables of units are such lists (memory is the list of `Host.Cell` pairs that the interface asks for). -/
namespace Sys2Proof.Machine

/-- A sparse table: pairs of key and value, keys strictly rising. -/
abbrev Tab (α : Type) := List (Nat × α)

/-- The value at key `k`; an unlisted key reads as `d k`. -/
def tget {α : Type} (d : Nat → α) : Tab α → Nat → α
  | [], k => d k
  | (j, a) :: t, k => if j = k then a else tget d t k

/-- Lists `v` at `k`, in place of what stood there; used for tables of structures. -/
def tset {α : Type} : Tab α → Nat → α → Tab α
  | [], k, v => [(k, v)]
  | (j, a) :: t, k, v =>
    if k < j then (k, v) :: (j, a) :: t
    else if k = j then (k, v) :: t
    else (j, a) :: tset t k v

/-- Removes what is listed at `k`. -/
def tdel {α : Type} (t : Tab α) (k : Nat) : Tab α := t.filter fun e => decide (e.1 ≠ k)

/-- Writes `v` at `k` and keeps the canonical form: writing what an unlisted key reads as removes the entry. -/
def tput {α : Type} [DecidableEq α] (d : Nat → α) : Tab α → Nat → α → Tab α
  | [], k, v => if v = d k then [] else [(k, v)]
  | (j, a) :: t, k, v =>
    if k < j then (if v = d k then (j, a) :: tdel t k else (k, v) :: (j, a) :: t)
    else if k = j then (if v = d k then tdel t k else (k, v) :: t)
    else (j, a) :: tput d t k v

/-- The entry at `k`, if one is listed. -/
def tfind {α : Type} : Tab α → Nat → Option α
  | [], _ => none
  | (j, a) :: t, k => if j = k then some a else tfind t k

/-- Every listed key is above `b` and keys strictly rise. -/
def tsorted {α : Type} : Option Nat → Tab α → Bool
  | _, [] => true
  | none, (j, _) :: t => tsorted (some j) t
  | some b, (j, _) :: t => decide (b < j) && tsorted (some j) t

/-- The canonical form: keys strictly rising, and no entry equal to what an unlisted key reads as. -/
def twf {α : Type} [DecidableEq α] (d : Nat → α) (t : Tab α) : Bool :=
  tsorted none t && t.all (fun e => decide (e.2 ≠ d e.1))

/-- What an unlisted byte of any memory reads as (assumption 3). -/
def zeroByte (_ : Nat) : Byte := 0

/-- `n` bytes of a byte table from `a` upward. -/
def readBytes (m : Tab Byte) (a : Nat) : Nat → List Byte
  | 0 => []
  | n + 1 => tget zeroByte m a :: readBytes m (a + 1) n

/-- Writes the bytes `bs` from `a` upward. -/
def writeBytes (m : Tab Byte) (a : Nat) : List Byte → Tab Byte
  | [] => m
  | b :: bs => writeBytes (tput zeroByte m a b) (a + 1) bs

/-- Zeroes `n` bytes from `a` upward. -/
def zeroBytes (m : Tab Byte) (a n : Nat) : Tab Byte := writeBytes m a (List.replicate n 0)

/-- Bits `hi` down to `lo` of a number. -/
def bits (v hi lo : Nat) : Nat := v / 2 ^ lo % 2 ^ (hi + 1 - lo)

/-- Bit `i` of a number. -/
def bitOf (v i : Nat) : Bool := v / 2 ^ i % 2 == 1

/-- The number a little-endian byte list holds (00_scope.md R9). -/
def leNat : List Byte → Nat
  | [] => 0
  | b :: bs => b.toNat + 256 * leNat bs

/-- The `n` little-endian bytes of a number. -/
def leBytes : Nat → Nat → List Byte
  | 0, _ => []
  | n + 1, v => BitVec.ofNat 8 v :: leBytes n (v / 256)

/-- A number read as an `n`-bit two's complement integer. -/
def sext (n v : Nat) : Int := if v % 2 ^ n < 2 ^ (n - 1) then (v % 2 ^ n : Nat) else (v % 2 ^ n : Nat) - (2 ^ n : Nat)

/-- The low `n` bits of an integer as a natural number. -/
def wrapN (n : Nat) (i : Int) : Nat := (i % (2 ^ n : Nat)).toNat

/-- A 32-bit word from an integer, wrapping. -/
def wordOfInt (i : Int) : Word := BitVec.ofInt 32 i

/-- Bytes `at` to `at + n - 1` of a list as a little-endian number. -/
def fieldAt (bs : List Byte) (i n : Nat) : Nat := leNat ((bs.drop i).take n)

/-- Sets bits `hi` down to `lo` of a word to the field value `v`. -/
def setBits (w : Word) (hi lo v : Nat) : Word :=
  BitVec.ofNat 32 (w.toNat - bits w.toNat hi lo * 2 ^ lo + v % 2 ^ (hi + 1 - lo) * 2 ^ lo)

/-- The aligned words of a byte list. -/
def wordsOf : Nat → List Byte → List Word
  | 0, _ => []
  | n + 1, bs => BitVec.ofNat 32 (leNat (bs.take 4)) :: wordsOf n (bs.drop 4)

/-- One step of the reflected CRC-32C over a bit. -/
def crcStep (c : Nat) : Nat := if c % 2 = 1 then (c / 2) ^^^ 0x82F63B78 else c / 2

/-- CRC-32C over one byte. -/
def crcByte (c : Nat) (b : Byte) : Nat :=
  let x := c ^^^ b.toNat
  crcStep (crcStep (crcStep (crcStep (crcStep (crcStep (crcStep (crcStep x)))))))

/-- CRC-32C of a byte list (02 R70, 11 R406; the polynomial is PRESUMED, assumption 8). -/
def crc32c (bs : List Byte) : Word := BitVec.ofNat 32 (bs.foldl crcByte 0xFFFFFFFF ^^^ 0xFFFFFFFF)

end Sys2Proof.Machine
end

