-- ==== Sys2Proof/Machine/Radio.lean ====
section
/-! DEFINITION. The state of the radio units: receiver pipeline, transmit path, Weir quads, Backwater, Delta front end. -/
namespace Sys2Proof.Machine

/-! ## Receiver pipeline (02_receiver_pipeline.md) -/

/-- One LLR segment of a reach (R66, R67): allocation, order, index in the codeword of its first LLR, its LLRs, and the rank
and quad that decode it. -/
structure Segment where
  alloc : Nat
  qm : Nat
  first : Nat
  llrs : List (BitVec 6)
  rank : Nat
  quad : Nat
  deriving DecidableEq, Repr

/-- A reach from its F slot until its segments are final (R54, R66 to R79). -/
structure RxReach where
  /-- running number in its cluster; its record is number n modulo 32 (R59, R65) -/
  n : Nat
  mu : Nat
  carrier : Nat
  sym : SymId
  position : Nat
  k : Nat
  /-- T0 of its symbol as its F slot's launch gives it, in the form of TIME.NS32 (R54) -/
  t0 : Nat
  /-- stages finished: 1 F, 2 D1, 3 D2, 4 D3, 5 M; cores that have done their share of the next one (R52) -/
  stage : Nat
  half : List Nat
  /-- a checksum rerun, or a confidence fallback (R72, R75) -/
  rerun : Bool
  flagged : Bool
  /-- allocations with data subcarriers in its position, and the occasion whose estimate each uses (R50, R66) -/
  allocs : List UlAlloc
  occ : List (Nat × Nat)
  /-- model image and RXP.MONCFG of its slot (R71, R81) -/
  img : Nat
  cfg : Word
  /-- first result, while it waits for a fallback or replay slot -/
  segs : List Segment
  slot : Option Nat
  replay : Bool
  deriving DecidableEq, Repr

/-- A reach whose segments are final: its record and FLAGS (R65, R67). -/
structure RxDone where
  n : Nat
  carrier : Nat
  sym : SymId
  position : Nat
  flags : Nat
  occ : List (Nat × Nat)
  deriving DecidableEq, Repr

/-- A DMRS occasion of a cluster (R50, R56, R62, R63): number, last DMRS symbol, T0, and the front and back positions whose H
and Gram records are complete. Its records stand in the channel-state set of its number modulo 2. -/
structure RxOcc where
  n : Nat
  mu : Nat
  sym : SymId
  t0 : Nat
  front : List Nat
  back : List Nat
  /-- halves of back positions combined in D1 so far: position * 2 + half -/
  halves : List Nat
  deriving DecidableEq, Repr

/-- A model image in the stage cores: header fields that the receiver reads, and the bytes that each of the stages F, D1, D2,
D3 and M holds (R70). -/
structure ModelImg where
  version : Nat
  magMin : List Byte
  zeroMax : List Byte
  lens : List Nat
  deriving DecidableEq, Repr

/-- RXP.MONCFG by slot (R81): the last slot boundary of a numerology, the setting from it on, and the setting before it. -/
structure MonSlot where
  slot : Nat
  now : Word
  before : Word
  deriving DecidableEq, Repr

/-- The receiver pipeline of a cluster. -/
structure Rx where
  /-- reaches completed (R80) -/
  reaches : Nat
  /-- reaches started, and occasions begun -/
  nextReach : Nat
  nextOcc : Nat
  live : List RxReach
  /-- the last 32 completed reaches, newest first -/
  done : List RxDone
  /-- the last two occasions, newest first -/
  occs : List RxOcc
  imgA : ModelImg
  imgB : ModelImg
  /-- image of the present slot and of the one before the last swap; absolute slot and numerology of that swap, until the
  old image is released (R71) -/
  img : Nat
  old : Nat
  since : Option (Nat × Nat)
  /-- by numerology -/
  mon : Tab MonSlot
  /-- next descriptor SEQ, place of the next segment and of the next descriptor in this source's part of a ring, by deciding
  rank * 4 + quad (R67) -/
  seqs : Tab Nat
  segAt : Tab Nat
  descAt : Tab Nat
  deriving DecidableEq, Repr

def ModelImg.reset : ModelImg := ⟨0, List.replicate 8 0, List.replicate 8 0, List.replicate 5 0⟩
/-- A receiver with nothing in progress. -/
def Rx.reset : Rx where
  reaches := 0
  nextReach := 0
  nextOcc := 0
  live := []
  done := []
  occs := []
  imgA := ModelImg.reset
  imgB := ModelImg.reset
  img := 0
  old := 0
  since := none
  mon := []
  seqs := []
  segAt := []
  descAt := []

/-! ## Backwater (09_backwater_training.md) -/

/-- A completed reach that capture may take (09 R322, R325): its place, FLAGS, allocations, occasion (number and last DMRS
symbol), and what its record's header takes of the H record and of the image it ran on. -/
structure CapReach where
  cluster : Nat
  mu : Nat
  carrier : Nat
  sym : SymId
  position : Nat
  block : Nat
  flags : Nat
  allocs : List UlAlloc
  occ : Option (Nat × SymId)
  ants : Nat
  version : Nat
  noise : List Byte
  delay : BitVec 16
  doppler : BitVec 16
  deriving DecidableEq, Repr

/-- One occasion of a reference-signal image (09 R329, R330): its 64 places. -/
structure ImgRow where
  pilots : List Byte
  valid : List Bool
  image : List Byte
  target : List Byte
  deriving DecidableEq, Repr

/-- The window of a privileged stream: the facts of its first occasion, and the occasions taken. -/
structure ImgWin where
  sym : SymId
  carrier : Nat
  ants : Nat
  qm : Nat
  version : Nat
  noise : List Byte
  delay : BitVec 16
  doppler : BitVec 16
  rows : List ImgRow
  deriving DecidableEq, Repr

/-- The result of a run of a step (09 R348, R349): gradient buffer, loss, and the cores that ran it. -/
structure StepRes where
  grad : List Byte
  loss : BitVec 64
  cores : List (Fin 52)
  deriving DecidableEq, Repr

/-- An update with the mailbox command that brought it. -/
structure Upd where
  rec_ : UpdateRec
  mbx : Nat
  seq : Nat
  /-- the boundary that SWAP_AT names has passed (R359) -/
  missed : Bool
  deriving DecidableEq, Repr

/-- A record of the Oxbow cache (R331, R332): first granule, length, tag, epoch, kind, held out, CONFIG. -/
structure CacheRec where
  granule : Nat
  len : Nat
  tag : Nat
  epoch : Nat
  kind : Nat
  held : Bool
  config : Nat
  deriving DecidableEq, Repr

/-- A model region (R315 to R321): state 0 IDLE, 1 TRAINING, 2 STAGING, 3 VALIDATING, 4 COMMITTING. -/
structure Region where
  st : Nat
  run : Option Upd
  queue : Option Upd
  /-- a pending swap of a slot (0 A, 1 B), and a latched one with its boundary and whether its image was loaded -/
  pend : Option (Upd × Nat)
  latch : Option (Upd × Nat × Nat × Bool)
  active : Nat
  epochs : Nat
  /-- step in the epoch and in the update -/
  step : Nat
  n : Nat
  runs : List StepRes
  /-- the core whose window holds the step's present run -/
  window : Option Nat
  /-- samples of this step that were skipped have been counted -/
  counted : Bool
  discards : Nat
  lastShift : Option Int
  /-- VERSION that the stored training state belongs to (R344) -/
  stateVer : Option Nat
  /-- TRAIN_EN was cleared: the update ends at its next step boundary -/
  abort : Bool
  /-- the staged image of a LOAD, and whether the commit has begun to write -/
  staged : List Byte
  writing : Bool
  /-- the held-out records of the validation that runs (R335, R352) -/
  vals : List CacheRec
  deriving DecidableEq, Repr

/-- An occasion record that has been written (R327). -/
structure OccRec where
  cluster : Nat
  carrier : Nat
  slot : Nat
  position : Nat
  occasion : Nat
  epoch : Nat
  tag : Nat
  deriving DecidableEq, Repr

/-- Backwater. -/
structure Bkw where
  regions : Tab Region
  recs : List CacheRec
  /-- write pointer in granules -/
  wp : Nat
  /-- slots since the epoch last advanced, and a requested advance -/
  slots : Nat
  advPend : Bool
  /-- carrier configuration generation -/
  config : Nat
  /-- occasion records written (R327) -/
  occasions : List OccRec
  perm : Tab Byte
  /-- completed reaches that are not yet captured or skipped -/
  caps : List CapReach
  /-- newest slot, by numerology, whose grids have reached the DRAM ring -/
  gridSlot : Tab Nat
  /-- windows of the privileged streams -/
  wins : Tab ImgWin
  deriving DecidableEq, Repr

def Region.reset : Region where
  st := 0
  run := none
  queue := none
  pend := none
  latch := none
  active := 0
  epochs := 0
  step := 0
  n := 0
  runs := []
  window := none
  counted := false
  discards := 0
  lastShift := none
  stateVer := none
  abort := false
  staged := []
  writing := false
  vals := []
/-- Backwater with an empty cache. -/
def Bkw.reset : Bkw := ⟨[], [], 0, 0, false, 0, [], [], [], [], []⟩

/-! ## Delta front end (10_delta_front_end.md) -/

/-- The AGC of a receive stream (R381 to R384). -/
structure AgcSt where
  /-- attenuation index, quiet blocks so far, and the index last strobed -/
  att : Nat
  below : Nat
  sent : Nat
  /-- index whose compensation multiplies, and the changes to come: samples until each, and its index (R382) -/
  comp : Nat
  queue : List (Nat × Nat)
  /-- samples of the stream so far -/
  n : Nat
  /-- AGC registers in force for this block (R397) -/
  cfg : Word
  high : Word
  low : Word
  freeze : Bool
  delay : Nat
  deriving DecidableEq, Repr

/-- One stage of crest-factor reduction of a stream (R388): the stage's input and its output so far, of the last two
blocks. -/
structure CfrSt where
  xs : List Cplx
  ys : List Cplx
  deriving DecidableEq, Repr

/-- The transmit stream's state behind the summing point: T in force, both stages, consecutive violations (R388 to
R390). -/
structure TxStream where
  t : Nat
  s1 : CfrSt
  s2 : CfrSt
  viol : Nat
  /-- stream samples since the start that have been summed -/
  n : Nat
  /-- the mask checker's present window, the bin powers summed so far and their windows (R389) -/
  win : List Cplx
  sums : List Word
  wins : Nat
  deriving DecidableEq, Repr

/-- The search of a chirp channel for one spreading factor (R395, R396). -/
structure ChirpSt where
  run : Nat
  hitPrev : Bool
  binPrev : Nat
  hold : Nat
  /-- windows evaluated -/
  win : Nat
  deriving DecidableEq, Repr

/-- A direction of the front end (R366 to R370, R393): started, LEMC aligned, links up; the aligning edge as TIME.NS32 and
in Tc since the start of SFN 0, where its stream samples begin. -/
structure DirSt where
  on : Bool
  aligned : Bool
  links : List Nat
  edge : Word
  t0 : Nat
  deriving DecidableEq, Repr

/-- A filter stage (R374): its newest inputs, newest first, and the inputs until its next output. -/
structure FirSt where
  line : List Cplx
  ph : Nat
  deriving DecidableEq, Repr

/-- The sample chain of a carrier channel (R373, R374, R386): NCO phase and filter stages. -/
structure ChanSt where
  phase : Nat
  stages : List FirSt
  /-- receive: carrier samples so far; transmit: the stream sample that follows its last burst -/
  n : Nat
  /-- receive: the newest carrier samples, oldest first -/
  out : List Cplx
  /-- transmit: bursts of stream samples still to be summed, each with the place of its first -/
  bursts : List (Nat × List Cplx)
  deriving DecidableEq, Repr

/-- The sample chain of a chirp channel (R394, R395): NCO phase, halfband stages, the final filter's inputs, newest first; every
fourth channel sample so far, the newest of them oldest first. -/
structure ChirpChan where
  phase : Nat
  stages : List FirSt
  line : List Cplx
  m : Nat
  fourth : List Cplx
  deriving DecidableEq, Repr

/-- The front end. -/
structure Dfe where
  rx : DirSt
  tx : DirSt
  agc : Tab AgcSt
  streams : Tab TxStream
  /-- chirp search by channel * 8 + SF - 5; per channel: samples written, next descriptor place, next SEQ -/
  chirp : Tab ChirpSt
  count : Tab Nat
  place : Tab Nat
  seq : Tab Nat
  /-- sample chains: receive and transmit carrier channels, chirp channels -/
  rxChans : Tab ChanSt
  txChans : Tab ChanSt
  chirpChans : Tab ChirpChan
  deriving DecidableEq, Repr

/-- The AGC of a stream after reset: index 0, the AGC registers' reset values. -/
def AgcSt.reset : AgcSt := ⟨0, 0, 0, 0, [], 0, 0x4FC01042, 0x10000000, 0x01000000, false, 0⟩
/-- A stage that holds zero samples. -/
def CfrSt.reset : CfrSt := ⟨List.replicate 128 ⟨0, 0⟩, List.replicate 128 ⟨0, 0⟩⟩
def TxStream.reset : TxStream := ⟨0, CfrSt.reset, CfrSt.reset, 0, 0, [], [], 0⟩
def ChirpSt.reset : ChirpSt := ⟨0, false, 0, 0, 0⟩
def DirSt.reset : DirSt := ⟨false, false, [], 0, 0⟩
def FirSt.reset : FirSt := ⟨[], 0⟩
def ChanSt.reset : ChanSt := ⟨0, [], 0, [], []⟩
def ChirpChan.reset : ChirpChan := ⟨0, [], [], 0, []⟩
/-- The front end with both directions stopped. -/
def Dfe.reset : Dfe := ⟨DirSt.reset, DirSt.reset, [], [], [], [], [], [], [], [], []⟩

/-! ## Transmit path (03_transmit_path.md) -/

/-- A downlink codeword descriptor's fields (R82). -/
structure DlDesc where
  source : Nat
  tbs : Nat
  carrier : Nat
  alloc : Nat
  qm : Nat
  rate : Nat
  rnti : Nat
  nid : Nat
  q : Nat
  rv : Nat
  lbrm : Bool
  amp : Nat
  layerBase : Nat
  encRank : Nat
  layers : Nat
  harq : Nat
  slot : Nat
  tag : Nat
  /-- a reserved field is nonzero, QM is unassigned, or a layer lies beyond layer 15 -/
  bad : Bool
  deriving DecidableEq, Repr

/-- A code block of a codeword: the first symbol it maps to, its rate-matched length, and its coded bits once an encoder
has completed it. -/
structure TxBlk where
  first : Nat
  e : Nat
  coded : Option (List Bool)
  deriving DecidableEq, Repr

/-- Where a codeword stands: posted, or taken by the encode launch (R84). -/
inductive CwSt where
  | posted | taken
  deriving DecidableEq, Repr

/-- A downlink codeword with its entry of the allocation list. -/
structure TxCw where
  id : Nat
  basin : Nat
  d : DlDesc
  alloc : DlAlloc
  st : CwSt
  blocks : List TxBlk
  /-- payload with the transport block's CRC, first bit first -/
  bits : List Bool
  /-- symbol from which its allocation is sent as zero symbols (R84, R86, R87) -/
  zeroFrom : Option Nat
  /-- code blocks counted late (R87) -/
  late : List Nat
  /-- its completion has been posted; it is kept for its slot's symbols -/
  posted : Bool
  deriving DecidableEq, Repr

/-- The coded bits of a DCI or of the PBCH in the coded-bit area (R89), by carrier, slot and number. -/
structure TxCtl where
  carrier : Nat
  slot : Nat
  n : Nat
  bits : List Bool
  deriving DecidableEq, Repr

/-- A layer of a subcarrier: its layer place, the amplitude and order of its expand table, the rank that modulates it, and
whether it is sent as a zero symbol (R82, R87, R92, R93). -/
structure TxLayer where
  layer : Nat
  amp : Nat
  qm : Nat
  rank : Nat
  zero : Bool
  deriving DecidableEq, Repr

/-- A subcarrier that a lane precodes: carrier, subcarrier of the carrier, its place in the transmit position, the position's
place q in the layer ring, and its layers in ascending layer place (R94). -/
structure TxLane where
  carrier : Nat
  sc : Nat
  k : Nat
  q : Nat
  layers : List TxLayer
  deriving DecidableEq, Repr

/-- A fill (R94 to R99): layer count, lanes, the P core (0 to 7) and P slot that compute it, where it has been placed, and what
has become of it: 0 to compute, 1 computed, 2 to recompute, 3 sent as zero samples. -/
structure TxFill where
  nu : Nat
  lanes : List TxLane
  place : Option (Nat × Nat)
  st : Nat
  deriving DecidableEq, Repr

/-- A symbol on a cluster, from its stage X to its hand-over (R94 to R104). -/
structure TxSym where
  cluster : Nat
  mu : Nat
  sym : SymId
  /-- carriers with positions on the cluster -/
  carriers : List Nat
  /-- carriers without a valid beam table: sent as zero samples (R103) -/
  noTable : List Nat
  fills : List TxFill
  placed : Bool
  /-- the rerun slot has given its places -/
  rerun : Bool
  handed : Bool
  deriving DecidableEq, Repr

/-- An encode launch that has come (R84): numerology, slot, and the producer index of each basin's submission ring 0 then. -/
structure TxLaunch where
  mu : Nat
  slot : Nat
  prods : List Nat
  deriving DecidableEq, Repr

/-- The transmit path. -/
structure Tx where
  cws : List TxCw
  nextId : Nat
  /-- encode launches that have come, newest first, the last 160 -/
  launched : List TxLaunch
  ctl : List TxCtl
  /-- code blocks waiting at LDPC encoders 0 to 7, in order: codeword, block -/
  queues : Tab (List (Nat × Nat))
  syms : List TxSym
  /-- carriers whose output is a sample of zero because the iFFT found no symbol (R38) -/
  lateSyms : List (Nat × SymId)
  deriving DecidableEq, Repr

/-- The transmit path with nothing posted. -/
def Tx.reset : Tx := ⟨[], 0, [], [], [], [], []⟩

/-! ## Weir (08_weir_decoder.md) -/

/-- Where a code block stands (R279, R296). -/
inductive CbSt where
  | waiting | ready | decoding | ended
  deriving DecidableEq, Repr

/-- A code block: its rate-matched length and the index of its first UL-SCH LLR, its combined soft buffer (R284), and
the engine's posteriors and check messages (R291). -/
structure CBlk where
  e : Nat
  off : Nat
  st : CbSt
  /-- order in which it became ready -/
  stamp : Nat
  soft : List Int
  app : List Int
  msg : Tab Int
  iters : Nat
  /-- the deadline came while it was decoding (R302) -/
  dead : Bool
  lost : Bool
  pass : Bool
  hard : List Bool
  deriving DecidableEq, Repr

/-- An uplink decode descriptor's fields (R274). -/
structure DecDesc where
  dest : Nat
  tbs : Nat
  carrier : Nat
  alloc : Nat
  qm : Nat
  rate : Nat
  rnti : Nat
  nid : Nat
  rv : Nat
  lbrm : Bool
  ndi : Bool
  capture : Bool
  hbuf : Nat
  slot : Nat
  layers : Nat
  quad : Nat
  ncbLim : Nat
  tag : Nat
  gAck : Nat
  gCsi1 : Nat
  gCsi2 : Nat
  punct : Bool
  uciDest : Nat
  reserved : Bool
  deriving DecidableEq, Repr

/-- What TS 38.212 derives from TBS and RATE (R276). -/
structure Segm where
  bg : Nat
  z : Nat
  c : Nat
  /-- information bits of a block with its CRC, fillers excluded -/
  kp : Nat
  k : Nat
  ncb : Nat
  ils : Nat
  deriving DecidableEq, Repr

/-- A transport block in progress in a quad. -/
structure DecTb where
  id : Nat
  basin : Nat
  d : DecDesc
  sh : AllocShape
  g : Segm
  newData : Bool
  mism : Bool
  rounds : Nat
  /-- descrambled LLRs that have arrived, by codeword index -/
  got : Tab Int
  blocks : List CBlk
  uciDone : Bool
  /-- the parameter table of its slot, once the slot has begun (R295) -/
  table : Option (List Byte)
  deadline : Bool
  /-- its completion, while it waits for those before it (R305) -/
  entry : Option (List Byte)
  deriving DecidableEq, Repr

/-- A code block offered to Backwater (R306): slot, carrier, allocation, block, and its hard bits. -/
structure Offered where
  slot : Nat
  carrier : Nat
  alloc : Nat
  block : Nat
  basin : Nat
  d : DecDesc
  sh : AllocShape
  g : Segm
  off : Nat
  e : Nat
  hard : List Bool
  deriving DecidableEq, Repr

/-- A Weir quad. -/
structure Weir where
  tbs : List DecTb
  /-- what an engine decodes: transport block id * 256 + block -/
  eng : Tab Nat
  nextId : Nat
  nextStamp : Nat
  /-- next descriptor SEQ by part of the ring (R67, R283) -/
  seqs : Tab Nat
  /-- segments in the LLR ring that have not been read: offset, bytes (R69) -/
  unread : List (Nat × Nat)
  /-- the latched parameter table and the one before it, and the latch's slot (SFN * 128 + slot, R295) -/
  table : List Byte
  prev : List Byte
  latched : Nat
  latchedMu : Nat
  /-- polar requests taken, and writes that wait at the bank: place, bytes, basin tag (R308, R643) -/
  polar : List (Nat × Nat)
  polarWait : List (Nat × Nat × Nat)
  offered : List Offered
  /-- transport blocks taken, for the numbering of a slot's code blocks: slot, ALLOC, blocks, tick (R299) -/
  numbered : List (Nat × Nat × Nat × Nat)
  deriving DecidableEq, Repr

/-- A quad as its domain comes up. -/
def Weir.reset : Weir where
  tbs := []
  eng := []
  nextId := 0
  nextStamp := 1
  seqs := []
  unread := []
  table := []
  prev := []
  latched := 0
  latchedMu := 0
  polar := []
  polarWait := []
  offered := []
  numbered := []

end Sys2Proof.Machine
end

