-- ==== Sys2Proof/Machine/Coding.lean ====
section
/-! DEFINITION. Channel coding as TS 38.212 lays it down and 08_weir_decoder.md uses it: segmentation, rate matching,
CRCs, LLR packing, the learned layered decoder and its early-termination network. -/
namespace Sys2Proof.Machine

/-- The remainder of a bit list by a CRC polynomial of length `len`, most significant bit first. -/
def crcBits (poly len : Nat) (bs : List Bool) : Nat :=
  bs.foldl (fun r b =>
    let top := bitOf r (len - 1)
    let r := r * 2 % 2 ^ len
    if top != b then r ^^^ poly else r) 0

/-- CRC24A, CRC24B and CRC16 of TS 38.212 (PRESUMED, assumption 8). -/
def crc24a (bs : List Bool) : Nat := crcBits 0x864CFB 24 bs
def crc24b (bs : List Bool) : Nat := crcBits 0x800063 24 bs
def crc16 (bs : List Bool) : Nat := crcBits 0x1021 16 bs

/-- The `n` bits of a number, most significant first. -/
def bitsOf (n v : Nat) : List Bool := (List.range n).map (fun i => bitOf v (n - 1 - i))

/-- Bits packed into bytes, the first bit in a byte's bit 7 (transport block payloads; PRESUMED, assumption 8). -/
def packMsb : Nat → List Bool → List Byte
  | 0, _ => []
  | n + 1, bs =>
    BitVec.ofNat 8 ((padBits (bs.take 8)).foldl (fun a b => a * 2 + (if b then 1 else 0)) 0) :: packMsb n (bs.drop 8)
where
  /-- pads to eight bits -/
  padBits (bs : List Bool) : List Bool := (bs ++ List.replicate 8 false).take 8

/-- Bits packed with bit i in byte i div 8, bit i mod 8 (R285). -/
def packLsb : Nat → List Bool → List Byte
  | 0, _ => []
  | n + 1, bs =>
    BitVec.ofNat 8 ((bs.take 8).foldr (fun b a => a * 2 + (if b then 1 else 0)) 0) :: packLsb n (bs.drop 8)

/-- The first `n` bits of bytes packed as R285. -/
def unpackLsb (n : Nat) (bs : List Byte) : List Bool :=
  (List.range n).map (fun i => bitOf (bs.getD (i / 8) 0).toNat (i % 8))

/-- The first `n` bits of bytes, bit 7 of a byte first. -/
def unpackMsb (n : Nat) (bs : List Byte) : List Bool :=
  (List.range n).map (fun i => bitOf (bs.getD (i / 8) 0).toNat (7 - i % 8))

/-- One LLR6 code as an integer: -32 reads as -31 (06 R215). -/
def llr6 (v : Nat) : Int := max (-31) (sext 6 v)

/-- `n` LLR6 values from packed bytes: value j of a group of 16 in bits 6j + 5 to 6j of its 12 bytes (R66, R215). -/
def unpackLlr (n : Nat) (bs : List Byte) : List Int :=
  (List.range n).map (fun i => llr6 (bits (fieldAt bs (i / 16 * 12) 12) (i % 16 * 6 + 5) (i % 16 * 6)))

/-- Bytes that `n` packed LLRs take. -/
def llrBytes (n : Nat) : Nat := (n + 15) / 16 * 12

/-- Packs LLRs, the last group padded with zeros. -/
def packLlr : Nat → List Int → List Byte
  | 0, _ => []
  | n + 1, ls => leBytes 12 ((ls.take 16).foldr (fun l a => a * 64 + wrapN 6 l) 0) ++ packLlr n (ls.drop 16)

/-- The base graph of TBS and RATE (TS 38.212, clause 6.2.2). -/
def baseGraphOf (tbs rate : Nat) : Nat :=
  if tbs ≤ 292 ∨ (tbs ≤ 3824 ∧ rate * 100 ≤ 67 * 1024) ∨ rate * 4 ≤ 1024 then 2 else 1

/-- Lifting sizes with their set index, ascending in size within each set (TS 38.212, Table 5.3.2-1). -/
def liftingSizes : List (Nat × Nat) :=
  [2, 3, 5, 7, 9, 11, 13, 15].zipIdx.flatMap (fun a =>
    (List.range 8).filterMap (fun j => if a.1 * 2 ^ j ≤ 384 then some (a.1 * 2 ^ j, a.2) else none))

/-- The least lifting size with kb * Z at least kp, and its set. -/
def liftingOf (kb kp : Nat) : Nat × Nat :=
  liftingSizes.foldl (fun best z => if kp ≤ kb * z.1 ∧ (best.1 = 0 ∨ z.1 < best.1) then z else best) (0, 0)

/-- Segmentation (TS 38.212, clauses 5.2.2 and 6.2.2 to 6.2.3; R276), with the circular-buffer limit `lim` (0 = none).
A TBS that its blocks do not share evenly rounds up (assumption 14). -/
def segmentation (tbs rate lim : Nat) : Segm :=
  let bg := baseGraphOf tbs rate
  let b := tbs + (if 3824 < tbs then 24 else 16)
  let kcb := if bg = 1 then 8448 else 3840
  let c := if b ≤ kcb then 1 else (b + kcb - 25) / (kcb - 24)
  let b' := if c = 1 then b else b + c * 24
  let kp := (b' + c - 1) / c
  let kb := if bg = 1 then 22 else if 640 < b then 10 else if 560 < b then 9 else if 192 < b then 8 else 6
  let z := liftingOf kb kp
  let n := (if bg = 1 then 66 else 50) * z.1
  ⟨bg, z.1, c, kp, (if bg = 1 then 22 else 10) * z.1, if lim = 0 then n else min n lim, z.2⟩

/-- The circular buffer's start (TS 38.212, Table 5.4.2.1-2). -/
def k0Of (g : Segm) (rv : Nat) : Nat :=
  let num := match g.bg, rv with
    | _, 0 => 0
    | 1, 1 => 17 | 1, 2 => 33 | 1, _ => 56
    | _, 1 => 13 | _, 2 => 25 | _, _ => 43
  num * g.ncb / ((if g.bg = 1 then 66 else 50) * g.z) * g.z

/-- Rate-matched lengths E_c of the blocks (TS 38.212, clause 5.4.2.1). -/
def rateLengths (c layers qm total : Nat) : List Nat :=
  let u := layers * qm
  (List.range c).map (fun j =>
    if j + total / u % c + 1 ≤ c then u * (total / (u * c)) else u * ((total + u * c - 1) / (u * c)))

/-- A circular-buffer place holds a filler bit. -/
def isFiller (g : Segm) (p : Nat) : Bool := decide (g.kp ≤ p + 2 * g.z ∧ p + 2 * g.z < g.k)

/-- Places that bit selection visits, in order, once round from k0 (TS 38.212, clause 5.4.2.1). -/
def places (g : Segm) (rv : Nat) : List Nat :=
  ((List.range g.ncb).map (fun i => (k0Of g rv + i) % g.ncb)).filter (fun p => !isFiller g p)

/-- The index in f (after interleaving) of e's bit `m`: e(i E/Qm + j) = f(i + j Qm) (TS 38.212, clause 5.4.2.2). -/
def interleaveIdx (e qm m : Nat) : Nat :=
  let w := e / qm
  if w = 0 then m else m / w + m % w * qm

/-- Clamps an integer to ± `b`. -/
def clampTo (b : Int) (v : Int) : Int := max (-b) (min b v)

/-- Combines LLRs (by rate-matched order of e) into stored soft values, exactly, saturating at ±127 (R284). -/
def combine (g : Segm) (rv : Nat) (stored : List Int) (es : List Int) : List Int :=
  let pl := places g rv
  let sums := es.zipIdx.foldl (fun (t : Tab Int) x =>
    let p := pl.getD (x.2 % max 1 pl.length) 0
    tset t p (tget (fun _ => 0) t p + x.1)) []
  (List.range g.ncb).map (fun p => clampTo 127 (stored.getD p 0 + tget (fun _ => 0) sums p))

/-! ## The engine (R290 to R294) -/

/-- Systematic columns of the base graph. -/
def kbOf (bg : Nat) : Nat := if bg = 1 then 22 else 10

/-- The active layer count (R290). -/
def layersOf (g : Segm) (soft : List Int) : Nat :=
  let h := soft.zipIdx.foldl (fun m x => if x.1 ≠ 0 then x.2 else m) 0
  min (if g.bg = 1 then 46 else 42) (max 4 (h / g.z + 3 - kbOf g.bg))

/-- The posteriors before the first iteration: punctured columns 0, fillers +511, else the combined value. -/
def initApp (g : Segm) (l : Nat) (soft : List Int) : List Int :=
  (List.range ((kbOf g.bg + l) * g.z)).map (fun v =>
    if v < 2 * g.z then 0 else if isFiller g (v - 2 * g.z) then 511 else soft.getD (v - 2 * g.z) 0)

/-- The new check messages of one check from its clamped inputs, in ascending columns (R291). -/
def checkNode (s off : Nat) (vs : List Int) : List Int :=
  let mags := vs.map Int.natAbs
  let min1 := mags.foldl min 127
  let e1 := mags.findIdx (fun m => m == min1)
  let min2 := (mags.eraseIdx e1).foldl min 127
  let neg := (vs.filter (fun v => decide (v < 0))).length
  let sgn : Int := if neg % 2 = 0 then 1 else -1
  vs.zipIdx.map (fun x =>
    let m := if x.2 = e1 then min2 else min1
    let q : Int := ((4 * m * (s + 1) / 256 : Nat) : Int) - off
    sgn * (if x.1 < 0 then -1 else 1) * (max q 0 / 4))

/-- The row class of a layer. -/
def rowClass (j : Nat) : Nat := if j ≤ 3 then 0 else if j ≤ 9 then 1 else if j ≤ 19 then 2 else 3

/-- SCALE and OFFSET of a table entry (R293). -/
def tableEntry (table : List Byte) (bg ils t cls : Nat) : Nat × Nat :=
  let v := fieldAt table (64 + (((bg - 1) * 8 + ils) * 16 + t) * 8 + cls * 2) 2
  (v % 256, v / 256)

/-- Updates one check of layer `j`: posteriors and messages. -/
def updateCheck (row : List (Nat × Nat)) (z s off j i : Nat) (st : List Int × Tab Int) : List Int × Tab Int :=
  let vars := row.map (fun e => e.1 * z + (i + e.2) % z)
  let key (e : Nat) : Nat := (j * z + i) * 32 + e
  let vs := vars.zipIdx.map (fun x => clampTo 127 (st.1.getD x.1 0 - tget (fun _ => 0) st.2 (key x.2)))
  let cs := checkNode s off vs
  (vars.zip (vs.zip cs)).zipIdx.foldl (fun st x =>
    (st.1.set x.1.1 (clampTo 511 (x.1.2.1 + x.1.2.2)), tput (fun _ => 0) st.2 (key x.2) x.1.2.2)) st

/-- One iteration `t` (0 to 15) over the `l` active layers (R291). -/
def iterate (g : Segm) (table : List Byte) (l t : Nat) (st : List Int × Tab Int) : List Int × Tab Int :=
  (List.range l).foldl (fun st j =>
    let row := Config.baseGraph g.bg g.ils j
    let p := tableEntry table g.bg g.ils t (rowClass j)
    (List.range g.z).foldl (fun st i => updateCheck row g.z p.1 p.2 j i st) st) st

/-- Unsatisfied checks over the active layers (R292). -/
def unsatisfied (g : Segm) (l : Nat) (app : List Int) : Nat :=
  (List.range l).foldl (fun n j =>
    let row := Config.baseGraph g.bg g.ils j
    (List.range g.z).foldl (fun n i =>
      let ones := (row.filter (fun e => decide (app.getD (e.1 * g.z + (i + e.2) % g.z) 0 < 0))).length
      n + ones % 2) n) 0

/-- The hard decisions of a block's K bits (R292). -/
def hardBits (g : Segm) (app : List Int) : List Bool :=
  (List.range g.k).map (fun i => decide (app.getD i 0 < 0))

/-- The early-termination network's verdict y > 0 after iteration `t` (R294). -/
def earlyStop (g : Segm) (table : List Byte) (l t unsat : Nat) (before after : List Int) : Bool :=
  let r := table.drop (if g.bg = 1 then 2112 else 2176)
  let n := after.length
  let flips := ((before.zip after).filter (fun x => decide ((x.1 < 0) ≠ (x.2 < 0)))).length
  let mag := after.foldl (fun a v => a + v.natAbs) 0
  let f : List Int := [(256 * unsat / max 1 (l * g.z) : Nat), (256 * flips / max 1 n : Nat), t, (min 255 (mag / max 1 n) : Nat)]
  let sh1 := fieldAt r 58 1 % 16
  let hidden := (List.range 8).map (fun u =>
    let acc := f.zipIdx.foldl (fun a x => a + sext 8 (fieldAt r (4 * u + x.2) 1) * x.1) (sext 16 (fieldAt r (32 + 2 * u) 2))
    min 127 (max 0 (acc / (2 ^ sh1 : Nat))))
  let y := hidden.zipIdx.foldl (fun a x => a + sext 8 (fieldAt r (48 + x.2) 1) * x.1) (sext 16 (fieldAt r 56 2))
  decide (0 < y)

/-- The CRC of a code block (C above 1) or of the transport block on a block's hard decisions (R298). -/
def blockCrcOk (g : Segm) (tbs : Nat) (hard : List Bool) : Bool :=
  let bs := hard.take g.kp
  if g.c = 1 then (if 3824 < tbs then crc24a bs == 0 else crc16 bs == 0) else crc24b bs == 0

/-- The transport block's bits with its CRC, from its blocks' hard bits (R304). -/
def assemble (g : Segm) (blocks : List (List Bool)) : List Bool :=
  blocks.flatMap (fun h => h.take (if g.c = 1 then g.kp else g.kp - 24))

/-- The transport block CRC on the assembled bits. -/
def tbCrcOk (tbs : Nat) (bs : List Bool) : Bool :=
  if 3824 < tbs then crc24a (bs.take (tbs + 24)) == 0 else crc16 (bs.take (tbs + 16)) == 0

/-! ## Encoding (03 R88; 08 R309; 09 R323) -/

/-- The coded bits of a code block of `k` bits after rate matching to `e` bits, interleaving and scrambling; codeword
index `pos x` is where its bit x stands (TS 38.212, clauses 5.3.2 and 5.4.2; TS 38.211, clause 5.2.1). -/
def encodeBlk (g : Segm) (rv qm e cinit : Nat) (pos : Nat → Nat) (block : List Bool) : List Bool :=
  let cw := block.drop (2 * g.z) ++ Config.ldpcParity g.bg g.ils g.z block
  let pl := places g rv
  let sel := (List.range e).map fun m => cw.getD (pl.getD (m % max 1 pl.length) 0) false
  (List.range e).map fun x =>
    let m := if e / qm = 0 then x else x % qm * (e / qm) + x / qm
    xor (sel.getD m false) (Config.goldBit cinit (pos x))

/-- The code blocks of a transport block with its CRC: code block CRCs and fillers added (TS 38.212, clause 5.2.2). -/
def cutBlocks (g : Segm) (bs : List Bool) : List (List Bool) :=
  let n := if g.c = 1 then g.kp else g.kp - 24
  (List.range g.c).map fun c =>
    let b := ((bs.drop (c * n)).take n ++ List.replicate n false).take n
    let b := if g.c = 1 then b else b ++ bitsOf 24 (crc24b b)
    (b ++ List.replicate g.k false).take g.k

end Sys2Proof.Machine
end

