-- ==== Sys2Proof/Machine/Regs.lean ====
section
/-! DEFINITION. The register tables of the manual (17_register_reference.md R637 and the register tables of every
chapter): for each block its registers with offset, access, reset value, the bits a plain write takes, the WSEQ event
bits, the KEYED bits, and the classes of the event bits (15_faults.md R559). A number 0 stands where the manual says
fuse or strap; State.reset sets those registers. -/
namespace Sys2Proof.Machine

/-- Access codes (00_scope.md R12). -/
inductive Acc where
  | ro | rw | wo | wseq | keyed
  deriving DecidableEq, Repr

/-- The blocks of the CSR map (17 R637); `cfgMem` is the DFE configuration memory, `logWin` the fault-log window,
`mbx` a mailbox. -/
inductive Blk where
  | chipB | timeB | faultB | pwrB | catchB | hostB | schedB | detB | bkwB | dramB | txpB | coreB | poolB | rxpB | weirB | cpB | tribB | fhB | pgrpB | dfeB | mbxsB | cfgMem | logWin | mbxB
  deriving DecidableEq, Repr

/-- One row of a register table. -/
structure RegRow where
  off : Nat
  acc : Acc
  rst : Nat
  /-- bits a plain write takes -/
  rw : Nat
  /-- WSEQ event bits -/
  ev : Nat
  /-- KEYED bits -/
  key : Nat
  /-- recoverable events and fencing events among `ev` -/
  recov : Nat
  fen : Nat
  deriving DecidableEq, Repr

/-- The registers of block CHIP. -/
def rowsCHIP : List RegRow :=
  [
   ⟨0x0, .ro, 0x0, 0x0, 0x0, 0x0, 0x0, 0x0⟩]

/-- The registers of block TIME. -/
def rowsTIME : List RegRow :=
  [
   ⟨0x0, .wseq, 0x0, 0x0, 0x7ff, 0x0, 0x2, 0x0⟩,
   ⟨0x4, .rw, 0x0, 0x7ff, 0x0, 0x0, 0x0, 0x0⟩,
   ⟨0x8, .ro, 0x0, 0x0, 0x0, 0x0, 0x0, 0x0⟩,
   ⟨0xc, .ro, 0x0, 0x0, 0x0, 0x0, 0x0, 0x0⟩,
   ⟨0x10, .ro, 0x0, 0x0, 0x0, 0x0, 0x0, 0x0⟩,
   ⟨0x14, .ro, 0x2000000, 0x0, 0x0, 0x0, 0x0, 0x0⟩,
   ⟨0x18, .rw, 0xaaaaaaaa, 0xffffffff, 0x0, 0x0, 0x0, 0x0⟩,
   ⟨0x1c, .rw, 0x411, 0xffff, 0x0, 0x0, 0x0, 0x0⟩,
   ⟨0x20, .rw, 0x0, 0x70fffff, 0x0, 0x0, 0x0, 0x0⟩,
   ⟨0x24, .ro, 0x0, 0x0, 0x0, 0x0, 0x0, 0x0⟩,
   ⟨0x28, .rw, 0x180a6480, 0xfffffff3, 0x0, 0x0, 0x0, 0x0⟩,
   ⟨0x2c, .ro, 0x0, 0x0, 0x0, 0x0, 0x0, 0x0⟩,
   ⟨0x30, .rw, 0x800186a0, 0x800fffff, 0x0, 0x0, 0x0, 0x0⟩,
   ⟨0x34, .rw, 0x0, 0x37, 0x0, 0x0, 0x0, 0x0⟩,
   ⟨0x38, .rw, 0x0, 0xffffffff, 0x0, 0x0, 0x0, 0x0⟩,
   ⟨0x3c, .rw, 0x1, 0x3, 0x0, 0x0, 0x0, 0x0⟩,
   ⟨0x40, .rw, 0x3e8, 0xfffff, 0x0, 0x0, 0x0, 0x0⟩,
   ⟨0x44, .ro, 0x0, 0x0, 0x0, 0x0, 0x0, 0x0⟩,
   ⟨0x48, .ro, 0x0, 0x0, 0x0, 0x0, 0x0, 0x0⟩,
   ⟨0x4c, .ro, 0x0, 0x0, 0x0, 0x0, 0x0, 0x0⟩,
   ⟨0x50, .rw, 0x0, 0xffffffff, 0x0, 0x0, 0x0, 0x0⟩,
   ⟨0x54, .rw, 0x0, 0x3fffffff, 0x0, 0x0, 0x0, 0x0⟩,
   ⟨0x58, .rw, 0x0, 0x3ff, 0x0, 0x0, 0x0, 0x0⟩,
   ⟨0x5c, .keyed, 0x0, 0x0, 0x0, 0x1, 0x0, 0x0⟩] ++
  [
   ⟨0x60, .ro, 0x0, 0x0, 0x0, 0x0, 0x0, 0x0⟩,
   ⟨0x3f0, .wo, 0x0, 0x0, 0x0, 0x0, 0x0, 0x0⟩]

/-- The registers of block FAULT. -/
def rowsFAULT : List RegRow :=
  [
   ⟨0x0, .wseq, 0x0, 0x0, 0xff, 0x0, 0x0, 0x0⟩,
   ⟨0x4, .rw, 0x0, 0xff, 0x0, 0x0, 0x0, 0x0⟩,
   ⟨0x8, .ro, 0x0, 0x0, 0x0, 0x0, 0x0, 0x0⟩,
   ⟨0xc, .ro, 0x0, 0x0, 0x0, 0x0, 0x0, 0x0⟩,
   ⟨0x10, .rw, 0x0, 0x7ff, 0x0, 0x0, 0x0, 0x0⟩,
   ⟨0x14, .ro, 0x0, 0x0, 0x0, 0x0, 0x0, 0x0⟩,
   ⟨0x18, .ro, 0x3, 0x0, 0x0, 0x0, 0x0, 0x0⟩,
   ⟨0x1c, .rw, 0x3c0003, 0xffff00ff, 0x0, 0x0, 0x0, 0x0⟩,
   ⟨0x20, .ro, 0x0, 0x0, 0x0, 0x0, 0x0, 0x0⟩,
   ⟨0x24, .ro, 0x0, 0x0, 0x0, 0x0, 0x0, 0x0⟩,
   ⟨0x28, .rw, 0x1, 0x1, 0x0, 0x0, 0x0, 0x0⟩,
   ⟨0x2c, .ro, 0x0, 0x0, 0x0, 0x0, 0x0, 0x0⟩,
   ⟨0x30, .ro, 0x0, 0x0, 0x0, 0x0, 0x0, 0x0⟩,
   ⟨0x34, .ro, 0x0, 0x0, 0x0, 0x0, 0x0, 0x0⟩,
   ⟨0x38, .ro, 0x0, 0x0, 0x0, 0x0, 0x0, 0x0⟩,
   ⟨0x3c, .ro, 0x0, 0x0, 0x0, 0x0, 0x0, 0x0⟩,
   ⟨0x40, .ro, 0x0, 0x0, 0x0, 0x0, 0x0, 0x0⟩,
   ⟨0x44, .ro, 0x0, 0x0, 0x0, 0x0, 0x0, 0x0⟩,
   ⟨0x48, .ro, 0x0, 0x0, 0x0, 0x0, 0x0, 0x0⟩]

/-- The registers of block PWR. -/
def rowsPWR : List RegRow :=
  [
   ⟨0x0, .wseq, 0x0, 0x0, 0x7f, 0x0, 0x0, 0x40⟩,
   ⟨0x4, .rw, 0x0, 0x7f, 0x0, 0x0, 0x0, 0x0⟩,
   ⟨0x8, .keyed, 0xea60, 0x0, 0x0, 0xffff, 0x0, 0x0⟩,
   ⟨0xc, .rw, 0x433, 0xf3f, 0x0, 0x0, 0x0, 0x0⟩,
   ⟨0x10, .ro, 0x0, 0x0, 0x0, 0x0, 0x0, 0x0⟩,
   ⟨0x14, .ro, 0x0, 0x0, 0x0, 0x0, 0x0, 0x0⟩,
   ⟨0x18, .ro, 0x0, 0x0, 0x0, 0x0, 0x0, 0x0⟩,
   ⟨0x1c, .ro, 0x0, 0x0, 0x0, 0x0, 0x0, 0x0⟩,
   ⟨0x20, .ro, 0x0, 0x0, 0x0, 0x0, 0x0, 0x0⟩,
   ⟨0x24, .ro, 0x0, 0x0, 0x0, 0x0, 0x0, 0x0⟩,
   ⟨0x28, .ro, 0x0, 0x0, 0x0, 0x0, 0x0, 0x0⟩,
   ⟨0x2c, .ro, 0x0, 0x0, 0x0, 0x0, 0x0, 0x0⟩,
   ⟨0x30, .ro, 0x0, 0x0, 0x0, 0x0, 0x0, 0x0⟩,
   ⟨0x34, .rw, 0x0, 0xf, 0x0, 0x0, 0x0, 0x0⟩,
   ⟨0x38, .ro, 0x0, 0x0, 0x0, 0x0, 0x0, 0x0⟩,
   ⟨0x3c, .ro, 0x0, 0x0, 0x0, 0x0, 0x0, 0x0⟩,
   ⟨0x40, .rw, 0x73645f, 0xffff, 0x0, 0x0, 0x0, 0x0⟩,
   ⟨0x44, .rw, 0x0, 0x7f, 0x0, 0x0, 0x0, 0x0⟩,
   ⟨0x48, .ro, 0x0, 0x0, 0x0, 0x0, 0x0, 0x0⟩,
   ⟨0x4c, .ro, 0x0, 0x0, 0x0, 0x0, 0x0, 0x0⟩,
   ⟨0x50, .ro, 0x0, 0x0, 0x0, 0x0, 0x0, 0x0⟩,
   ⟨0x3f0, .wo, 0x0, 0x0, 0x0, 0x0, 0x0, 0x0⟩]

/-- The registers of block CATCH. -/
def rowsCATCH : List RegRow :=
  [
   ⟨0x0, .rw, 0x0, 0xff, 0x0, 0x0, 0x0, 0x0⟩,
   ⟨0x4, .wseq, 0xfff00, 0x0, 0x1f, 0x0, 0x0, 0x0⟩]

/-- The registers of block HOST. -/
def rowsHOST : List RegRow :=
  [
   ⟨0x0, .wseq, 0x0, 0x0, 0xff, 0x0, 0x46, 0x10⟩,
   ⟨0x4, .rw, 0x0, 0xff, 0x0, 0x0, 0x0, 0x0⟩,
   ⟨0x8, .ro, 0x0, 0x0, 0x0, 0x0, 0x0, 0x0⟩,
   ⟨0xc, .ro, 0x0, 0x0, 0x0, 0x0, 0x0, 0x0⟩,
   ⟨0x10, .keyed, 0x0, 0x0, 0x0, 0xff, 0x0, 0x0⟩,
   ⟨0x14, .rw, 0x0, 0x7, 0x0, 0x0, 0x0, 0x0⟩,
   ⟨0x18, .ro, 0x0, 0x0, 0x0, 0x0, 0x0, 0x0⟩,
   ⟨0x1c, .ro, 0x0, 0x0, 0x0, 0x0, 0x0, 0x0⟩,
   ⟨0x20, .ro, 0x0, 0x0, 0x0, 0x0, 0x0, 0x0⟩,
   ⟨0x24, .ro, 0x0, 0x0, 0x0, 0x0, 0x0, 0x0⟩,
   ⟨0x28, .ro, 0x0, 0x0, 0x0, 0x0, 0x0, 0x0⟩,
   ⟨0x2c, .ro, 0x0, 0x0, 0x0, 0x0, 0x0, 0x0⟩,
   ⟨0x30, .ro, 0x0, 0x0, 0x0, 0x0, 0x0, 0x0⟩,
   ⟨0x3f0, .wo, 0x0, 0x0, 0x0, 0x0, 0x0, 0x0⟩]

/-- The registers of block SCHED. -/
def rowsSCHED : List RegRow :=
  [
   ⟨0x0, .wseq, 0x0, 0x0, 0xf, 0x0, 0x0, 0x0⟩,
   ⟨0x4, .rw, 0x0, 0xf, 0x0, 0x0, 0x0, 0x0⟩,
   ⟨0x8, .ro, 0x0, 0x0, 0x0, 0x0, 0x0, 0x0⟩,
   ⟨0xc, .rw, 0x0, 0x77, 0x0, 0x0, 0x0, 0x0⟩,
   ⟨0x10, .rw, 0x0, 0x3ffff, 0x0, 0x0, 0x0, 0x0⟩,
   ⟨0x14, .rw, 0x0, 0x3ffff, 0x0, 0x0, 0x0, 0x0⟩,
   ⟨0x18, .ro, 0x0, 0x0, 0x0, 0x0, 0x0, 0x0⟩,
   ⟨0x1c, .ro, 0x0, 0x0, 0x0, 0x0, 0x0, 0x0⟩,
   ⟨0x20, .rw, 0xc350, 0xfffff, 0x0, 0x0, 0x0, 0x0⟩,
   ⟨0x24, .ro, 0x0, 0x0, 0x0, 0x0, 0x0, 0x0⟩,
   ⟨0x28, .ro, 0x0, 0x0, 0x0, 0x0, 0x0, 0x0⟩]

/-- The registers of block DET. -/
def rowsDET : List RegRow :=
  [
   ⟨0x0, .wseq, 0x0, 0x0, 0x3f, 0x0, 0x0, 0x0⟩,
   ⟨0x4, .keyed, 0x0, 0x0, 0x0, 0x1, 0x0, 0x0⟩,
   ⟨0x8, .ro, 0x0, 0x0, 0x0, 0x0, 0x0, 0x0⟩,
   ⟨0xc, .ro, 0x0, 0x0, 0x0, 0x0, 0x0, 0x0⟩,
   ⟨0x3f0, .wo, 0x0, 0x0, 0x0, 0x0, 0x0, 0x0⟩]

/-- The registers of block BKW. -/
def rowsBKW : List RegRow :=
  [
   ⟨0x0, .wseq, 0x0, 0x0, 0x1ff, 0x0, 0x0, 0x0⟩,
   ⟨0x4, .rw, 0x0, 0x1ff, 0x0, 0x0, 0x0, 0x0⟩,
   ⟨0x8, .rw, 0x0, 0xf, 0x0, 0x0, 0x0, 0x0⟩,
   ⟨0xc, .rw, 0x80100a, 0xffff1f, 0x0, 0x0, 0x0, 0x0⟩,
   ⟨0x10, .rw, 0x0, 0x7fffff, 0x0, 0x0, 0x0, 0x0⟩,
   ⟨0x14, .rw, 0x0, 0x3fffff, 0x0, 0x0, 0x0, 0x0⟩,
   ⟨0x18, .ro, 0x0, 0x0, 0x0, 0x0, 0x0, 0x0⟩,
   ⟨0x1c, .rw, 0x4e20, 0xffffffff, 0x0, 0x0, 0x0, 0x0⟩,
   ⟨0x20, .ro, 0x0, 0x0, 0x0, 0x0, 0x0, 0x0⟩,
   ⟨0x24, .ro, 0x0, 0x0, 0x0, 0x0, 0x0, 0x0⟩,
   ⟨0x28, .rw, 0xc350, 0xffffffff, 0x0, 0x0, 0x0, 0x0⟩,
   ⟨0x2c, .rw, 0x404, 0xf0f, 0x0, 0x0, 0x0, 0x0⟩,
   ⟨0x30, .rw, 0x0, 0xf, 0x0, 0x0, 0x0, 0x0⟩,
   ⟨0x34, .ro, 0x0, 0x0, 0x0, 0x0, 0x0, 0x0⟩,
   ⟨0x40, .rw, 0x0, 0x8fffff00, 0x0, 0x0, 0x0, 0x0⟩,
   ⟨0x44, .rw, 0x0, 0x8fffff00, 0x0, 0x0, 0x0, 0x0⟩,
   ⟨0x48, .rw, 0x0, 0x8fffff00, 0x0, 0x0, 0x0, 0x0⟩,
   ⟨0x4c, .rw, 0x0, 0x8fffff00, 0x0, 0x0, 0x0, 0x0⟩,
   ⟨0x60, .ro, 0x0, 0x0, 0x0, 0x0, 0x0, 0x0⟩,
   ⟨0x64, .ro, 0x0, 0x0, 0x0, 0x0, 0x0, 0x0⟩,
   ⟨0x68, .ro, 0x0, 0x0, 0x0, 0x0, 0x0, 0x0⟩,
   ⟨0x6c, .ro, 0x0, 0x0, 0x0, 0x0, 0x0, 0x0⟩,
   ⟨0x70, .ro, 0x0, 0x0, 0x0, 0x0, 0x0, 0x0⟩,
   ⟨0x74, .ro, 0x0, 0x0, 0x0, 0x0, 0x0, 0x0⟩] ++
  [
   ⟨0x78, .ro, 0x0, 0x0, 0x0, 0x0, 0x0, 0x0⟩,
   ⟨0x7c, .ro, 0x0, 0x0, 0x0, 0x0, 0x0, 0x0⟩,
   ⟨0x80, .ro, 0x0, 0x0, 0x0, 0x0, 0x0, 0x0⟩,
   ⟨0x84, .ro, 0x0, 0x0, 0x0, 0x0, 0x0, 0x0⟩,
   ⟨0x88, .ro, 0x0, 0x0, 0x0, 0x0, 0x0, 0x0⟩,
   ⟨0x8c, .ro, 0x0, 0x0, 0x0, 0x0, 0x0, 0x0⟩]

/-- The registers of block DRAM. -/
def rowsDRAM : List RegRow :=
  [
   ⟨0x0, .wseq, 0x0, 0x0, 0x7f, 0x0, 0xe, 0x0⟩,
   ⟨0x4, .rw, 0x0, 0x7f, 0x0, 0x0, 0x0, 0x0⟩,
   ⟨0x8, .rw, 0x2a7aa55, 0xfffffff, 0x0, 0x0, 0x0, 0x0⟩,
   ⟨0xc, .rw, 0x1000, 0xffff, 0x0, 0x0, 0x0, 0x0⟩,
   ⟨0x10, .ro, 0x0, 0x0, 0x0, 0x0, 0x0, 0x0⟩,
   ⟨0x14, .ro, 0x0, 0x0, 0x0, 0x0, 0x0, 0x0⟩,
   ⟨0x18, .ro, 0x0, 0x0, 0x0, 0x0, 0x0, 0x0⟩,
   ⟨0x1c, .ro, 0x0, 0x0, 0x0, 0x0, 0x0, 0x0⟩,
   ⟨0x20, .ro, 0x0, 0x0, 0x0, 0x0, 0x0, 0x0⟩,
   ⟨0x24, .ro, 0x0, 0x0, 0x0, 0x0, 0x0, 0x0⟩,
   ⟨0x28, .keyed, 0x0, 0x0, 0x0, 0x63, 0x0, 0x0⟩,
   ⟨0x2c, .ro, 0x0, 0x0, 0x0, 0x0, 0x0, 0x0⟩,
   ⟨0x30, .rw, 0x80000040, 0x8000ffff, 0x0, 0x0, 0x0, 0x0⟩,
   ⟨0x34, .ro, 0x0, 0x0, 0x0, 0x0, 0x0, 0x0⟩,
   ⟨0x3f0, .wo, 0x0, 0x0, 0x0, 0x0, 0x0, 0x0⟩]

/-- The registers of block TXP. -/
def rowsTXP : List RegRow :=
  [
   ⟨0x0, .wseq, 0x0, 0x0, 0x3ff, 0x0, 0x2ef, 0x0⟩,
   ⟨0x4, .rw, 0x0, 0x3ff, 0x0, 0x0, 0x0, 0x0⟩,
   ⟨0x8, .rw, 0x0, 0xffff, 0x0, 0x0, 0x0, 0x0⟩,
   ⟨0xc, .ro, 0x0, 0x0, 0x0, 0x0, 0x0, 0x0⟩,
   ⟨0x10, .rw, 0x186a0, 0xffffffff, 0x0, 0x0, 0x0, 0x0⟩,
   ⟨0x14, .ro, 0x0, 0x0, 0x0, 0x0, 0x0, 0x0⟩,
   ⟨0x18, .ro, 0x0, 0x0, 0x0, 0x0, 0x0, 0x0⟩,
   ⟨0x1c, .ro, 0x0, 0x0, 0x0, 0x0, 0x0, 0x0⟩,
   ⟨0x20, .ro, 0x0, 0x0, 0x0, 0x0, 0x0, 0x0⟩,
   ⟨0x24, .ro, 0x0, 0x0, 0x0, 0x0, 0x0, 0x0⟩,
   ⟨0x28, .ro, 0x0, 0x0, 0x0, 0x0, 0x0, 0x0⟩,
   ⟨0x2c, .ro, 0x0, 0x0, 0x0, 0x0, 0x0, 0x0⟩,
   ⟨0x30, .ro, 0x0, 0x0, 0x0, 0x0, 0x0, 0x0⟩]

/-- The registers of block CORE. -/
def rowsCORE : List RegRow :=
  [
   ⟨0x0, .wseq, 0x0, 0x0, 0x7fff, 0x0, 0x3e7e, 0x4180⟩,
   ⟨0x4, .rw, 0x0, 0x7fff, 0x0, 0x0, 0x0, 0x0⟩,
   ⟨0x8, .ro, 0x0, 0x0, 0x0, 0x0, 0x0, 0x0⟩,
   ⟨0xc, .ro, 0x0, 0x0, 0x0, 0x0, 0x0, 0x0⟩,
   ⟨0x10, .rw, 0xc03, 0x1f03, 0x0, 0x0, 0x0, 0x0⟩,
   ⟨0x14, .ro, 0x0, 0x0, 0x0, 0x0, 0x0, 0x0⟩,
   ⟨0x18, .ro, 0x0, 0x0, 0x0, 0x0, 0x0, 0x0⟩,
   ⟨0x1c, .ro, 0x0, 0x0, 0x0, 0x0, 0x0, 0x0⟩,
   ⟨0x20, .ro, 0x0, 0x0, 0x0, 0x0, 0x0, 0x0⟩,
   ⟨0x24, .ro, 0x0, 0x0, 0x0, 0x0, 0x0, 0x0⟩,
   ⟨0x28, .ro, 0x0, 0x0, 0x0, 0x0, 0x0, 0x0⟩,
   ⟨0x2c, .ro, 0x0, 0x0, 0x0, 0x0, 0x0, 0x0⟩,
   ⟨0x30, .ro, 0x0, 0x0, 0x0, 0x0, 0x0, 0x0⟩,
   ⟨0x34, .ro, 0x0, 0x0, 0x0, 0x0, 0x0, 0x0⟩,
   ⟨0x38, .rw, 0x0, 0xf, 0x0, 0x0, 0x0, 0x0⟩,
   ⟨0x3c, .rw, 0x0, 0x1, 0x0, 0x0, 0x0, 0x0⟩,
   ⟨0x40, .ro, 0x0, 0x0, 0x0, 0x0, 0x0, 0x0⟩,
   ⟨0x44, .ro, 0x0, 0x0, 0x0, 0x0, 0x0, 0x0⟩,
   ⟨0x48, .keyed, 0x0, 0x0, 0x0, 0x3, 0x0, 0x0⟩,
   ⟨0x3f0, .wo, 0x0, 0x0, 0x0, 0x0, 0x0, 0x0⟩]

/-- The registers of block POOL. -/
def rowsPOOL : List RegRow :=
  [
   ⟨0x0, .wseq, 0x0, 0x0, 0xf, 0x0, 0xe, 0x0⟩,
   ⟨0x4, .rw, 0x0, 0xf, 0x0, 0x0, 0x0, 0x0⟩,
   ⟨0x8, .rw, 0x55555555, 0xffffffff, 0x0, 0x0, 0x0, 0x0⟩,
   ⟨0xc, .rw, 0x2e55555, 0xfffffff, 0x0, 0x0, 0x0, 0x0⟩,
   ⟨0x10, .rw, 0x1000, 0xffff, 0x0, 0x0, 0x0, 0x0⟩,
   ⟨0x14, .ro, 0x0, 0x0, 0x0, 0x0, 0x0, 0x0⟩,
   ⟨0x18, .ro, 0x0, 0x0, 0x0, 0x0, 0x0, 0x0⟩,
   ⟨0x1c, .ro, 0x0, 0x0, 0x0, 0x0, 0x0, 0x0⟩,
   ⟨0x20, .ro, 0x0, 0x0, 0x0, 0x0, 0x0, 0x0⟩,
   ⟨0x24, .ro, 0x0, 0x0, 0x0, 0x0, 0x0, 0x0⟩,
   ⟨0x28, .rw, 0x100, 0xffff, 0x0, 0x0, 0x0, 0x0⟩,
   ⟨0x2c, .wseq, 0x0, 0x0, 0xffff0f, 0x0, 0x2, 0xffff0c⟩,
   ⟨0x30, .rw, 0x0, 0xffff0f, 0x0, 0x0, 0x0, 0x0⟩]

/-- The registers of block RXP. -/
def rowsRXP : List RegRow :=
  [
   ⟨0x0, .wseq, 0x0, 0x0, 0x7f, 0x0, 0x7c, 0x0⟩,
   ⟨0x4, .rw, 0x0, 0x7f, 0x0, 0x0, 0x0, 0x0⟩,
   ⟨0x8, .rw, 0x403, 0xff07, 0x0, 0x0, 0x0, 0x0⟩,
   ⟨0xc, .ro, 0x0, 0x0, 0x0, 0x0, 0x0, 0x0⟩,
   ⟨0x10, .ro, 0x0, 0x0, 0x0, 0x0, 0x0, 0x0⟩,
   ⟨0x14, .ro, 0x0, 0x0, 0x0, 0x0, 0x0, 0x0⟩,
   ⟨0x18, .ro, 0x0, 0x0, 0x0, 0x0, 0x0, 0x0⟩,
   ⟨0x1c, .ro, 0x0, 0x0, 0x0, 0x0, 0x0, 0x0⟩,
   ⟨0x20, .ro, 0x0, 0x0, 0x0, 0x0, 0x0, 0x0⟩,
   ⟨0x24, .ro, 0x0, 0x0, 0x0, 0x0, 0x0, 0x0⟩,
   ⟨0x28, .ro, 0x0, 0x0, 0x0, 0x0, 0x0, 0x0⟩,
   ⟨0x2c, .ro, 0x0, 0x0, 0x0, 0x0, 0x0, 0x0⟩]

/-- The registers of block WEIR. -/
def rowsWEIR : List RegRow :=
  [
   ⟨0x0, .wseq, 0x0, 0x0, 0x3ff, 0x0, 0x12b, 0x0⟩,
   ⟨0x4, .rw, 0x0, 0x3ff, 0x0, 0x0, 0x0, 0x0⟩,
   ⟨0x8, .wseq, 0x0, 0x0, 0xfff, 0x0, 0x6, 0xff8⟩,
   ⟨0xc, .rw, 0x1060c02, 0x11f1f1f, 0x0, 0x0, 0x0, 0x0⟩,
   ⟨0x10, .rw, 0x0, 0x1, 0x0, 0x0, 0x0, 0x0⟩,
   ⟨0x14, .rw, 0x0, 0xffffffff, 0x0, 0x0, 0x0, 0x0⟩,
   ⟨0x18, .rw, 0x0, 0xffffffff, 0x0, 0x0, 0x0, 0x0⟩,
   ⟨0x1c, .ro, 0x0, 0x0, 0x0, 0x0, 0x0, 0x0⟩,
   ⟨0x20, .rw, 0x5208, 0xffffffff, 0x0, 0x0, 0x0, 0x0⟩,
   ⟨0x24, .rw, 0x12cc8, 0xffffffff, 0x0, 0x0, 0x0, 0x0⟩,
   ⟨0x28, .keyed, 0x1ff, 0x0, 0x0, 0x1ff, 0x0, 0x0⟩,
   ⟨0x2c, .ro, 0x0, 0x0, 0x0, 0x0, 0x0, 0x0⟩,
   ⟨0x30, .ro, 0x0, 0x0, 0x0, 0x0, 0x0, 0x0⟩,
   ⟨0x34, .ro, 0x0, 0x0, 0x0, 0x0, 0x0, 0x0⟩,
   ⟨0x38, .ro, 0x0, 0x0, 0x0, 0x0, 0x0, 0x0⟩,
   ⟨0x3c, .ro, 0x0, 0x0, 0x0, 0x0, 0x0, 0x0⟩,
   ⟨0x40, .ro, 0x0, 0x0, 0x0, 0x0, 0x0, 0x0⟩,
   ⟨0x44, .ro, 0x0, 0x0, 0x0, 0x0, 0x0, 0x0⟩,
   ⟨0x48, .ro, 0x0, 0x0, 0x0, 0x0, 0x0, 0x0⟩,
   ⟨0x4c, .ro, 0x0, 0x0, 0x0, 0x0, 0x0, 0x0⟩,
   ⟨0x50, .ro, 0x0, 0x0, 0x0, 0x0, 0x0, 0x0⟩,
   ⟨0x54, .ro, 0x0, 0x0, 0x0, 0x0, 0x0, 0x0⟩,
   ⟨0x3f0, .wo, 0x0, 0x0, 0x0, 0x0, 0x0, 0x0⟩]

/-- The registers of block CP. -/
def rowsCP : List RegRow :=
  [
   ⟨0x0, .wseq, 0x0, 0x0, 0x7, 0x0, 0x2, 0x0⟩,
   ⟨0x4, .rw, 0x0, 0x7, 0x0, 0x0, 0x0, 0x0⟩,
   ⟨0x8, .keyed, 0x10, 0x0, 0x0, 0x1fff, 0x0, 0x0⟩,
   ⟨0xc, .ro, 0x0, 0x0, 0x0, 0x0, 0x0, 0x0⟩,
   ⟨0x10, .rw, 0x0, 0xffff, 0x0, 0x0, 0x0, 0x0⟩,
   ⟨0x14, .rw, 0x0, 0xffffffff, 0x0, 0x0, 0x0, 0x0⟩,
   ⟨0x18, .rw, 0x0, 0xffff, 0x0, 0x0, 0x0, 0x0⟩,
   ⟨0x1c, .ro, 0x0, 0x0, 0x0, 0x0, 0x0, 0x0⟩,
   ⟨0x20, .ro, 0x0, 0x0, 0x0, 0x0, 0x0, 0x0⟩,
   ⟨0x24, .ro, 0x0, 0x0, 0x0, 0x0, 0x0, 0x0⟩,
   ⟨0x28, .ro, 0x0, 0x0, 0x0, 0x0, 0x0, 0x0⟩,
   ⟨0x2c, .ro, 0x0, 0x0, 0x0, 0x0, 0x0, 0x0⟩,
   ⟨0x30, .ro, 0x0, 0x0, 0x0, 0x0, 0x0, 0x0⟩,
   ⟨0x34, .ro, 0x0, 0x0, 0x0, 0x0, 0x0, 0x0⟩,
   ⟨0x38, .ro, 0x0, 0x0, 0x0, 0x0, 0x0, 0x0⟩,
   ⟨0x3c, .ro, 0x0, 0x0, 0x0, 0x0, 0x0, 0x0⟩,
   ⟨0x3f0, .wo, 0x0, 0x0, 0x0, 0x0, 0x0, 0x0⟩]

/-- The registers of block TRIB. -/
def rowsTRIB : List RegRow :=
  [
   ⟨0x0, .wseq, 0x0, 0x0, 0x7f, 0x0, 0x3c, 0x0⟩,
   ⟨0x4, .rw, 0x0, 0x7f, 0x0, 0x0, 0x0, 0x0⟩,
   ⟨0x8, .ro, 0x3ffff, 0x0, 0x0, 0x0, 0x0, 0x0⟩,
   ⟨0xc, .ro, 0x0, 0x0, 0x0, 0x0, 0x0, 0x0⟩,
   ⟨0x10, .rw, 0x88b5, 0xffff, 0x0, 0x0, 0x0, 0x0⟩,
   ⟨0x14, .rw, 0x32070320, 0xff0fffff, 0x0, 0x0, 0x0, 0x0⟩,
   ⟨0x18, .ro, 0x0, 0x0, 0x0, 0x0, 0x0, 0x0⟩,
   ⟨0x1c, .ro, 0x0, 0x0, 0x0, 0x0, 0x0, 0x0⟩,
   ⟨0x20, .ro, 0x0, 0x0, 0x0, 0x0, 0x0, 0x0⟩,
   ⟨0x24, .ro, 0x0, 0x0, 0x0, 0x0, 0x0, 0x0⟩,
   ⟨0x28, .rw, 0x0, 0x3f, 0x0, 0x0, 0x0, 0x0⟩,
   ⟨0x2c, .rw, 0x0, 0x8003ffff, 0x0, 0x0, 0x0, 0x0⟩,
   ⟨0x30, .rw, 0x0, 0xff03ffff, 0x0, 0x0, 0x0, 0x0⟩,
   ⟨0x34, .ro, 0x0, 0x0, 0x0, 0x0, 0x0, 0x0⟩,
   ⟨0x38, .ro, 0x0, 0x0, 0x0, 0x0, 0x0, 0x0⟩,
   ⟨0x3c, .ro, 0x0, 0x0, 0x0, 0x0, 0x0, 0x0⟩,
   ⟨0x40, .ro, 0x0, 0x0, 0x0, 0x0, 0x0, 0x0⟩,
   ⟨0x44, .ro, 0x0, 0x0, 0x0, 0x0, 0x0, 0x0⟩,
   ⟨0x48, .ro, 0x0, 0x0, 0x0, 0x0, 0x0, 0x0⟩,
   ⟨0x4c, .ro, 0x0, 0x0, 0x0, 0x0, 0x0, 0x0⟩,
   ⟨0x50, .ro, 0x0, 0x0, 0x0, 0x0, 0x0, 0x0⟩,
   ⟨0x54, .ro, 0x0, 0x0, 0x0, 0x0, 0x0, 0x0⟩]

/-- The registers of block FH. -/
def rowsFH : List RegRow :=
  [
   ⟨0x0, .wseq, 0x0, 0x0, 0x7f, 0x0, 0x0, 0x0⟩,
   ⟨0x4, .rw, 0x0, 0x7f, 0x0, 0x0, 0x0, 0x0⟩,
   ⟨0x8, .rw, 0x19, 0x1fff, 0x0, 0x0, 0x0, 0x0⟩,
   ⟨0xc, .rw, 0x0, 0xffffffff, 0x0, 0x0, 0x0, 0x0⟩,
   ⟨0x10, .rw, 0x7530, 0xffffffff, 0x0, 0x0, 0x0, 0x0⟩,
   ⟨0x14, .rw, 0x0, 0x3ff, 0x0, 0x0, 0x0, 0x0⟩,
   ⟨0x18, .rw, 0x0, 0x3fffffff, 0x0, 0x0, 0x0, 0x0⟩,
   ⟨0x1c, .rw, 0x0, 0xf, 0x0, 0x0, 0x0, 0x0⟩,
   ⟨0x20, .rw, 0x0, 0xffffffff, 0x0, 0x0, 0x0, 0x0⟩,
   ⟨0x24, .rw, 0x0, 0x8007ffff, 0x0, 0x0, 0x0, 0x0⟩,
   ⟨0x28, .ro, 0x0, 0x0, 0x0, 0x0, 0x0, 0x0⟩,
   ⟨0x2c, .ro, 0x0, 0x0, 0x0, 0x0, 0x0, 0x0⟩,
   ⟨0x30, .ro, 0x0, 0x0, 0x0, 0x0, 0x0, 0x0⟩,
   ⟨0x34, .ro, 0x0, 0x0, 0x0, 0x0, 0x0, 0x0⟩,
   ⟨0x38, .ro, 0x0, 0x0, 0x0, 0x0, 0x0, 0x0⟩,
   ⟨0x3c, .ro, 0x0, 0x0, 0x0, 0x0, 0x0, 0x0⟩,
   ⟨0x40, .ro, 0x0, 0x0, 0x0, 0x0, 0x0, 0x0⟩,
   ⟨0x44, .ro, 0x0, 0x0, 0x0, 0x0, 0x0, 0x0⟩]

/-- The registers of block PGRP. -/
def rowsPGRP : List RegRow :=
  [
   ⟨0x0, .wseq, 0x0, 0x0, 0xf07, 0x0, 0x6, 0xf00⟩,
   ⟨0x4, .rw, 0x0, 0xf07, 0x0, 0x0, 0x0, 0x0⟩,
   ⟨0x8, .ro, 0x0, 0x0, 0x0, 0x0, 0x0, 0x0⟩]

/-- The registers of block DFE. -/
def rowsDFE : List RegRow :=
  [
   ⟨0x0, .wseq, 0x0, 0x0, 0xff, 0x0, 0x66, 0x0⟩,
   ⟨0x4, .rw, 0x0, 0xff, 0x0, 0x0, 0x0, 0x0⟩,
   ⟨0x8, .ro, 0x0, 0x0, 0x0, 0x0, 0x0, 0x0⟩,
   ⟨0xc, .ro, 0x0, 0x0, 0x0, 0x0, 0x0, 0x0⟩,
   ⟨0x10, .ro, 0x0, 0x0, 0x0, 0x0, 0x0, 0x0⟩,
   ⟨0x14, .rw, 0x0, 0xffff, 0x0, 0x0, 0x0, 0x0⟩,
   ⟨0x18, .rw, 0x0, 0xf, 0x0, 0x0, 0x0, 0x0⟩,
   ⟨0x1c, .ro, 0x0, 0x0, 0x0, 0x0, 0x0, 0x0⟩,
   ⟨0x20, .ro, 0x0, 0x0, 0x0, 0x0, 0x0, 0x0⟩,
   ⟨0x24, .ro, 0x0, 0x0, 0x0, 0x0, 0x0, 0x0⟩,
   ⟨0x28, .ro, 0x0, 0x0, 0x0, 0x0, 0x0, 0x0⟩,
   ⟨0x2c, .ro, 0x0, 0x0, 0x0, 0x0, 0x0, 0x0⟩,
   ⟨0x30, .ro, 0x0, 0x0, 0x0, 0x0, 0x0, 0x0⟩,
   ⟨0x34, .rw, 0x0, 0xffff, 0x0, 0x0, 0x0, 0x0⟩,
   ⟨0x38, .ro, 0x0, 0x0, 0x0, 0x0, 0x0, 0x0⟩,
   ⟨0x3c, .ro, 0x0, 0x0, 0x0, 0x0, 0x0, 0x0⟩,
   ⟨0x40, .keyed, 0x8000030f, 0x0, 0x0, 0x80000f3f, 0x0, 0x0⟩,
   ⟨0x44, .rw, 0x4fc01042, 0xefffffff, 0x0, 0x0, 0x0, 0x0⟩,
   ⟨0x48, .rw, 0x10000000, 0xffffffff, 0x0, 0x0, 0x0, 0x0⟩,
   ⟨0x4c, .rw, 0x1000000, 0xffffffff, 0x0, 0x0, 0x0, 0x0⟩,
   ⟨0x50, .rw, 0x0, 0xffffffff, 0x0, 0x0, 0x0, 0x0⟩,
   ⟨0x54, .rw, 0x0, 0xff, 0x0, 0x0, 0x0, 0x0⟩,
   ⟨0x58, .rw, 0x0, 0x1f, 0x0, 0x0, 0x0, 0x0⟩,
   ⟨0x5c, .ro, 0x0, 0x0, 0x0, 0x0, 0x0, 0x0⟩] ++
  [
   ⟨0x60, .ro, 0x0, 0x0, 0x0, 0x0, 0x0, 0x0⟩,
   ⟨0x3f0, .wo, 0x0, 0x0, 0x0, 0x0, 0x0, 0x0⟩]

/-- The registers of block MBXS. -/
def rowsMBXS : List RegRow :=
  [
   ⟨0x0, .ro, 0x0, 0x0, 0x0, 0x0, 0x0, 0x0⟩]

/-- The register table of a block. -/
def Blk.rows : Blk → List RegRow
  | .chipB => rowsCHIP
  | .timeB => rowsTIME
  | .faultB => rowsFAULT
  | .pwrB => rowsPWR
  | .catchB => rowsCATCH
  | .hostB => rowsHOST
  | .schedB => rowsSCHED
  | .detB => rowsDET
  | .bkwB => rowsBKW
  | .dramB => rowsDRAM
  | .txpB => rowsTXP
  | .coreB => rowsCORE
  | .poolB => rowsPOOL
  | .rxpB => rowsRXP
  | .weirB => rowsWEIR
  | .cpB => rowsCP
  | .tribB => rowsTRIB
  | .fhB => rowsFH
  | .pgrpB => rowsPGRP
  | .dfeB => rowsDFE
  | .mbxsB => rowsMBXS
  | .cfgMem => []
  | .logWin => []
  | .mbxB => []

/-- A block's declared size in bytes (17 R634, R637). -/
def Blk.size : Blk → Nat
  | .timeB | .pwrB | .hostB | .detB | .dramB | .coreB | .weirB | .cpB | .dfeB => 1024
  | .cfgMem | .logWin => 4096
  | _ => 256

/-- Which enable register governs the events of the register at an offset of a block, if one does. -/
def Blk.enable : Blk → Nat → Option Nat
  | .poolB, 0x2C => some 0x30
  | .weirB, 8 => none
  | .detB, _ => none
  | .catchB, _ => none
  | _, 0 => some 4
  | _, _ => none

/-- The row of an offset in a block (17 R635: none where the offset names no register). -/
def Blk.row (b : Blk) (off : Nat) : Option RegRow := b.rows.find? (fun r => r.off == off)

/-- The reset value of a register of a block. -/
def Blk.rst (b : Blk) (off : Nat) : Word :=
  match b.row off with
  | some r => BitVec.ofNat 32 r.rst
  | none => 0

/-! Register addresses: CSR offsets of the registers, by their names in the manual; registers of a CORE block by their offset alone. -/
@[reducible] def Reg.CHIP_IDENT : Nat := 0x0
@[reducible] def Reg.TIME_STATUS : Nat := 0x1000
@[reducible] def Reg.TIME_IRQ_EN : Nat := 0x1004
@[reducible] def Reg.TIME_NS32 : Nat := 0x1008
@[reducible] def Reg.TIME_FRAC : Nat := 0x100c
@[reducible] def Reg.TIME_SUBSEC : Nat := 0x1010
@[reducible] def Reg.TIME_RADIO : Nat := 0x1014
@[reducible] def Reg.TIME_INCREMENT : Nat := 0x1018
@[reducible] def Reg.TIME_INCREMENT_HI : Nat := 0x101c
@[reducible] def Reg.TIME_ADJ : Nat := 0x1020
@[reducible] def Reg.TIME_STATE : Nat := 0x1024
@[reducible] def Reg.TIME_PTP_CFG : Nat := 0x1028
@[reducible] def Reg.TIME_PPS_IN_TS : Nat := 0x102c
@[reducible] def Reg.TIME_PPS_OUT : Nat := 0x1030
@[reducible] def Reg.TIME_SYNCE : Nat := 0x1034
@[reducible] def Reg.TIME_FRAME_ADV : Nat := 0x1038
@[reducible] def Reg.TIME_RADIO_SEL : Nat := 0x103c
@[reducible] def Reg.TIME_LATE_LIMIT : Nat := 0x1040
@[reducible] def Reg.TIME_GATE_LATE_CNT : Nat := 0x1044
@[reducible] def Reg.TIME_GATE_MISS_CNT : Nat := 0x1048
@[reducible] def Reg.TIME_OFFSET : Nat := 0x104c
@[reducible] def Reg.TIME_SET_NS32 : Nat := 0x1050
@[reducible] def Reg.TIME_SET_SUBSEC : Nat := 0x1054
@[reducible] def Reg.TIME_SET_SFN : Nat := 0x1058
@[reducible] def Reg.TIME_SET_CTL : Nat := 0x105c
@[reducible] def Reg.TIME_TC_CNT : Nat := 0x1060
@[reducible] def Reg.TIME_UNLOCK : Nat := 0x13f0
@[reducible] def Reg.FAULT_STATUS : Nat := 0x2000
@[reducible] def Reg.FAULT_IRQ_EN : Nat := 0x2004
@[reducible] def Reg.FAULT_LOG_HEAD : Nat := 0x2008
@[reducible] def Reg.FAULT_LOG_OVF : Nat := 0x200c
@[reducible] def Reg.FAULT_LOG_SEL : Nat := 0x2010
@[reducible] def Reg.FAULT_LOG_DATA : Nat := 0x2014
@[reducible] def Reg.FAULT_CHECK : Nat := 0x2018
@[reducible] def Reg.FAULT_SUSPECT_CFG : Nat := 0x201c
@[reducible] def Reg.FAULT_FENCED_LO : Nat := 0x2020
@[reducible] def Reg.FAULT_FENCED_HI : Nat := 0x2024
@[reducible] def Reg.FAULT_TEST_CFG : Nat := 0x2028
@[reducible] def Reg.FAULT_TEST_POS : Nat := 0x202c
@[reducible] def Reg.FAULT_TEST_PASS_CNT : Nat := 0x2030
@[reducible] def Reg.FAULT_TEST_FAIL_CNT : Nat := 0x2034
@[reducible] def Reg.FAULT_REPLAY_CNT : Nat := 0x2038
@[reducible] def Reg.FAULT_REMAP_CNT : Nat := 0x203c
@[reducible] def Reg.FAULT_SPILL_CAUSE : Nat := 0x2040
@[reducible] def Reg.FAULT_HOLE_LO : Nat := 0x2044
@[reducible] def Reg.FAULT_HOLE_HI : Nat := 0x2048
@[reducible] def Reg.PWR_STATUS : Nat := 0x3000
@[reducible] def Reg.PWR_IRQ_EN : Nat := 0x3004
@[reducible] def Reg.PWR_CAP : Nat := 0x3008
@[reducible] def Reg.PWR_CFG : Nat := 0x300c
@[reducible] def Reg.PWR_EST : Nat := 0x3010
@[reducible] def Reg.PWR_EST_PEAK : Nat := 0x3014
@[reducible] def Reg.PWR_ENVELOPE : Nat := 0x3018
@[reducible] def Reg.PWR_BUBBLE : Nat := 0x301c
@[reducible] def Reg.PWR_THROTTLE_CNT : Nat := 0x3020
@[reducible] def Reg.PWR_RAMP_OVER_CNT : Nat := 0x3024
@[reducible] def Reg.PWR_DOM_CORE_LO : Nat := 0x3028
@[reducible] def Reg.PWR_DOM_CORE_HI : Nat := 0x302c
@[reducible] def Reg.PWR_DOM_OTHER : Nat := 0x3030
@[reducible] def Reg.PWR_TEMP_SEL : Nat := 0x3034
@[reducible] def Reg.PWR_TEMP : Nat := 0x3038
@[reducible] def Reg.PWR_TEMP_MAX : Nat := 0x303c
@[reducible] def Reg.PWR_THERM_CFG : Nat := 0x3040
@[reducible] def Reg.PWR_VSET_SEL : Nat := 0x3044
@[reducible] def Reg.PWR_VSET : Nat := 0x3048
@[reducible] def Reg.PWR_RESET_CAUSE : Nat := 0x304c
@[reducible] def Reg.PWR_BOOT : Nat := 0x3050
@[reducible] def Reg.PWR_UNLOCK : Nat := 0x33f0
@[reducible] def Reg.CATCH_SELECT : Nat := 0x4000
@[reducible] def Reg.CATCH_FAULTWORD : Nat := 0x4004
@[reducible] def Reg.HOST_STATUS : Nat := 0x5000
@[reducible] def Reg.HOST_IRQ_EN : Nat := 0x5004
@[reducible] def Reg.HOST_LINK : Nat := 0x5008
@[reducible] def Reg.HOST_BASIN_STATE : Nat := 0x500c
@[reducible] def Reg.HOST_BASIN_EN : Nat := 0x5010
@[reducible] def Reg.HOST_TAG_SEL : Nat := 0x5014
@[reducible] def Reg.HOST_TAG_CNT : Nat := 0x5018
@[reducible] def Reg.HOST_RESET_TIME : Nat := 0x501c
@[reducible] def Reg.HOST_WALK_CNT : Nat := 0x5020
@[reducible] def Reg.HOST_ATU_FAULT_CNT : Nat := 0x5024
@[reducible] def Reg.HOST_CQ_DROP_CNT : Nat := 0x5028
@[reducible] def Reg.HOST_SMB_ADDR : Nat := 0x502c
@[reducible] def Reg.HOST_SMB_ERR_CNT : Nat := 0x5030
@[reducible] def Reg.HOST_UNLOCK : Nat := 0x53f0
@[reducible] def Reg.SCHED_STATUS : Nat := 0x6000
@[reducible] def Reg.SCHED_IRQ_EN : Nat := 0x6004
@[reducible] def Reg.SCHED_PERIOD : Nat := 0x6008
@[reducible] def Reg.SCHED_BUDGET_SEL : Nat := 0x600c
@[reducible] def Reg.SCHED_BUDGET_MIN : Nat := 0x6010
@[reducible] def Reg.SCHED_BUDGET_MAX : Nat := 0x6014
@[reducible] def Reg.SCHED_FG_WAIT_CNT : Nat := 0x6018
@[reducible] def Reg.SCHED_BG_DENY_CNT : Nat := 0x601c
@[reducible] def Reg.SCHED_PREEMPT_WAIT : Nat := 0x6020
@[reducible] def Reg.SCHED_PREEMPT_CNT : Nat := 0x6024
@[reducible] def Reg.SCHED_PREEMPT_DROP_CNT : Nat := 0x6028
@[reducible] def Reg.DET_STATUS : Nat := 0x7000
@[reducible] def Reg.DET_STRICT : Nat := 0x7004
@[reducible] def Reg.DET_CHOICES : Nat := 0x7008
@[reducible] def Reg.DET_CHOICES_HI : Nat := 0x700c
@[reducible] def Reg.DET_UNLOCK : Nat := 0x73f0
@[reducible] def Reg.BKW_STATUS : Nat := 0x8000
@[reducible] def Reg.BKW_IRQ_EN : Nat := 0x8004
@[reducible] def Reg.BKW_CTRL : Nat := 0x8008
@[reducible] def Reg.BKW_CAPCFG : Nat := 0x800c
@[reducible] def Reg.BKW_CACHE_BASE : Nat := 0x8010
@[reducible] def Reg.BKW_CACHE_SIZE : Nat := 0x8014
@[reducible] def Reg.BKW_EPOCH : Nat := 0x8018
@[reducible] def Reg.BKW_EPOCH_LEN : Nat := 0x801c
@[reducible] def Reg.BKW_OLDEST_EPOCH : Nat := 0x8020
@[reducible] def Reg.BKW_NEXT_TAG : Nat := 0x8024
@[reducible] def Reg.BKW_SWAP_LEAD : Nat := 0x8028
@[reducible] def Reg.BKW_REPLAY_CFG : Nat := 0x802c
@[reducible] def Reg.BKW_REGION_SEL : Nat := 0x8030
@[reducible] def Reg.BKW_REGION_STATE : Nat := 0x8034
@[reducible] def Reg.BKW_REFSIG0 : Nat := 0x8040
@[reducible] def Reg.BKW_REFSIG1 : Nat := 0x8044
@[reducible] def Reg.BKW_REFSIG2 : Nat := 0x8048
@[reducible] def Reg.BKW_REFSIG3 : Nat := 0x804c
@[reducible] def Reg.BKW_CAP_CNT : Nat := 0x8060
@[reducible] def Reg.BKW_CAP_SKIP_CNT : Nat := 0x8064
@[reducible] def Reg.BKW_FULL_SKIP_CNT : Nat := 0x8068
@[reducible] def Reg.BKW_EVICT_CNT : Nat := 0x806c
@[reducible] def Reg.BKW_AUG_SKIP_CNT : Nat := 0x8070
@[reducible] def Reg.BKW_STEP_CNT : Nat := 0x8074
@[reducible] def Reg.BKW_STEP_CUT_CNT : Nat := 0x8078
@[reducible] def Reg.BKW_REPLAY_CNT : Nat := 0x807c
@[reducible] def Reg.BKW_DISAGREE_CNT : Nat := 0x8080
@[reducible] def Reg.BKW_SWAP_CNT : Nat := 0x8084
@[reducible] def Reg.BKW_REJECT_CNT : Nat := 0x8088
@[reducible] def Reg.BKW_SUPERSEDE_CNT : Nat := 0x808c
@[reducible] def Reg.DRAM_STATUS : Nat := 0x9000
@[reducible] def Reg.DRAM_IRQ_EN : Nat := 0x9004
@[reducible] def Reg.DRAM_ARBCLASS : Nat := 0x9008
@[reducible] def Reg.DRAM_STARVE_LIMIT : Nat := 0x900c
@[reducible] def Reg.DRAM_STARVE_INFO : Nat := 0x9010
@[reducible] def Reg.DRAM_REVOKE_CNT : Nat := 0x9014
@[reducible] def Reg.DRAM_CORR_CNT : Nat := 0x9018
@[reducible] def Reg.DRAM_UNCORR_CNT : Nat := 0x901c
@[reducible] def Reg.DRAM_FAULT_LO : Nat := 0x9020
@[reducible] def Reg.DRAM_FAULT_HI : Nat := 0x9024
@[reducible] def Reg.DRAM_CFG : Nat := 0x9028
@[reducible] def Reg.DRAM_TOP : Nat := 0x902c
@[reducible] def Reg.DRAM_SCRUB : Nat := 0x9030
@[reducible] def Reg.DRAM_SCRUB_PASS : Nat := 0x9034
@[reducible] def Reg.DRAM_UNLOCK : Nat := 0x93f0
@[reducible] def Reg.TXP_STATUS : Nat := 0xa000
@[reducible] def Reg.TXP_IRQ_EN : Nat := 0xa004
@[reducible] def Reg.TXP_BEAM_SEL : Nat := 0xa008
@[reducible] def Reg.TXP_BEAM_ACTIVE : Nat := 0xa00c
@[reducible] def Reg.TXP_LEAD : Nat := 0xa010
@[reducible] def Reg.TXP_TB_LATE_CNT : Nat := 0xa014
@[reducible] def Reg.TXP_CB_LATE_CNT : Nat := 0xa018
@[reducible] def Reg.TXP_SYM_LATE_CNT : Nat := 0xa01c
@[reducible] def Reg.TXP_REMOTE_MISS_CNT : Nat := 0xa020
@[reducible] def Reg.TXP_RERUN_CNT : Nat := 0xa024
@[reducible] def Reg.TXP_ZEROED_CNT : Nat := 0xa028
@[reducible] def Reg.TXP_OVERFLOW_CNT : Nat := 0xa02c
@[reducible] def Reg.TXP_SAT_CNT : Nat := 0xa030
@[reducible] def Reg.CORE_FAULTWORD : Nat := 0x0
@[reducible] def Reg.CORE_IRQ_EN : Nat := 0x4
@[reducible] def Reg.CORE_FAULT_INFO : Nat := 0x8
@[reducible] def Reg.CORE_FAULT_ADDR : Nat := 0xc
@[reducible] def Reg.CORE_CHKCFG : Nat := 0x10
@[reducible] def Reg.CORE_CHKREC : Nat := 0x14
@[reducible] def Reg.CORE_CHK_CNT : Nat := 0x18
@[reducible] def Reg.CORE_CHK_SKIP_CNT : Nat := 0x1c
@[reducible] def Reg.CORE_CORR_CNT : Nat := 0x20
@[reducible] def Reg.CORE_STALL_TILE : Nat := 0x24
@[reducible] def Reg.CORE_STALL_BANK : Nat := 0x28
@[reducible] def Reg.CORE_STALL_SLUICE : Nat := 0x2c
@[reducible] def Reg.CORE_SLUICE_DONE : Nat := 0x30
@[reducible] def Reg.CORE_SLUICE_ERR : Nat := 0x34
@[reducible] def Reg.CORE_BASIN : Nat := 0x38
@[reducible] def Reg.CORE_MODE : Nat := 0x3c
@[reducible] def Reg.CORE_STATE : Nat := 0x40
@[reducible] def Reg.CORE_PHYS : Nat := 0x44
@[reducible] def Reg.CORE_CTRL : Nat := 0x48
@[reducible] def Reg.CORE_UNLOCK : Nat := 0x3f0
@[reducible] def Reg.POOL_STATUS (i : Nat) : Nat := 0x300000 + i * 0x10000
@[reducible] def Reg.POOL_IRQ_EN (i : Nat) : Nat := 0x300004 + i * 0x10000
@[reducible] def Reg.POOL_ARBCLASS (i : Nat) : Nat := 0x300008 + i * 0x10000
@[reducible] def Reg.POOL_ARBCLASS_HI (i : Nat) : Nat := 0x30000c + i * 0x10000
@[reducible] def Reg.POOL_STARVE_LIMIT (i : Nat) : Nat := 0x300010 + i * 0x10000
@[reducible] def Reg.POOL_STARVE_INFO (i : Nat) : Nat := 0x300014 + i * 0x10000
@[reducible] def Reg.POOL_REVOKE_CNT (i : Nat) : Nat := 0x300018 + i * 0x10000
@[reducible] def Reg.POOL_CORR_CNT (i : Nat) : Nat := 0x30001c + i * 0x10000
@[reducible] def Reg.POOL_UNCORR_CNT (i : Nat) : Nat := 0x300020 + i * 0x10000
@[reducible] def Reg.POOL_FAULT_ADDR (i : Nat) : Nat := 0x300024 + i * 0x10000
@[reducible] def Reg.POOL_SCRUB_RATE (i : Nat) : Nat := 0x300028 + i * 0x10000
@[reducible] def Reg.POOL_FAULTWORD (i : Nat) : Nat := 0x30002c + i * 0x10000
@[reducible] def Reg.POOL_FW_IRQ_EN (i : Nat) : Nat := 0x300030 + i * 0x10000
@[reducible] def Reg.RXP_STATUS (i : Nat) : Nat := 0x301000 + i * 0x10000
@[reducible] def Reg.RXP_IRQ_EN (i : Nat) : Nat := 0x301004 + i * 0x10000
@[reducible] def Reg.RXP_MONCFG (i : Nat) : Nat := 0x301008 + i * 0x10000
@[reducible] def Reg.RXP_MODEL_ACTIVE (i : Nat) : Nat := 0x30100c + i * 0x10000
@[reducible] def Reg.RXP_REACH_LO (i : Nat) : Nat := 0x301010 + i * 0x10000
@[reducible] def Reg.RXP_REACH_HI (i : Nat) : Nat := 0x301014 + i * 0x10000
@[reducible] def Reg.RXP_FALLBACK_CNT (i : Nat) : Nat := 0x301018 + i * 0x10000
@[reducible] def Reg.RXP_FB_SKIP_CNT (i : Nat) : Nat := 0x30101c + i * 0x10000
@[reducible] def Reg.RXP_RERUN_CNT (i : Nat) : Nat := 0x301020 + i * 0x10000
@[reducible] def Reg.RXP_ZEROED_CNT (i : Nat) : Nat := 0x301024 + i * 0x10000
@[reducible] def Reg.RXP_LATE_CNT (i : Nat) : Nat := 0x301028 + i * 0x10000
@[reducible] def Reg.RXP_OVERRUN_CNT (i : Nat) : Nat := 0x30102c + i * 0x10000
@[reducible] def Reg.WEIR_STATUS (i : Nat) : Nat := 0x302000 + i * 0x10000
@[reducible] def Reg.WEIR_IRQ_EN (i : Nat) : Nat := 0x302004 + i * 0x10000
@[reducible] def Reg.WEIR_FAULTWORD (i : Nat) : Nat := 0x302008 + i * 0x10000
@[reducible] def Reg.WEIR_CFG (i : Nat) : Nat := 0x30200c + i * 0x10000
@[reducible] def Reg.WEIR_PARAM_SEL (i : Nat) : Nat := 0x302010 + i * 0x10000
@[reducible] def Reg.WEIR_PARAM_A (i : Nat) : Nat := 0x302014 + i * 0x10000
@[reducible] def Reg.WEIR_PARAM_B (i : Nat) : Nat := 0x302018 + i * 0x10000
@[reducible] def Reg.WEIR_PARAM_ACTIVE (i : Nat) : Nat := 0x30201c + i * 0x10000
@[reducible] def Reg.WEIR_LLR_WAIT (i : Nat) : Nat := 0x302020 + i * 0x10000
@[reducible] def Reg.WEIR_DEADLINE (i : Nat) : Nat := 0x302024 + i * 0x10000
@[reducible] def Reg.WEIR_ENGINE_EN (i : Nat) : Nat := 0x302028 + i * 0x10000
@[reducible] def Reg.WEIR_CB_OK_CNT (i : Nat) : Nat := 0x30202c + i * 0x10000
@[reducible] def Reg.WEIR_CB_FAIL_CNT (i : Nat) : Nat := 0x302030 + i * 0x10000
@[reducible] def Reg.WEIR_TB_OK_CNT (i : Nat) : Nat := 0x302034 + i * 0x10000
@[reducible] def Reg.WEIR_TB_FAIL_CNT (i : Nat) : Nat := 0x302038 + i * 0x10000
@[reducible] def Reg.WEIR_ITER_SUM (i : Nat) : Nat := 0x30203c + i * 0x10000
@[reducible] def Reg.WEIR_ABANDON_CNT (i : Nat) : Nat := 0x302040 + i * 0x10000
@[reducible] def Reg.WEIR_DEADLINE_CNT (i : Nat) : Nat := 0x302044 + i * 0x10000
@[reducible] def Reg.WEIR_ORPHAN_CNT (i : Nat) : Nat := 0x302048 + i * 0x10000
@[reducible] def Reg.WEIR_HARQ_MISM_CNT (i : Nat) : Nat := 0x30204c + i * 0x10000
@[reducible] def Reg.WEIR_POLAR_CNT (i : Nat) : Nat := 0x302050 + i * 0x10000
@[reducible] def Reg.WEIR_FAULT_ADDR (i : Nat) : Nat := 0x302054 + i * 0x10000
@[reducible] def Reg.WEIR_UNLOCK (i : Nat) : Nat := 0x3023f0 + i * 0x10000
@[reducible] def Reg.CP_STATUS (i : Nat) : Nat := 0x400000 + i * 0x1000
@[reducible] def Reg.CP_IRQ_EN (i : Nat) : Nat := 0x400004 + i * 0x1000
@[reducible] def Reg.CP_CFG (i : Nat) : Nat := 0x400008 + i * 0x1000
@[reducible] def Reg.CP_LINK (i : Nat) : Nat := 0x40000c + i * 0x1000
@[reducible] def Reg.CP_VLAN (i : Nat) : Nat := 0x400010 + i * 0x1000
@[reducible] def Reg.CP_MAC_LO (i : Nat) : Nat := 0x400014 + i * 0x1000
@[reducible] def Reg.CP_MAC_HI (i : Nat) : Nat := 0x400018 + i * 0x1000
@[reducible] def Reg.CP_RX_FRAMES (i : Nat) : Nat := 0x40001c + i * 0x1000
@[reducible] def Reg.CP_TX_FRAMES (i : Nat) : Nat := 0x400020 + i * 0x1000
@[reducible] def Reg.CP_FEC_CORR_CNT (i : Nat) : Nat := 0x400024 + i * 0x1000
@[reducible] def Reg.CP_FEC_UNCORR_CNT (i : Nat) : Nat := 0x400028 + i * 0x1000
@[reducible] def Reg.CP_FCS_ERR_CNT (i : Nat) : Nat := 0x40002c + i * 0x1000
@[reducible] def Reg.CP_DROP_CNT (i : Nat) : Nat := 0x400030 + i * 0x1000
@[reducible] def Reg.CP_FWD_CNT (i : Nat) : Nat := 0x400034 + i * 0x1000
@[reducible] def Reg.CP_FWD_DROP_CNT (i : Nat) : Nat := 0x400038 + i * 0x1000
@[reducible] def Reg.CP_LINK_DROP_CNT (i : Nat) : Nat := 0x40003c + i * 0x1000
@[reducible] def Reg.CP_UNLOCK (i : Nat) : Nat := 0x4003f0 + i * 0x1000
@[reducible] def Reg.TRIB_STATUS : Nat := 0x408000
@[reducible] def Reg.TRIB_IRQ_EN : Nat := 0x408004
@[reducible] def Reg.TRIB_ADDR : Nat := 0x408008
@[reducible] def Reg.TRIB_LEASE_LEFT : Nat := 0x40800c
@[reducible] def Reg.TRIB_ETYPE : Nat := 0x408010
@[reducible] def Reg.TRIB_RETRY_CFG : Nat := 0x408014
@[reducible] def Reg.TRIB_UID0 : Nat := 0x408018
@[reducible] def Reg.TRIB_UID1 : Nat := 0x40801c
@[reducible] def Reg.TRIB_UID2 : Nat := 0x408020
@[reducible] def Reg.TRIB_UID3 : Nat := 0x408024
@[reducible] def Reg.TRIB_ROUTE_SEL : Nat := 0x408028
@[reducible] def Reg.TRIB_ROUTE_BASE : Nat := 0x40802c
@[reducible] def Reg.TRIB_ROUTE_MASK : Nat := 0x408030
@[reducible] def Reg.TRIB_UNREACH_ADDR : Nat := 0x408034
@[reducible] def Reg.TRIB_RETRY_CNT : Nat := 0x408038
@[reducible] def Reg.TRIB_NACK_CNT : Nat := 0x40803c
@[reducible] def Reg.TRIB_DUP_CNT : Nat := 0x408040
@[reducible] def Reg.TRIB_REORDER_CNT : Nat := 0x408044
@[reducible] def Reg.TRIB_HOLD_DROP_CNT : Nat := 0x408048
@[reducible] def Reg.TRIB_UNREACH_CNT : Nat := 0x40804c
@[reducible] def Reg.TRIB_MISROUTE_CNT : Nat := 0x408050
@[reducible] def Reg.TRIB_CRC_ERR_CNT : Nat := 0x408054
@[reducible] def Reg.FH_STATUS : Nat := 0x409000
@[reducible] def Reg.FH_IRQ_EN : Nat := 0x409004
@[reducible] def Reg.FH_CFG : Nat := 0x409008
@[reducible] def Reg.FH_RX_WIN_OPEN : Nat := 0x40900c
@[reducible] def Reg.FH_RX_WIN_CLOSE : Nat := 0x409010
@[reducible] def Reg.FH_EAXC_SEL : Nat := 0x409014
@[reducible] def Reg.FH_EAXC_DATA : Nat := 0x409018
@[reducible] def Reg.FH_PEER_SEL : Nat := 0x40901c
@[reducible] def Reg.FH_PEER_MAC_LO : Nat := 0x409020
@[reducible] def Reg.FH_PEER_MAC_HI : Nat := 0x409024
@[reducible] def Reg.FH_EARLY_CNT : Nat := 0x409028
@[reducible] def Reg.FH_LATE_CNT : Nat := 0x40902c
@[reducible] def Reg.FH_MISSING_CNT : Nat := 0x409030
@[reducible] def Reg.FH_DUP_PRB_CNT : Nat := 0x409034
@[reducible] def Reg.FH_UNKNOWN_CNT : Nat := 0x409038
@[reducible] def Reg.FH_MALFORMED_CNT : Nat := 0x40903c
@[reducible] def Reg.FH_SEQ_GAP_CNT : Nat := 0x409040
@[reducible] def Reg.FH_OWD_LAST : Nat := 0x409044
@[reducible] def Reg.PGRP_FAULTWORD (i : Nat) : Nat := 0x40a000 + i * 0x1000
@[reducible] def Reg.PGRP_IRQ_EN (i : Nat) : Nat := 0x40a004 + i * 0x1000
@[reducible] def Reg.PGRP_FAULT_INFO (i : Nat) : Nat := 0x40a008 + i * 0x1000
@[reducible] def Reg.DFE_STATUS : Nat := 0x500000
@[reducible] def Reg.DFE_IRQ_EN : Nat := 0x500004
@[reducible] def Reg.DFE_LINK_STATUS : Nat := 0x500008
@[reducible] def Reg.DFE_SYSREF_TIME : Nat := 0x50000c
@[reducible] def Reg.DFE_RX_LAT : Nat := 0x500010
@[reducible] def Reg.DFE_RX_OFFSET : Nat := 0x500014
@[reducible] def Reg.DFE_LANE_SEL : Nat := 0x500018
@[reducible] def Reg.DFE_LANE_CRC_CNT : Nat := 0x50001c
@[reducible] def Reg.DFE_LINK_DROP_CNT : Nat := 0x500020
@[reducible] def Reg.DFE_SYSREF_SLIP_CNT : Nat := 0x500024
@[reducible] def Reg.DFE_RX_SAT_CNT : Nat := 0x500028
@[reducible] def Reg.DFE_TX_SAT_CNT : Nat := 0x50002c
@[reducible] def Reg.DFE_CFR_CNT : Nat := 0x500030
@[reducible] def Reg.DFE_CFR_THRESH : Nat := 0x500034
@[reducible] def Reg.DFE_MASK_VIOL_CNT : Nat := 0x500038
@[reducible] def Reg.DFE_TX_MUTED : Nat := 0x50003c
@[reducible] def Reg.DFE_MASK_CFG : Nat := 0x500040
@[reducible] def Reg.DFE_AGC_CFG : Nat := 0x500044
@[reducible] def Reg.DFE_AGC_HIGH : Nat := 0x500048
@[reducible] def Reg.DFE_AGC_LOW : Nat := 0x50004c
@[reducible] def Reg.DFE_AGC_FREEZE : Nat := 0x500050
@[reducible] def Reg.DFE_AGC_DELAY : Nat := 0x500054
@[reducible] def Reg.DFE_AGC_ATT_SEL : Nat := 0x500058
@[reducible] def Reg.DFE_AGC_ATT : Nat := 0x50005c
@[reducible] def Reg.DFE_CSS_DET_CNT : Nat := 0x500060
@[reducible] def Reg.DFE_UNLOCK : Nat := 0x5003f0
@[reducible] def Reg.MBXS_STATE : Nat := 0x600000

/-! Event bits of the WSEQ registers, by block and field name. -/
@[reducible] def Ev.TIME_LOCKED : Nat := 10
@[reducible] def Ev.TIME_SYNCE_LOS : Nat := 9
@[reducible] def Ev.TIME_STEPPED : Nat := 8
@[reducible] def Ev.TIME_STEP_REFUSED : Nat := 7
@[reducible] def Ev.TIME_INC_CLAMP : Nat := 6
@[reducible] def Ev.TIME_PPS_MISSING : Nat := 5
@[reducible] def Ev.TIME_OFFSET_LARGE : Nat := 4
@[reducible] def Ev.TIME_HOLDOVER : Nat := 3
@[reducible] def Ev.TIME_MASTER_CHANGE : Nat := 2
@[reducible] def Ev.TIME_GATE_MISS : Nat := 1
@[reducible] def Ev.TIME_GATE_LATE : Nat := 0
@[reducible] def Ev.FAULT_HOLE : Nat := 7
@[reducible] def Ev.FAULT_LOG_OVF : Nat := 6
@[reducible] def Ev.FAULT_SUSPECT : Nat := 5
@[reducible] def Ev.FAULT_REPLAY_DIFF : Nat := 4
@[reducible] def Ev.FAULT_TEST_FAIL : Nat := 3
@[reducible] def Ev.FAULT_NO_SPARE : Nat := 2
@[reducible] def Ev.FAULT_REMAP : Nat := 1
@[reducible] def Ev.FAULT_FENCE : Nat := 0
@[reducible] def Ev.PWR_DOMAIN_FAIL : Nat := 6
@[reducible] def Ev.PWR_AVS_FAIL : Nat := 5
@[reducible] def Ev.PWR_THERM_HOT : Nat := 4
@[reducible] def Ev.PWR_THERM_WARN : Nat := 3
@[reducible] def Ev.PWR_RAMP_OVER : Nat := 2
@[reducible] def Ev.PWR_THROTTLE : Nat := 1
@[reducible] def Ev.PWR_VRAISE : Nat := 0
@[reducible] def Ev.CATCHFW_LAUNCH_MISSED : Nat := 4
@[reducible] def Ev.CATCHFW_REMOTE_MISSING : Nat := 3
@[reducible] def Ev.CATCHFW_FENCED : Nat := 2
@[reducible] def Ev.CATCHFW_RECOVERABLE : Nat := 1
@[reducible] def Ev.CATCHFW_ADVISORY : Nat := 0
@[reducible] def Ev.HOST_SMB_PEC : Nat := 7
@[reducible] def Ev.HOST_CQ_DROP : Nat := 6
@[reducible] def Ev.HOST_RING_ERR : Nat := 5
@[reducible] def Ev.HOST_BASIN_FENCED : Nat := 4
@[reducible] def Ev.HOST_BASIN_RESET_DONE : Nat := 3
@[reducible] def Ev.HOST_WALK_DEVICE : Nat := 2
@[reducible] def Ev.HOST_WALK_FAULT : Nat := 1
@[reducible] def Ev.HOST_LINK_DOWN : Nat := 0
@[reducible] def Ev.SCHED_PREEMPT_DROP : Nat := 3
@[reducible] def Ev.SCHED_PREEMPTED : Nat := 2
@[reducible] def Ev.SCHED_BG_DENY : Nat := 1
@[reducible] def Ev.SCHED_FG_WAIT : Nat := 0
@[reducible] def Ev.DET_PTP_MASTER : Nat := 5
@[reducible] def Ev.DET_LEASE : Nat := 4
@[reducible] def Ev.DET_TRIB_REORDER : Nat := 3
@[reducible] def Ev.DET_CQ_ORDER : Nat := 2
@[reducible] def Ev.DET_WEIR_ASSIGN : Nat := 1
@[reducible] def Ev.DET_REVOKE : Nat := 0
@[reducible] def Ev.BKW_SWAPPED : Nat := 8
@[reducible] def Ev.BKW_SWAP_MISSED : Nat := 7
@[reducible] def Ev.BKW_REJECTED : Nat := 6
@[reducible] def Ev.BKW_STEP_DISCARD : Nat := 5
@[reducible] def Ev.BKW_DISAGREE : Nat := 4
@[reducible] def Ev.BKW_STEP_CUT : Nat := 3
@[reducible] def Ev.BKW_AUG_SKIP : Nat := 2
@[reducible] def Ev.BKW_CACHE_FULL : Nat := 1
@[reducible] def Ev.BKW_CAP_SKIP : Nat := 0
@[reducible] def Ev.DRAM_PAIR_EXCLUDED : Nat := 6
@[reducible] def Ev.DRAM_SCRUB_BEHIND : Nat := 5
@[reducible] def Ev.DRAM_REFRESH_X2 : Nat := 4
@[reducible] def Ev.DRAM_STARVED : Nat := 3
@[reducible] def Ev.DRAM_HOLE : Nat := 2
@[reducible] def Ev.DRAM_UNCORR : Nat := 1
@[reducible] def Ev.DRAM_CORR : Nat := 0
@[reducible] def Ev.TXP_TX_FAULT : Nat := 9
@[reducible] def Ev.TXP_SAT : Nat := 8
@[reducible] def Ev.TXP_BEAM_INVALID : Nat := 7
@[reducible] def Ev.TXP_FILL_OVERFLOW : Nat := 6
@[reducible] def Ev.TXP_FILL_ZEROED : Nat := 5
@[reducible] def Ev.TXP_RERUN : Nat := 4
@[reducible] def Ev.TXP_REMOTE_MISSING : Nat := 3
@[reducible] def Ev.TXP_SYM_LATE : Nat := 2
@[reducible] def Ev.TXP_CB_LATE : Nat := 1
@[reducible] def Ev.TXP_TB_LATE : Nat := 0
@[reducible] def Ev.COREFW_SELFTEST_FAIL : Nat := 14
@[reducible] def Ev.COREFW_STALL_TIMEOUT : Nat := 13
@[reducible] def Ev.COREFW_GATE_ABANDON : Nat := 12
@[reducible] def Ev.COREFW_SLUICE_FAULT : Nat := 11
@[reducible] def Ev.COREFW_ADDR_FAULT : Nat := 10
@[reducible] def Ev.COREFW_ILLEGAL : Nat := 9
@[reducible] def Ev.COREFW_SEQ_PARITY : Nat := 8
@[reducible] def Ev.COREFW_IM_UNCORR : Nat := 7
@[reducible] def Ev.COREFW_CHK_MISMATCH : Nat := 6
@[reducible] def Ev.COREFW_CB_PARITY : Nat := 5
@[reducible] def Ev.COREFW_EDDY_PARITY : Nat := 4
@[reducible] def Ev.COREFW_TILE_PARITY : Nat := 3
@[reducible] def Ev.COREFW_LS_UNCORR : Nat := 2
@[reducible] def Ev.COREFW_LM_UNCORR : Nat := 1
@[reducible] def Ev.COREFW_CORR : Nat := 0
@[reducible] def Ev.POOL_STARVED : Nat := 3
@[reducible] def Ev.POOL_HOLE : Nat := 2
@[reducible] def Ev.POOL_UNCORR : Nat := 1
@[reducible] def Ev.POOL_CORR : Nat := 0
@[reducible] def Ev.POOLFW_BANK_FAIL : Nat := 8
@[reducible] def Ev.POOLFW_ARB_PARITY : Nat := 3
@[reducible] def Ev.POOLFW_ROUTER_PARITY : Nat := 2
@[reducible] def Ev.POOLFW_SCRUB_UNCORR : Nat := 1
@[reducible] def Ev.POOLFW_CORR : Nat := 0
@[reducible] def Ev.RXP_MODEL_INVALID : Nat := 6
@[reducible] def Ev.RXP_LLR_OVERRUN : Nat := 5
@[reducible] def Ev.RXP_REMOTE_MISSING : Nat := 4
@[reducible] def Ev.RXP_LATE : Nat := 3
@[reducible] def Ev.RXP_CHECK_ZEROED : Nat := 2
@[reducible] def Ev.RXP_RERUN : Nat := 1
@[reducible] def Ev.RXP_FB_SKIPPED : Nat := 0
@[reducible] def Ev.WEIR_BASIN_DROP : Nat := 9
@[reducible] def Ev.WEIR_HOLE : Nat := 8
@[reducible] def Ev.WEIR_DESC_BAD : Nat := 7
@[reducible] def Ev.WEIR_PARAM_INVALID : Nat := 6
@[reducible] def Ev.WEIR_HARQ_POISON : Nat := 5
@[reducible] def Ev.WEIR_HARQ_MISMATCH : Nat := 4
@[reducible] def Ev.WEIR_DEADLINE : Nat := 3
@[reducible] def Ev.WEIR_ORPHAN : Nat := 2
@[reducible] def Ev.WEIR_LLR_LOST : Nat := 1
@[reducible] def Ev.WEIR_LLR_GAP : Nat := 0
@[reducible] def Ev.WEIRFW_ENGINE_UNCORR : Nat := 6
@[reducible] def Ev.WEIRFW_POLAR_UNCORR : Nat := 5
@[reducible] def Ev.WEIRFW_ENC_UNCORR : Nat := 3
@[reducible] def Ev.WEIRFW_PARAM_PARITY : Nat := 2
@[reducible] def Ev.WEIRFW_INBUF_UNCORR : Nat := 1
@[reducible] def Ev.WEIRFW_CORR : Nat := 0
@[reducible] def Ev.CP_FWD_DROP : Nat := 2
@[reducible] def Ev.CP_LINK_DOWN : Nat := 1
@[reducible] def Ev.CP_FEC_UNCORR : Nat := 0
@[reducible] def Ev.TRIB_LEASED : Nat := 6
@[reducible] def Ev.TRIB_ADDR_CONFLICT : Nat := 5
@[reducible] def Ev.TRIB_LEASE_LOST : Nat := 4
@[reducible] def Ev.TRIB_HOLD_DROP : Nat := 3
@[reducible] def Ev.TRIB_UNREACH : Nat := 2
@[reducible] def Ev.TRIB_MISROUTE : Nat := 1
@[reducible] def Ev.TRIB_CRC_ERR : Nat := 0
@[reducible] def Ev.FH_DUP_PRB : Nat := 6
@[reducible] def Ev.FH_MISSING : Nat := 5
@[reducible] def Ev.FH_LATE : Nat := 4
@[reducible] def Ev.FH_EARLY : Nat := 3
@[reducible] def Ev.FH_MALFORMED : Nat := 2
@[reducible] def Ev.FH_UNKNOWN : Nat := 1
@[reducible] def Ev.FH_SEQ_GAP : Nat := 0
@[reducible] def Ev.PGRPFW_PORT_FAIL : Nat := 8
@[reducible] def Ev.PGRPFW_RX_UNCORR : Nat := 2
@[reducible] def Ev.PGRPFW_FWD_UNCORR : Nat := 1
@[reducible] def Ev.PGRPFW_CORR : Nat := 0
@[reducible] def Ev.DFE_CSS_DET : Nat := 7
@[reducible] def Ev.DFE_HOLE : Nat := 6
@[reducible] def Ev.DFE_MASK_MUTE : Nat := 5
@[reducible] def Ev.DFE_TX_SAT : Nat := 4
@[reducible] def Ev.DFE_RX_SAT : Nat := 3
@[reducible] def Ev.DFE_SYSREF_SLIP : Nat := 2
@[reducible] def Ev.DFE_LINK_DOWN : Nat := 1
@[reducible] def Ev.DFE_LANE_CRC : Nat := 0

end Sys2Proof.Machine
end

