-- ==== Sys2Proof/Machine/CoreState.lean ====
section
/-! DEFINITION. The state of one physical core (04_core.md, 05_instruction_set.md, 06_number_formats.md). -/
namespace Sys2Proof.Machine

/-- The addressing mode of an a-register (05 R184). -/
inductive AMode where
  | linear
  | modular (base size : Nat)
  | bitrev (base k s : Nat)
  deriving DecidableEq, Repr

/-- Where a result lands: a g-register, an a-register (value), a writable special register (05 R166, R168). -/
inductive WDest where
  | g (n : Nat)
  | a (n : Nat)
  | dec (hi : Bool)
  | decAll
  | lmask (hi : Bool)
  deriving DecidableEq, Repr

/-- A result in flight: the cycle in which it can first be read, its destination and its value (05 R168). -/
structure InFlight where
  land : Nat
  dst : WDest
  val : Nat
  deriving DecidableEq, Repr

/-- The launch gate (05 R166, R189 to R191). -/
structure Gate where
  time : Word
  tgt : Nat
  abn : Bool
  armed : Bool
  /-- armed by Wellhead -/
  wh : Bool
  /-- armed with a time already passed, and not evaluated since (12 R476) -/
  past : Bool
  /-- evaluated late: acts on the next tick (12 R476) -/
  late : Bool
  /-- the launch has come and a stall holds the gated bundle (R153) -/
  opened : Bool
  deriving DecidableEq, Repr

/-- Why a core stands halted: by CORE.CTRL, by END, by R154, R165 or R477, by a basin reset, by a pre-emption, or since
its domain came up (05 R194, 13 R513, 14 R543). -/
inductive HaltWhy where
  | ctrl | ended | stall | illegal | missed | basinReset | preempted | reset
  deriving DecidableEq, Repr

/-- The run state of a core (CORE.STATE). -/
inductive RunState where
  | halted (why : HaltWhy)
  | running
  | waiting
  | fenced
  | unpowered
  deriving DecidableEq, Repr

/-- The state of a tile (04 R124). -/
inductive TileState where
  | free | pass | queued | eddy
  deriving DecidableEq, Repr

/-- One tile: its words by row * 64 + column, and, while its contents are undefined (04 R155), the index of the free
value that stands for the words not written since. -/
structure Tile where
  words : Tab Word
  st : TileState
  undef : Option Nat
  deriving DecidableEq, Repr

/-- An active repeat level (05 R175 to R177). -/
structure RepLevel where
  first : Nat
  last : Nat
  left : Nat
  deriving DecidableEq, Repr

/-- What the units of a core read as operands: local memory, lane stores with their recorded formats, tiles, codebook
memory with its loaded counts, and the pair of a KIND 6 operand. -/
structure Src where
  lm : Tab Byte
  ls : Tab Word
  lsFmt : Tab Nat
  lsSum : Tab (Int × Int)
  tiles : Tab Tile
  cb : Tab Byte
  n16 : Nat
  n256 : Nat
  pair : Nat
  deriving DecidableEq, Repr

/-- A pass that occupies the Lane Row: its copied descriptor and its cycles (04 R117, 05 R196). -/
structure PassRun where
  /-- 0 BCAST, 1 OUTER, 2 PRIVATE -/
  kind : Nat
  fmt : Nat
  dst : Nat
  acc : Bool
  q : Bool
  rhu : Bool
  lmask : Nat
  cols : Nat
  depth : Nat
  blk : Nat
  ref1 : Nat
  ref2 : Nat
  vaddr : Nat
  /-- the p of R131 -/
  pnum : Nat
  /-- CHK_EN, PRIV_DUP and FLOAT_TOL in force (R159) -/
  chk : Nat
  bundle : Nat
  endsAt : Nat
  /-- cycles added by R112 -/
  extra : Nat
  /-- operands as they stood when the pass issued (assumption 18) -/
  src : Src
  deriving DecidableEq, Repr

/-- A run issued to the Eddy unit: its copied descriptor; once it has started, what it computes: element registers,
flags, outputs and reductions, which take effect at its end (04 R136 to R142, 05 R202). -/
structure EddyRun where
  slot : Nat
  w0 : Nat
  w1 : Nat
  w2 : Nat
  w3 : Nat
  rhu : Bool
  started : Bool
  /-- source tile taken (queue head or named), none for local lines -/
  src : Option Nat
  er : List (List Word)
  flags : Nat
  out : List (List Word)
  red : List Word
  endsAt : Nat
  bundle : Nat
  deriving DecidableEq, Repr

/-- An element program load in progress (04 R141). -/
structure ProgLoad where
  slot : Nat
  off : Nat
  endsAt : Nat
  deriving DecidableEq, Repr

/-- Where a transfer stands that moves rows of another device: nothing pending, frames pending, all answered. -/
inductive XferWait where
  | none | frames | answered (ok : Bool)
  deriving DecidableEq, Repr

/-- An outstanding transfer of a sluice engine (04 R148 to R152, 05 R185). -/
structure Xfer where
  rows : Nat
  rowBytes : Nat
  target : Nat
  sstride : Int
  dstride : Int
  wa : Nat
  fmt : Nat
  src : Nat
  dst : Nat
  done : Nat
  /-- the basin tag of CORE.BASIN at issue: bits 2:0 basin, bit 3 valid -/
  basin : Nat
  bundle : Nat
  /-- the transfer's number in its core, modulo 65,536 -/
  num : Nat
  /-- rows on another device (11 R408, R409) -/
  remote : XferWait
  /-- rows whose frames left at issue -/
  away : List Nat
  /-- bytes of remote rows that wait for lane stores or codebook memory, by place in the transfer -/
  buf : Tab Byte
  /-- which bytes of remote rows have come: place in the transfer and length -/
  came : List (Nat × Nat)
  /-- the row whose far side no route or lease reached at issue: the transfer ends there (01 R17) -/
  stop : Option Nat
  /-- a write of codebook memory is in progress: the core cycle in which its last 64 bytes land (R113) -/
  writing : Option Nat
  /-- dropped by a basin reset or a fence: it ends in error at its next burst boundary (13 R514) -/
  dropped : Bool
  /-- activity tag (14 R535) -/
  activity : Nat
  deriving DecidableEq, Repr

/-- An element program slot: 32 instructions, its length, and whether it is valid (05 R201). -/
structure Prog where
  ins : List Word
  len : Nat
  valid : Bool
  deriving DecidableEq, Repr

/-- One physical core. -/
structure Core where
  regs : Tab Word
  g : Tab Word
  a : Tab Addr
  amode : Tab AMode
  /-- FLAGS: bit 0 SAT, 1 DZ, 2 CHK, 3 ERR, 4 ABANDON (05 R166) -/
  flags : Nat
  /-- flags that events have set in this core cycle before its bundle issues (05 R167) -/
  raised : Nat
  /-- the decision register as the slots act on it, and as MOVS reads it (R168) -/
  dec : Nat
  decVis : Nat
  lmask : Nat
  /-- core cycles since reset (CYCLE is its low 32 bits) -/
  cyc : Nat
  /-- PRIVATE passes since reset, modulo 65,536 (R131) -/
  pcount : Nat
  rank : Nat
  pc : Nat
  /-- delay slots still to issue, and where the branch goes after them -/
  delay : Nat
  target : Option Nat
  /-- active repeat levels, outermost first; l0 to l2 read their `left` -/
  reps : List RepLevel
  flight : List InFlight
  gate : Gate
  run : RunState
  /-- HALT bit of CORE.CTRL -/
  haltReq : Bool
  /-- cycles the present bundle has been stalled (R154) -/
  stall : Nat
  /-- a pre-emption request of Wellhead is pending (05 R179) -/
  preempt : Bool
  /-- the core waits at TGT since END or a re-arming, not since a gated bundle was reached (05 R193, R194) -/
  parked : Bool
  /-- the timebase tick of the core's last cycle, for the first core cycle of a tick (12 R475) -/
  tickSeen : Nat
  /-- requests of the stalled bundle that its banks have served (04 R144, R153) -/
  served : Nat
  /-- the banks that the core's own units have taken in the present cycle -/
  taken : List Nat
  /-- the bank that is busy with the second half of a partial write, and the cycle (R144) -/
  half : Option (Nat × Nat)
  /-- cycles that a request from SI, SO or outside has waited at a bank (R145) -/
  bankWait : Tab Nat
  /-- scrub in progress -/
  scrub : Bool
  im : Tab (BitVec 128)
  lm : Tab Byte
  /-- lane stores: word wa of lane i at i * 1024 + wa -/
  ls : Tab Word
  /-- recorded format per lane-store word address (R115) -/
  lsFmt : Tab Nat
  /-- the sums that checksum lanes A and B keep of an integer word's elements, by word address * 4 + element (R116) -/
  lsSum : Tab (Int × Int)
  tiles : Tab Tile
  queue : List Nat
  pass : Option PassRun
  eddy : Option EddyRun
  /-- element registers e0 to e15, each with its 64 lanes -/
  er : List (List Word)
  progs : Tab Prog
  /-- element program loads in progress, oldest first -/
  ldprog : List ProgLoad
  held : List Word
  cb : Tab Byte
  n16 : Nat
  n256 : Nat
  si : List Xfer
  so : List Xfer
  xnum : Nat
  /-- uncorrectable marks of stored words, by local-memory word (8 bytes) -/
  lmErr : List Nat
  /-- CORE.MODE in force since the last gated bundle, CORE.CHKCFG at the next pass (R159) -/
  mode : Nat
  /-- events of the command in progress, for the device's records: FAULTWORD bits, oldest first -/
  evs : List Nat
  deriving DecidableEq, Repr

/-- A tile as its domain comes up: free and zero (16 R588). -/
def Tile.reset : Tile := ⟨[], .free, none⟩

/-- A core as its domain comes up (16 R588; values the manual does not give: assumption 4). -/
def Core.reset : Core where
  regs := []
  g := []
  a := []
  amode := []
  flags := 0
  raised := 0
  dec := 0
  decVis := 0
  lmask := 0
  cyc := 0
  pcount := 0
  rank := 0xFFF
  pc := 0
  delay := 0
  target := none
  reps := []
  flight := []
  gate := ⟨0, 0, false, false, false, false, false, false⟩
  run := .unpowered
  haltReq := false
  stall := 0
  preempt := false
  parked := false
  tickSeen := 0
  served := 0
  taken := []
  half := none
  bankWait := []
  scrub := false
  im := []
  lm := []
  ls := []
  lsFmt := []
  lsSum := []
  tiles := []
  queue := []
  pass := none
  eddy := none
  er := List.replicate 16 (List.replicate 64 0)
  progs := []
  ldprog := []
  held := List.replicate 64 0
  cb := []
  n16 := 0
  n256 := 0
  si := []
  so := []
  xnum := 0
  lmErr := []
  mode := 0
  evs := []

end Sys2Proof.Machine
end

