-- ==== Sys2Proof/Machine/Num.lean ====
section
/-! DEFINITION. Exact arithmetic and its narrowings (06_number_formats.md; 05 R171, R172, R208 to R210). -/
namespace Sys2Proof.Machine

/-- An exact dyadic value m * 2^e. -/
structure Dy where
  m : Int
  e : Int
  deriving DecidableEq, Repr

namespace Dy

/-- An integer. -/
def ofInt (i : Int) : Dy := ⟨i, 0⟩

/-- The mantissa when written with the lower exponent `e`. -/
def at_ (a : Dy) (e : Int) : Int := a.m * (2 ^ (a.e - e).toNat : Nat)

/-- Exact sum and product. -/
def add (a b : Dy) : Dy :=
  let e := min a.e b.e
  ⟨a.at_ e + b.at_ e, e⟩
def mul (a b : Dy) : Dy := ⟨a.m * b.m, a.e + b.e⟩
def neg (a : Dy) : Dy := ⟨-a.m, a.e⟩

/-- Exact sum of a list. -/
def sum (l : List Dy) : Dy := l.foldl add ⟨0, 0⟩

/-- a ≤ b, exactly. -/
def le (a b : Dy) : Bool :=
  let e := min a.e b.e
  decide (a.at_ e ≤ b.at_ e)

def lt (a b : Dy) : Bool := !(b.le a)

/-- Magnitude. -/
def abs (a : Dy) : Dy := ⟨a.m.natAbs, a.e⟩

/-- Floor of log2 of the magnitude of a nonzero value. -/
def log2 (a : Dy) : Int := (Nat.log2 a.m.natAbs : Int) + a.e

end Dy

/-- An exact value narrowed to an integer: toward -∞, or to the nearest with ties to the larger (06 R234). -/
def Dy.toInt (rhu : Bool) (a : Dy) : Int :=
  if 0 ≤ a.e then a.m * (2 ^ a.e.toNat : Nat)
  else
    let d : Int := (2 ^ (-a.e).toNat : Nat)
    if rhu then (2 * a.m + d) / (2 * d) else a.m / d

/-- An integer clamped to a signed width, and whether the clamp changed it. -/
def clampS (w : Nat) (i : Int) : Int × Bool :=
  let hi : Int := (2 ^ (w - 1) : Nat)
  if i < -hi then (-hi, true) else if hi ≤ i then (hi - 1, true) else (i, false)

/-- An integer clamped to an unsigned width. -/
def clampU (w : Nat) (i : Int) : Int × Bool :=
  if i < 0 then (0, true) else if ((2 ^ w : Nat) : Int) ≤ i then (((2 ^ w : Nat) : Int) - 1, true) else (i, false)

/-- A saturated 32-bit result and SAT. -/
def sat32 (i : Int) : Word × Bool :=
  let c := clampS 32 i
  (wordOfInt c.1, c.2)

/-- The fields of a rounded float of precision `p` with bias-127 exponent: sign, magnitude, SAT (06 R234, R235). A zero
takes the sign `zneg` (IEEE 754's sign rules, PRESUMED, assumption 16). -/
def narrowFloat (p : Nat) (rhu zneg : Bool) (a : Dy) : Bool × Nat × Bool :=
  if a.m = 0 then (zneg, 0, false)
  else
    let neg := decide (a.m < 0)
    let n := a.m.natAbs
    let l := Nat.log2 n
    let sh := l + 1 - p
    let f := if p ≤ l + 1 then n / 2 ^ sh else n * 2 ^ (p - 1 - l)
    let rem := n % 2 ^ sh
    let up := rhu && decide (0 < sh) && (if neg then decide (2 ^ sh < rem * 2) else decide (2 ^ sh ≤ rem * 2))
    let f := if up then f + 1 else f
    let ex : Int := (l : Int) + a.e + (if f = 2 ^ p then 1 else 0)
    let f := if f = 2 ^ p then 2 ^ (p - 1) else f
    if 127 < ex then (neg, 254 * 2 ^ (p - 1) + (2 ^ (p - 1) - 1), true)
    else if ex < -126 then (neg, 0, false)
    else (neg, (ex + 127).toNat * 2 ^ (p - 1) + (f - 2 ^ (p - 1)), false)

/-- An FP32 word of an exact value, and SAT. -/
def fp32Of (rhu zneg : Bool) (a : Dy) : Word × Bool :=
  let r := narrowFloat 24 rhu zneg a
  (BitVec.ofNat 32 ((if r.1 then 2 ^ 31 else 0) + r.2.1), r.2.2)

/-- A BF16 value of an exact value in bits 15:0, and SAT. -/
def bf16Of (rhu zneg : Bool) (a : Dy) : Word × Bool :=
  let r := narrowFloat 8 rhu zneg a
  (BitVec.ofNat 32 ((if r.1 then 2 ^ 15 else 0) + r.2.1), r.2.2)

/-- A floating operand: a NaN, or a sign with its value, subnormals as zero and infinities as the largest finite value
(05 R208, 06 R217). -/
inductive Fp where
  | nan
  | num (neg inf : Bool) (v : Dy)
  deriving DecidableEq, Repr

/-- Reads an FP32 word. -/
def readFp (w : Word) : Fp :=
  let n := w.toNat
  let neg := bitOf n 31
  let e := bits n 30 23
  let f := bits n 22 0
  let v (m : Nat) (ex : Int) : Dy := ⟨if neg then -(m : Int) else m, ex⟩
  if e = 255 then (if f = 0 then .num neg true (v (2 ^ 24 - 1) 104) else .nan)
  else if e = 0 then .num neg false ⟨0, 0⟩
  else .num neg false (v (2 ^ 23 + f) ((e : Int) - 150))

/-- A floating operand of the Lane Row: its value and SAT, set by a NaN, which reads as +0 (06 R217). -/
def laneFp (w : Word) : Dy × Bool :=
  match readFp w with
  | .nan => (⟨0, 0⟩, true)
  | .num _ _ v => (v, false)

/-- The value of an e5m3 code (06 R218). -/
def e5m3 (c : Nat) : Dy :=
  let e := bits c 7 3
  if e = 0 then ⟨(bits c 2 0 : Nat), -17⟩ else ⟨(8 + bits c 2 0 : Nat), (e : Int) - 18⟩

/-! ## Integer edges (05 R171, R172) -/

/-- Signed value of a word. -/
def sw (w : Word) : Int := w.toInt

/-- Flags of an arithmetic operation: SAT and DZ. -/
@[reducible] def fSat : Nat := 1
@[reducible] def fDz : Nat := 2

/-- A saturating result with its flags. -/
def satRes (i : Int) : Word × Nat :=
  let r := sat32 i
  (r.1, if r.2 then fSat else 0)

/-- Signed division (R171). -/
def divS (a b : Word) : Word × Nat :=
  if b = 0 then (if sw a = 0 then 0 else if 0 < sw a then 0x7FFFFFFF else 0x80000000, fDz)
  else satRes (Int.tdiv (sw a) (sw b))

/-- Unsigned division (R171). -/
def divU (a b : Word) : Word × Nat :=
  if b = 0 then (if a = 0 then 0 else 0xFFFFFFFF, fDz) else (BitVec.ofNat 32 (a.toNat / b.toNat), 0)

/-- Remainders (R171): the sign of the dividend. -/
def remS (a b : Word) : Word × Nat :=
  if b = 0 then (a, fDz) else (wordOfInt (Int.tmod (sw a) (sw b)), 0)
def remU (a b : Word) : Word × Nat :=
  if b = 0 then (a, fDz) else (BitVec.ofNat 32 (a.toNat % b.toNat), 0)

/-- Shifts by an unsigned amount (R171). -/
def sll (a : Word) (n : Nat) : Word := if 32 ≤ n then 0 else a <<< n
def srl (a : Word) (n : Nat) : Word := if 32 ≤ n then 0 else a >>> n
def sra (a : Word) (n : Nat) : Word := wordOfInt (sw a / (2 ^ min n 32 : Nat))
def slls (a : Word) (n : Nat) : Word × Nat := satRes (sw a * (2 ^ min n 64 : Nat))

/-- NARROW: shift, rounding and clamp (R172). -/
def narrowInt (rhu unsigned : Bool) (sh width : Nat) (a : Int) : Word × Nat :=
  let v := if rhu && decide (0 < sh) then (a + (2 ^ (sh - 1) : Nat)) / (2 ^ sh : Nat) else a / (2 ^ sh : Nat)
  let c := if unsigned then clampU width v else clampS width v
  (wordOfInt c.1, if c.2 then fSat else 0)

/-- Leading zeros and set bits of a word. -/
def clz (a : Word) : Nat := if a = 0 then 32 else 31 - Nat.log2 a.toNat
def popc (a : Word) : Nat := ((List.range 32).filter (fun i => bitOf a.toNat i)).length

/-! ## Reals known by comparison (05 R210) -/

/-- The magnitude code of the FP32 truncation of a positive real y, given y ≥ d for dyadic d; `none` above the range. -/
def truncReal (ge : Dy → Bool) : Option Nat :=
  if ge ⟨1, 128⟩ then none
  else
    match (List.range 254).find? (fun (k : Nat) => ge ⟨1, 127 - (k : Int)⟩) with
    | none => some 0
    | some k =>
      let x : Int := 127 - (k : Int)
      let m := (List.range 23).foldl (fun (m i : Nat) =>
        let t : Nat := m + 2 ^ (22 - i)
        if ge ⟨(t : Int), x - 23⟩ then t else m) (2 ^ 23)
      some ((x + 127).toNat * 2 ^ 23 + (m - 2 ^ 23))

/-- The value of a magnitude code. -/
def codeVal (t : Nat) : Dy := ⟨(2 ^ 23 + t % 2 ^ 23 : Nat), (t / 2 ^ 23 : Nat) - 150⟩

/-- A code lies within 2 units in the last place of a positive real, whose truncation is `t`: the unit is that of the
real's binade (05 R210). -/
def nearReal (exact : Nat → Bool) (ge : Dy → Bool) (t c : Nat) : Bool :=
  let v := codeVal t
  let two : Dy := ⟨2, v.e⟩
  if t ≤ c then (codeVal c).le (v.add two)
  else
    let d := (codeVal c).add two
    decide (0x00800000 ≤ c) && ((v.add ⟨1, v.e⟩).le d || (d.le v && v.le d && exact t) || (v.lt d && !ge d))

/-- The word whose value a floating operand is read with (05 R208). -/
def readWord (a : Word) : Word :=
  let m := a.toNat % 2 ^ 31
  BitVec.ofNat 32 (a.toNat / 2 ^ 31 * 2 ^ 31 + (if 0x7F800000 ≤ m then 0x7F7FFFFF else if m < 0x00800000 then 0 else m))

/-- A real within 2 units in the last place of the exact one: of the words that are, the one that the fixed algorithm
gives (05 R210; assumption 17). -/
def within2 (op : Nat) (a : Word) (neg : Bool) (exact : Nat → Bool) (ge : Dy → Bool) : Word × Nat :=
  let sign := if neg then 2 ^ 31 else 0
  match truncReal ge with
  | none => (BitVec.ofNat 32 (sign + 0x7F7FFFFF), fSat)
  | some 0 => (BitVec.ofNat 32 sign, 0)
  | some t =>
    let near := [t, t + 1, t + 2, t - 1, t - 2, t - 3, t - 4].filter (nearReal exact ge t)
    let r := near.getD (Config.ulpOffset op (readWord a) % near.length) t
    if 0x7F7FFFFF < r then (BitVec.ofNat 32 (sign + 0x7F7FFFFF), fSat) else (BitVec.ofNat 32 (sign + r), 0)

/-- 1 / a for a positive value: y ≥ d is d * a ≤ 1. -/
def rcpGe (a d : Dy) : Bool := (d.mul a).le ⟨1, 0⟩

/-- 1 / √a: y ≥ d is d² * a ≤ 1. -/
def rsqrtGe (a d : Dy) : Bool := ((d.mul d).mul a).le ⟨1, 0⟩

/-- Bits kept of a fixed-point intermediate of EXP2 and LOG2. -/
@[reducible] def realBits : Nat := 256

/-- The integer square root of `n`, for a root below 2^k. -/
def isqrt (k n : Nat) : Nat :=
  (List.range k).foldl (fun r i => let t := r + 2 ^ (k - 1 - i); if t * t ≤ n then t else r) 0

/-- 2^(1/2), 2^(1/4), … in units of 2^-256, `n` of them. -/
def twoRoots : Nat → Nat → List Nat
  | _, 0 => []
  | r, n + 1 =>
    let x := isqrt (realBits + 1) (r * 2 ^ realBits)
    x :: twoRoots x n

/-- The roots that EXP2 multiplies. -/
def expRoots : List Nat := twoRoots (2 ^ (realBits + 1)) 84

/-- 2^a, exact for an integer, otherwise to 2^-200 of itself; far outside the FP32 range the exponent stops at 1,000. -/
def exp2Dy (a : Dy) : Dy :=
  let n := max (-1000) (min 1000 (a.toInt false))
  if 0 ≤ a.e then ⟨1, n⟩
  else
    let k := (-a.e).toNat
    if 84 < k then (if 0 < a.m then ⟨2 ^ 60 + 1, -60⟩ else if a.m < 0 then ⟨2 ^ 60 - 1, -60⟩ else ⟨1, 0⟩)
    else
      let f := (a.m % (2 ^ k : Nat)).toNat
      let y := ((List.range k).zip expRoots).foldl (fun (y : Nat) (ir : Nat × Nat) =>
        if bitOf f (k - 1 - ir.1) then y * ir.2 / 2 ^ realBits else y) (2 ^ realBits)
      ⟨y, n - realBits⟩

/-- The first `n` fraction bits of log2 of z * 2^-256, for z from 2^256 to 2^257 - 1. -/
def logBits : Nat → Nat → Nat → Nat
  | 0, _, acc => acc
  | n + 1, z, acc =>
    let y := z * z / 2 ^ realBits
    if 2 ^ (realBits + 1) ≤ y then logBits n (y / 2) (acc * 2 + 1) else logBits n y (acc * 2)

/-- log2 of a positive value to 110 fraction bits, exact for a power of two. -/
def log2Dy (a : Dy) : Dy :=
  let l := Nat.log2 a.m.natAbs
  let z := if l ≤ realBits then a.m.natAbs * 2 ^ (realBits - l) else a.m.natAbs / 2 ^ (l - realBits)
  ⟨((l : Int) + a.e) * (2 ^ 110 : Nat) + (logBits 110 z 0 : Int), -110⟩

end Sys2Proof.Machine
end

