-- ==== Sys2Proof/Machine/Elem.lean ====
section
/-! DEFINITION. Element instructions of the Eddy unit: encoding, validity, and what each does in every lane
(05_instruction_set.md R201, R203 to R210, R676, R677; 04_core.md R136, R138). -/
namespace Sys2Proof.Machine

/-- A decoded element instruction (05, table "Element instruction layout"). -/
structure EIns where
  op : Nat
  d : Nat
  a : Nat
  b : Nat
  c : Nat
  bsel : Nat
  type : Nat
  r : Bool
  o : Bool
  fn : Nat
  imm : Nat
  deriving DecidableEq, Repr

/-- The fields of an element instruction word. -/
def einsOf (w : Word) : EIns :=
  let n := w.toNat
  ⟨bits n 31 26, bits n 25 22, bits n 21 18, bits n 17 14, bits n 13 10, bits n 9 8, bits n 7 6, bitOf n 5, bitOf n 4,
    bits n 3 0, bits n 17 10⟩

@[reducible] def tInt : Nat := 0
@[reducible] def tFp : Nat := 1
@[reducible] def tCq : Nat := 2

/-- The types an operation takes, whether it reads C, and its largest FN (R204). END is not among them. -/
def elemRow (op : Nat) : Option (List Nat × Bool × Nat) :=
  if op = 0 then some ([0, 1, 2], false, 0)
  else if op ≤ 3 then some ([0, 1, 2], false, 0)
  else if op = 4 then some ([0, 1], true, 0)
  else if op ≤ 9 then some ([0, 1], false, 0)
  else if op ≤ 0x0F then some ([0], false, 0)
  else if op ≤ 0x11 then some ([0, 1], false, 0)
  else if op = 0x12 then some ([0, 1], true, 0)
  else if op = 0x13 then some ([0, 1], false, 3)
  else if op = 0x14 then some ([0], true, 0)
  else if op = 0x15 then some ([0, 1], false, 0)
  else if 0x18 ≤ op ∧ op ≤ 0x1B then some ([1], false, 0)
  else if op = 0x1D then some ([2], true, 0)
  else if 0x1C ≤ op ∧ op ≤ 0x1F then some ([2], false, 0)
  else if 0x20 ≤ op ∧ op ≤ 0x22 then some ([0, 1], false, 0)
  else if op = 0x24 then some ([0, 1, 2], false, 2)
  else if op = 0x28 then some ([0], false, 0)
  else none

/-- The instruction is valid (R203, R204). -/
def EIns.valid (i : EIns) : Bool :=
  match elemRow i.op with
  | none => false
  | some (types, readsC, maxFn) =>
    types.contains i.type && decide (i.fn ≤ maxFn) && !(i.bsel == 3 && (readsC || i.type == tCq))

/-- The instructions before the first END of a program's words, and whether the program is valid (R201). -/
def progOf (ws : List Word) : List EIns × Bool :=
  let body := ws.takeWhile (fun w => bits w.toNat 31 26 != 0x3F)
  let tail := ws.drop body.length
  (body.map einsOf, (body.all fun w => (einsOf w).valid) && (match tail with
    | [] => true
    | w :: _ => w.toNat % 2 ^ 26 == 0))

/-! ## INT32 (R171, R172, R204, R205) -/

/-- One lane of an INT32 operation: result and flags. -/
def elemInt (op fn : Nat) (rhu : Bool) (a b c : Word) : Word × Nat :=
  match op with
  | 0x01 => satRes (sw a + sw b)
  | 0x02 => satRes (sw a - sw b)
  | 0x03 => satRes (sw a * sw b)
  | 0x04 => satRes (sw a * sw b + sw c)
  | 0x05 => divS a b
  | 0x06 => (if sw a ≤ sw b then a else b, 0)
  | 0x07 => (if sw b ≤ sw a then a else b, 0)
  | 0x08 => satRes (sw a).natAbs
  | 0x09 => satRes (-sw a)
  | 0x0A => (a &&& b, 0)
  | 0x0B => (a ||| b, 0)
  | 0x0C => (a ^^^ b, 0)
  | 0x0D => slls a b.toNat
  | 0x0E => (sra a b.toNat, 0)
  | 0x0F => (srl a b.toNat, 0)
  | 0x10 => (if sw a < sw b then 1 else 0, 0)
  | 0x11 => (if a = b then 1 else 0, 0)
  | 0x12 => (if c = 0 then b else a, 0)
  | 0x13 =>
    match fn with
    | 1 => let r := fp32Of rhu false (Dy.ofInt (sw a)); (r.1, if r.2 then fSat else 0)
    | 2 => let r := bf16Of rhu false (Dy.ofInt (sw a)); (r.1, if r.2 then fSat else 0)
    | 3 => let r := clampS 16 (sw a); (wordOfInt r.1, if r.2 then fSat else 0)
    | _ => (a, 0)
  | 0x14 => narrowInt rhu false (min b.toNat 63) (c.toNat % 32 + 1) (sw a)
  | 0x15 => satRes (min (max (sw a) (-sw b)) (sw b))
  | 0x28 => (wordOfInt (max (-32) (min 31 (sw a))), 0)
  | _ => (a, 0)

/-! ## FP32 (R208 to R210, R237, R677) -/

/-- The NaN result. -/
@[reducible] def nan32 : Word := 0x7FC00000

/-- A narrowed FP32 result with its flags; `zneg` is the sign of an exact zero. -/
def fpOut (rhu zneg : Bool) (v : Dy) : Word × Nat :=
  let r := fp32Of rhu zneg v
  (r.1, if r.2 then fSat else 0)

/-- The quotient of two nonzero values, exact to beyond the narrowing, with a sticky last bit. -/
def dyDiv (a b : Dy) : Dy :=
  let k := 64 + Nat.log2 b.m.natAbs
  let n := a.m.natAbs * 2 ^ k
  let q := n / b.m.natAbs
  let m : Nat := 2 * q + (if n % b.m.natAbs = 0 then 0 else 1)
  ⟨if decide (a.m < 0) == decide (b.m < 0) then (m : Int) else -(m : Int), a.e - b.e - k - 1⟩

/-- A value that is a power of two. -/
def Dy.isPow2 (a : Dy) : Bool := decide (0 < a.m) && a.m.natAbs == 2 ^ Nat.log2 a.m.natAbs

/-- RCP, RSQRT, EXP2 and LOG2 of a number (R209, R210). -/
def elemReal (op : Nat) (a : Word) (neg : Bool) (v : Dy) : Word × Nat :=
  match op with
  | 0x18 =>
    if v.m = 0 then (0x7F7FFFFF, fDz)
    else within2 op a neg (fun t => (rcpGe v.abs (codeVal t)) && (⟨1, 0⟩ : Dy).le ((codeVal t).mul v.abs)) (rcpGe v.abs)
  | 0x19 =>
    if v.m = 0 then (0x7F7FFFFF, fDz)
    else if v.m < 0 then (nan32, 0)
    else within2 op a false
      (fun t => (rsqrtGe v (codeVal t)) && (⟨1, 0⟩ : Dy).le (((codeVal t).mul (codeVal t)).mul v)) (rsqrtGe v)
  | 0x1A =>
    let y := exp2Dy v
    within2 op a false (fun _ => v.le (Dy.ofInt (v.toInt false))) (fun d => d.le y)
  | _ =>
    if v.m = 0 then (0xFF7FFFFF, fDz)
    else if v.m < 0 then (nan32, 0)
    else if v.le ⟨1, 0⟩ && (⟨1, 0⟩ : Dy).le v then (0, 0)
    else
      let y := log2Dy v
      within2 op a (v.lt ⟨1, 0⟩) (fun _ => v.isPow2) (fun d => d.le y.abs)

/-- CVT of an FP32 operand (R236, R237). -/
def cvtFp (fn : Nat) (rhu : Bool) (a : Word) : Word × Nat :=
  match fn, readFp a with
  | 1, _ => (a, 0)
  | 2, .nan => (0x7FC0, 0)
  | 2, .num neg true _ => (if neg then 0xFF7F else 0x7F7F, fSat)
  | 2, .num neg false v => let r := bf16Of rhu neg v; (r.1, if r.2 then fSat else 0)
  | _, .nan => (0, fSat)
  | _, .num _ _ v =>
    let r := clampS (if fn = 3 then 16 else 32) (v.toInt rhu)
    (wordOfInt r.1, if r.2 then fSat else 0)

/-- One lane of an FP32 operation: result and flags. -/
def elemFp (op fn : Nat) (rhu : Bool) (a b c : Word) : Word × Nat :=
  let one (t : Bool) : Word × Nat := (if t then 0x3F800000 else 0, 0)
  match op, readFp a, readFp b with
  | 0x13, _, _ => cvtFp fn rhu a
  | 0x10, .num _ _ x, .num _ _ y => one (x.lt y)
  | 0x10, _, _ => one false
  | 0x11, .num _ _ x, .num _ _ y => one (x.le y && y.le x)
  | 0x11, _, _ => one false
  | 0x12, x, y =>
    let z := match readFp c with
      | .nan => false
      | .num _ _ v => decide (v.m = 0)
    match (if z then y else x) with
    | .nan => (nan32, 0)
    | .num n _ v => fpOut rhu n v
  | _, .nan, _ => (nan32, 0)
  | 0x08, .num _ _ x, _ => fpOut rhu false x.abs
  | 0x09, .num n _ x, _ => fpOut rhu (!n) x.neg
  | 0x18, .num n _ x, _ => elemReal 0x18 a n x
  | 0x19, .num n _ x, _ => elemReal 0x19 a n x
  | 0x1A, .num n _ x, _ => elemReal 0x1A a n x
  | 0x1B, .num n _ x, _ => elemReal 0x1B a n x
  | _, _, .nan => (nan32, 0)
  | 0x01, .num n _ x, .num m _ y => fpOut rhu (n && m) (x.add y)
  | 0x02, .num n _ x, .num m _ y => fpOut rhu (n && !m) (x.add y.neg)
  | 0x03, .num n _ x, .num m _ y => fpOut rhu (n != m) (x.mul y)
  | 0x04, .num n _ x, .num m _ y =>
    match readFp c with
    | .nan => (nan32, 0)
    | .num k _ z => fpOut rhu ((n != m) && k) ((x.mul y).add z)
  | 0x05, .num n _ x, .num m _ y =>
    if y.m = 0 then (if x.m = 0 then 0 else if x.m < 0 then 0xFF7FFFFF else 0x7F7FFFFF, fDz)
    else if x.m = 0 then fpOut rhu (n != m) ⟨0, 0⟩
    else fpOut rhu (n != m) (dyDiv x y)
  | 0x06, .num n _ x, .num m _ y => if x.le y then fpOut rhu n x else fpOut rhu m y
  | 0x07, .num n _ x, .num m _ y => if y.le x then fpOut rhu n x else fpOut rhu m y
  | 0x15, .num n _ x, .num m _ y =>
    let t : Bool × Dy := if y.neg.le x then (n, x) else (!m, y.neg)
    if t.2.le y then fpOut rhu t.1 t.2 else fpOut rhu m y
  | _, _, _ => (a, 0)

/-! ## CQ16 (R205, R213, R214) -/

/-- The halves of a CQ16 word. -/
def cqRe (w : Word) : Int := sext 16 w.toNat
def cqIm (w : Word) : Int := sext 16 (w.toNat / 65536)

/-- A half in units of 2^-30 narrowed by 15 bits. -/
def cqHalf (rhu : Bool) (v : Int) : Nat × Bool :=
  let r := clampS 16 (if rhu then (v + 16384) / 32768 else v / 32768)
  (wrapN 16 r.1, r.2)

/-- A CQ16 word of two halves in units of 2^-30. -/
def cqOut (rhu : Bool) (re im : Int) : Word × Nat :=
  let r := cqHalf rhu re
  let i := cqHalf rhu im
  (BitVec.ofNat 32 (i.1 * 65536 + r.1), if r.2 || i.2 then fSat else 0)

/-- One lane of a CQ16 operation. -/
def elemCq (op : Nat) (rhu : Bool) (a b c : Word) : Word × Nat :=
  let re := cqRe a * cqRe b - cqIm a * cqIm b
  let im := cqRe a * cqIm b + cqIm a * cqRe b
  match op with
  | 0x01 => cqOut rhu ((cqRe a + cqRe b) * 32768) ((cqIm a + cqIm b) * 32768)
  | 0x02 => cqOut rhu ((cqRe a - cqRe b) * 32768) ((cqIm a - cqIm b) * 32768)
  | 0x03 => cqOut rhu re im
  | 0x1C => cqOut rhu re im
  | 0x1D => cqOut rhu (re + cqRe c * 32768) (im + cqIm c * 32768)
  | 0x1E => satRes (cqRe a * cqRe a + cqIm a * cqIm a)
  | 0x1F => cqOut rhu (cqRe a * 32768) (-cqIm a * 32768)
  | _ => (a, 0)

/-- One lane of an operation. -/
def elemLane (type op fn : Nat) (rhu : Bool) (a b c : Word) : Word × Nat :=
  if type = tInt then elemInt op fn rhu a b c else if type = tFp then elemFp op fn rhu a b c else elemCq op rhu a b c

/-! ## All lanes -/

/-- One level of a reduction: neighbouring pairs. -/
def pairUp (f : Word → Word → Word × Nat) : List Word → List Word × Nat
  | a :: b :: t =>
    let r := f a b
    let q := pairUp f t
    (r.1 :: q.1, r.2 ||| q.2)
  | l => (l, 0)

/-- Levels of a reduction (R138). -/
def reduceLevels (f : Word → Word → Word × Nat) : Nat → List Word → Word × Nat
  | 0, l => (l.headD 0, 0)
  | n + 1, l =>
    let p := pairUp f l
    let r := reduceLevels f n p.1
    (r.1, p.2 ||| r.2)

/-- A cross-lane reduction: 0 sum, 1 maximum, 2 minimum (R138). -/
def reduceLanes (kind type : Nat) (rhu : Bool) (l : List Word) : Word × Nat :=
  if kind = 0 ∧ type = tInt then satRes (l.foldl (fun s w => s + sw w) 0)
  else reduceLevels (fun a b => elemLane type (if kind = 0 then 1 else if kind = 1 then 7 else 6) 0 rhu a b 0) 6 l

/-- The source lane of XLANE (R676). -/
def xlaneSrc (fn i : Nat) (b : Int) : Nat :=
  match fn with
  | 0 => (List.range 6).foldl (fun r k => r * 2 + i / 2 ^ k % 2) 0
  | 1 => if 0 ≤ b ∧ b ≤ 5 then i ^^^ 2 ^ b.toNat else i
  | _ => wrapN 6 (i + b)

/-- The second operand of every lane: register, BROW, BCOL or immediate (R137, R203). -/
def EIns.second (i : EIns) (e : List (List Word)) (brow : List Word) (bcol : Word) : List Word :=
  match i.bsel with
  | 0 => e.getD i.b []
  | 1 => brow
  | 2 => List.replicate 64 bcol
  | _ =>
    let v : Word := if i.type = tFp ∧ i.op ≠ 0x24 then (fp32Of false false (e5m3 i.imm)).1 else wordOfInt (sext 8 i.imm)
    List.replicate 64 v

/-- Flags of a list of results. -/
def orFlags (l : List (Word × Nat)) : Nat := l.foldl (fun f r => f ||| r.2) 0

/-- Runs one instruction in every lane on the element registers `e` (register by register, lanes in order): the
registers after, its flags, and the result of a reduction. -/
def EIns.run (i : EIns) (rhu : Bool) (e : List (List Word)) (brow : List Word) (bcol : Word) :
    List (List Word) × Nat × Option Word :=
  let h := rhu || i.r
  let a := e.getD i.a []
  let b := i.second e brow bcol
  if i.op = 0 then (e, 0, none)
  else if 0x20 ≤ i.op ∧ i.op ≤ 0x22 then
    let r := reduceLanes (i.op - 0x20) i.type h a
    (e.set i.d (List.replicate 64 r.1), r.2, some r.1)
  else if i.op = 0x24 then
    (e.set i.d ((List.range 64).map fun k => a.getD (xlaneSrc i.fn k (sw (b.getD k 0))) 0), 0, none)
  else
    let c := e.getD i.c []
    let rs := (List.range 64).map fun k => elemLane i.type i.op i.fn h (a.getD k 0) (b.getD k 0) (c.getD k 0)
    (e.set i.d (rs.map (·.1)), orFlags rs, none)

/-- What a program leaves for one vector: registers, flags, last reduction (zero where none ran), and output: the value
of the last instruction that carries O, or e0 at the end (R139, R207). -/
structure VecOut where
  e : List (List Word)
  flags : Nat
  red : Word
  out : Option (List Word)
  deriving DecidableEq, Repr

/-- Runs the instructions in order. -/
def runIns (rhu : Bool) (brow : List Word) (bcol : Word) : List EIns → VecOut → VecOut
  | [], v => v
  | i :: t, v =>
    let r := i.run rhu v.e brow bcol
    runIns rhu brow bcol t
      { e := r.1, flags := v.flags ||| r.2.1, red := r.2.2.getD v.red, out := if i.o then some (r.1.getD i.d []) else v.out }

/-- Runs a program on vectors in ascending order (R136): registers after, flags, outputs and reductions. -/
def runVecs (rhu : Bool) (prog : List EIns) (brow : List Word) :
    List (List Word × Word) → List (List Word) → List (List Word) × Nat × List (List Word) × List Word
  | [], e => (e, 0, [], [])
  | (v, bcol) :: t, e =>
    let o := runIns rhu brow bcol prog ⟨e.set 0 v, 0, 0, none⟩
    let r := runVecs rhu prog brow t o.e
    (r.1, o.flags ||| r.2.1, o.out.getD (o.e.getD 0 []) :: r.2.2.1, o.red :: r.2.2.2)

/-- The output instruction of a program (R207). -/
def outIns (prog : List EIns) : Option EIns := (prog.filter (·.o)).getLast?

/-- The output of the program is packed LLR6 (R206). -/
def packsLlr (prog : List EIns) : Bool :=
  match outIns prog with
  | some i => i.op == 0x28
  | none => false

/-- One 96-bit group of 16 lanes (R206). -/
def packGroup (l : List Word) : List Byte :=
  leBytes 12 (l.foldr (fun w n => n * 64 + wrapN 6 (max (-32) (min 31 (sw w)))) 0)

/-- The 48 bytes of a packed vector (R206). -/
def packVec (l : List Word) : List Byte := (List.range 4).flatMap fun g => packGroup ((l.drop (16 * g)).take 16)

/-- Core cycles of a run: 16 + n * max(⌈w/2⌉, 4) for each wave of 8 vectors (R140). -/
def runCycles (n v : Nat) : Nat :=
  16 + v / 8 * (n * 4) + (if v % 8 = 0 then 0 else n * max ((v % 8 + 1) / 2) 4)

end Sys2Proof.Machine
end

