-- ==== Sys2Proof/Machine/LaneRow.lean ====
section
/-! DEFINITION. The Lane Row: formats and block headers, operand references, what a pass computes, and the checksum
lanes (04_core.md R116 to R133; 05_instruction_set.md R195 to R199; 06_number_formats.md R211 to R232, R675). -/
namespace Sys2Proof.Machine

/-! ## Formats and layouts -/

@[reducible] def fmtCq : Nat := 6

/-- Element width of a FMT code (R211). -/
def fmtWidth (fmt : Nat) : Nat := [4, 8, 8, 8, 16, 16, 32, 32, 32].getD fmt 32

/-- MACs per lane per cycle (04 R120). -/
def fmtMacs (fmt : Nat) : Nat := [16, 8, 8, 8, 4, 2, 1, 1].getD fmt 1

/-- Floating accumulators (04 R120). -/
def fmtFloat (fmt : Nat) : Bool := !(fmt == 3 || fmt == 5 || fmt == fmtCq)

/-- The block size in elements, where the operand carries headers (R219, R220). -/
def blockOf (fmt blk : Nat) : Option Nat := if fmt ≤ 2 ∧ blk ≤ 2 then some (32 * 2 ^ blk) else none

/-- Words of an operand of `n` elements (R221, R224). -/
def wordsFor (fmt blk n : Nat) : Nat :=
  let w := fmtWidth fmt
  match blockOf fmt blk with
  | none => (n * w + 31) / 32
  | some b =>
    let p := b * w / 32
    let nb := (n + b - 1) / b
    nb / 2 * (2 * p + 1) + (if nb % 2 = 1 then p + 1 else 0)

/-- The word of element `k` (R197, R222). -/
def wordOf (fmt blk k : Nat) : Nat :=
  let w := fmtWidth fmt
  match blockOf fmt blk with
  | none => k * w / 32
  | some b => k / (2 * b) * (2 * (b * w / 32) + 1) + 1 + k % (2 * b) * w / 32

/-- The header of element `k`: its word and which half. -/
def headOf (fmt blk k : Nat) : Option (Nat × Nat) :=
  (blockOf fmt blk).map fun b => (k / (2 * b) * (2 * (b * fmtWidth fmt / 32) + 1), k / b % 2)

/-! ## Stores -/

/-- A tile word; what an undefined tile holds is a free value (04 R155). -/
def Tile.word (t : Tile) (r c : Nat) : Word :=
  tget (fun k => match t.undef with
    | some i => Config.freeWord i k
    | none => 0) t.words (r * 64 + c)

/-- Writes a tile word. -/
def Tile.put (r c : Nat) (v : Word) (t : Tile) : Tile := { t with words := tset t.words (r * 64 + c) v }

/-- A tile of a core. -/
def Core.tile (c : Core) (t : Nat) : Tile := tget (fun _ => Tile.reset) c.tiles t

/-- Replaces a tile. -/
def Core.setTile (t : Nat) (x : Tile) (c : Core) : Core := { c with tiles := tset c.tiles t x }

/-- Puts a tile into a state. -/
def Core.markTile (t : Nat) (st : TileState) (c : Core) : Core := c.setTile t { c.tile t with st := st }

/-- A tile is FREE. -/
def Core.tileFree (c : Core) (t : Nat) : Bool := (c.tile t).st == .free

/-- A lane-store word. -/
def lsWord (ls : Tab Word) (lane wa : Nat) : Word := tget (fun _ => 0) ls (lane * 1024 + wa)

/-- The recorded format of a lane-store word address; one never written reads as INT32 (assumption 4). -/
def lsFormat (t : Tab Nat) (wa : Nat) : Nat := tget (fun _ => 8) t wa

/-- An aligned word of local memory by its word number. -/
def lmWord (lm : Tab Byte) (i : Nat) : Word := BitVec.ofNat 32 (leNat (readBytes lm (i * 4) 4))

namespace Src

/-- A tile word. -/
def tileWord (s : Src) (t r c : Nat) : Word := (tget (fun _ => Tile.reset) s.tiles t).word r c

/-- An entry of codebook memory by its byte offset, as an FP32 word (R216, R226). -/
def cbEntry (s : Src) (off : Nat) : Word := BitVec.ofNat 32 (leNat (readBytes s.cb off 2) * 65536)

end Src

/-- The operands that a core's units would read now. -/
def Core.src (c : Core) (pair : Nat) : Src := ⟨c.lm, c.ls, c.lsFmt, c.lsSum, c.tiles, c.cb, c.n16, c.n256, pair⟩

/-! ## Elements -/

/-- A decoded element: its value, complex for CQ16 (halves as integers), and SAT (R217, R231). -/
structure El where
  re : Dy
  im : Dy
  sat : Bool
  deriving DecidableEq, Repr

/-- A real element. -/
def El.ofDy (v : Dy) (sat : Bool) : El := ⟨v, ⟨0, 0⟩, sat⟩

/-- Decodes raw bits under a format and block header (R225, R231). -/
def decodeEl (s : Src) (fmt raw : Nat) (head : Option Nat) : El :=
  match fmt with
  | 0 =>
    let sel := bits (head.getD 0) 7 0
    let v := laneFp (s.cbEntry ((if s.n16 = 0 then 0 else sel % s.n16) * 0x20 + raw * 2))
    .ofDy (v.1.mul (e5m3 (bits (head.getD 0x7800) 15 8))) v.2
  | 1 =>
    let sel := bits (head.getD 0) 7 0
    let v := laneFp (s.cbEntry (0x800 + (if s.n256 = 0 then 0 else sel % s.n256) * 0x200 + raw * 2))
    .ofDy (v.1.mul (e5m3 (bits (head.getD 0x7800) 15 8))) v.2
  | 2 => .ofDy ⟨sext 8 raw, sext 8 (bits (head.getD 0) 15 8)⟩ false
  | 3 => .ofDy (Dy.ofInt (sext 8 raw)) false
  | 4 => let v := laneFp (BitVec.ofNat 32 (raw * 65536)); .ofDy v.1 v.2
  | 5 => .ofDy (Dy.ofInt (sext 16 raw)) false
  | 6 => ⟨Dy.ofInt (sext 16 raw), Dy.ofInt (sext 16 (raw / 65536)), false⟩
  | _ => let v := laneFp (BitVec.ofNat 32 raw); .ofDy v.1 v.2

/-- Element `k` of an operand laid out on the words of `word` (R212, R222). -/
def elemAt (s : Src) (fmt blk : Nat) (word : Nat → Word) (k : Nat) : El :=
  let w := fmtWidth fmt
  let raw := (word (wordOf fmt blk k)).toNat / 2 ^ (k % (32 / w) * w) % 2 ^ w
  decodeEl s fmt raw ((headOf fmt blk k).map fun h => (word h.1).toNat / 2 ^ (16 * h.2) % 65536)

/-- An operand reference (05, table "Operand reference"). -/
structure Ref where
  kind : Nat
  tile : Nat
  index : Nat
  addr : Nat
  high : Nat
  deriving DecidableEq, Repr

/-- The fields of a reference. -/
def refOf (v : Nat) : Ref := ⟨bits v 3 0, bits v 5 4, bits v 11 6, bits v 22 12, bits v 31 23⟩

/-- A reference is of a kind allowed in its place, and its fields are in range (05 R165, R197). -/
def Ref.ok (r : Ref) (kinds : List Nat) : Bool :=
  r.high == 0 && kinds.contains r.kind
    && (!(r.kind == 0 || r.kind == 4 || r.kind == 5) || decide (r.addr ≤ 1023))
    && (r.kind != 3 || decide (r.addr ≤ 1535)) && (r.kind != 6 || decide (r.index ≤ 15))

/-- The words a lane receives on the distributed channel from a reference of kind 1 to 4 (R197). -/
def distWord (s : Src) (r : Ref) (lane j : Nat) : Word :=
  match r.kind with
  | 1 => s.tileWord r.tile (r.index + j) lane
  | 2 => s.tileWord r.tile lane (r.index + j)
  | 3 => lmWord s.lm ((r.addr + j) * 64 + lane)
  | _ => lsWord s.ls lane (r.addr + j)

/-- x of `lane` in step `st` of an OUTER pass (R197, R675). -/
def distEl (s : Src) (fmt blk : Nat) (r : Ref) (lane st : Nat) : El :=
  if r.kind = 5 then elemAt s fmt blk (fun j => lsWord s.ls (r.index + st) (r.addr + j)) lane
  else elemAt s fmt blk (distWord s r lane) st

/-- Element `k` of vector `v` on the broadcast channel; each vector has `n` elements (R197, R223, R675). -/
def bcastEl (s : Src) (fmt blk : Nat) (r : Ref) (n v k : Nat) : El :=
  match r.kind with
  | 1 => elemAt s fmt blk (fun j => s.tileWord r.tile (r.index + v) j) k
  | 2 => elemAt s fmt blk (fun j => s.tileWord r.tile j (r.index + v)) k
  | 3 => elemAt s fmt blk (fun j => lmWord s.lm (r.addr * 64 + v * wordsFor fmt blk n + j)) k
  | _ =>
    let w := fmtWidth fmt
    decodeEl s fmt (s.pair / 2 ^ (k % fmtMacs fmt * w) % 2 ^ w) none

/-- Element `k` of a lane's own vector at a word address. -/
def laneEl (s : Src) (fmt blk lane wa k : Nat) : El := elemAt s fmt blk (fun j => lsWord s.ls lane (wa + j)) k

/-! ## What a pass computes -/

/-- The half `h` of a product: the real product, or the real and imaginary parts of a CQ16 product (R214). -/
def prodHalf (cq : Bool) (h : Nat) (a b : El) : Dy :=
  if !cq then a.re.mul b.re
  else if h = 0 then (a.re.mul b.re).add (a.im.mul b.im).neg
  else (a.re.mul b.im).add (a.im.mul b.re)

namespace PassRun

/-- Tile columns of the pass (R118, R122). -/
def width (p : PassRun) : Nat := if p.fmt = fmtCq then p.cols * 2 else p.cols

/-- The lanes that run (R119). -/
def lanes (p : PassRun) : List Nat := if p.kind = 2 then (List.range 64).filter (bitOf p.lmask) else List.range 64

/-- Elements of one cycle for a row and column: pairs of lane-side and other operand. -/
def pairAt (p : PassRun) (lane col k : Nat) : El × El :=
  let r1 := refOf p.ref1
  let r2 := refOf p.ref2
  match p.kind with
  | 0 => (laneEl p.src p.fmt p.blk lane r1.addr k, bcastEl p.src p.fmt p.blk r2 p.depth col k)
  | 1 => (distEl p.src p.fmt p.blk r1 lane k, bcastEl p.src p.fmt p.blk r2 p.cols k col)
  | _ => (laneEl p.src p.fmt p.blk lane (r1.addr + col * wordsFor p.fmt p.blk p.depth) k, laneEl p.src p.fmt p.blk lane p.vaddr k)

/-- The reduction steps of each cycle: m consecutive elements, or one step of an OUTER pass (04, table "Pass kinds"). -/
def cycles (p : PassRun) : List (List Nat) :=
  let m := if p.kind = 1 then 1 else fmtMacs p.fmt
  (List.range ((p.depth + m - 1) / m)).map fun i => (List.range (min m (p.depth - i * m))).map (i * m + ·)

/-- One narrowing into an accumulator word (R121, R122). -/
def accStep (p : PassRun) (acc : Word × Bool) (sum : Dy) : Word × Bool :=
  if fmtFloat p.fmt then
    let a := laneFp acc.1
    let r := fp32Of p.rhu false (a.1.add sum)
    (r.1, acc.2 || a.2 || r.2)
  else
    let r := sat32 (sw acc.1 + sum.toInt false)
    (r.1, acc.2 || r.2)

/-- The word of `lane` in tile column `t`, and SAT; `start` is the tile's present word (R118, R121, R217). -/
def word (p : PassRun) (start : Word) (lane t : Nat) : Word × Bool :=
  let cq := p.fmt == fmtCq
  let col := if cq then t / 2 else t
  let s0 : Word × Bool := if p.acc then (start, fmtFloat p.fmt && (laneFp start).2) else (0, false)
  p.cycles.foldl (fun acc ks =>
    let prs := ks.map (p.pairAt lane col)
    let sum := Dy.sum (prs.map fun e => prodHalf cq (t % 2) e.1 e.2)
    p.accStep (acc.1, acc.2 || prs.any fun e => e.1.sat || e.2.sat) sum) s0

/-- The rows a pass computes: lane, and its words with SAT. -/
def rows (p : PassRun) (tile : Tile) : List (Nat × List (Word × Bool)) :=
  p.lanes.map fun i => (i, (List.range p.width).map fun t => p.word (tile.word i t) i t)

/-- Compute cycles c (04, table "Pass kinds"). -/
def computeCycles (p : PassRun) : Nat :=
  let m := fmtMacs p.fmt
  if p.kind = 1 then p.depth * ((p.cols + m - 1) / m) else p.cols * ((p.depth + m - 1) / m)

/-- The extra cycles of R112: one for each distributed beat drawn from the broadcast channel's source. DESIGN CHOICE
(assumption 50): the words of block headers, and the padding words of the last block, are beats like every other word of the
operand. -/
def clashBeats (p : PassRun) : Nat :=
  let a := refOf p.ref1
  let b := refOf p.ref2
  let same := a.kind == 3 && b.kind == 3 || (a.kind == 1 || a.kind == 2) && (b.kind == 1 || b.kind == 2) && a.tile == b.tile
  if p.kind = 1 ∧ same = true then wordsFor p.fmt p.blk p.depth else 0

/-- The pass's stepping stays in its stores (05 R165, R197). -/
def fits (p : PassRun) : Bool :=
  let a := refOf p.ref1
  let b := refOf p.ref2
  let wd := wordsFor p.fmt p.blk p.depth
  let wc := wordsFor p.fmt p.blk p.cols
  match p.kind with
  | 0 =>
    decide (a.addr + wd ≤ 1024) && (match b.kind with
      | 6 => true
      | 3 => decide (b.addr * 64 + p.cols * wd ≤ 1536 * 64)
      | _ => decide (b.index + p.cols ≤ 64 ∧ wd ≤ 64))
  | 1 =>
    (match a.kind with
      | 3 => decide (a.addr + wd ≤ 1536)
      | 4 => decide (a.addr + wd ≤ 1024)
      | 5 => decide (a.index + p.depth ≤ 64 ∧ a.addr + wordsFor p.fmt p.blk 64 ≤ 1024)
      | _ => decide (a.index + wd ≤ 64))
    && (match b.kind with
      | 6 => true
      | 3 => decide (b.addr * 64 + p.depth * wc ≤ 1536 * 64)
      | _ => decide (b.index + p.depth ≤ 64 ∧ wc ≤ 64))
  | _ => decide (a.addr + p.cols * wd ≤ 1024 ∧ p.vaddr + wd ≤ 1024)

/-- The references stand where the pass allows them (05 R197). -/
def refsOk (p : PassRun) : Bool :=
  match p.kind with
  | 0 => (refOf p.ref1).ok [0] && (refOf p.ref2).ok [1, 2, 3, 6]
  | 1 => (refOf p.ref1).ok [1, 2, 3, 4, 5] && (refOf p.ref2).ok [1, 2, 3, 6]
  | _ => (refOf p.ref1).ok [0] && p.ref2 == 0

/-- Byte ranges of local memory that the pass reads: offset and length. -/
def lmRanges (p : PassRun) : List (Nat × Nat) :=
  let a := refOf p.ref1
  let b := refOf p.ref2
  let wd := wordsFor p.fmt p.blk p.depth
  let wc := wordsFor p.fmt p.blk p.cols
  (if p.kind = 1 ∧ a.kind = 3 then [(a.addr * 256, wd * 256)] else [])
    ++ (if b.kind = 3 ∧ p.kind ≠ 2 then [(b.addr * 256, (if p.kind = 0 then p.cols * wd else p.depth * wc) * 4)] else [])

/-- Tiles that the pass reads. -/
def sourceTiles (p : PassRun) : List Nat :=
  ([refOf p.ref1, refOf p.ref2].filter fun r => r.kind == 1 || r.kind == 2).map (·.tile)

end PassRun

/-! ## Checksum lanes (04 R127 to R133) -/

/-- A signed 48-bit reading of an integer. -/
def wrap48 (i : Int) : Int := sext 48 (wrapN 48 i)

/-- The outcome of a comparison: not compared, equal, or the first mismatch: WHICH, row, column, located. -/
inductive ChkOut where
  | skip | equal | mismatch (which row col : Nat) (located : Bool)
  deriving DecidableEq, Repr

/-- The first mismatch of a list of outcomes. -/
def firstMismatch : List ChkOut → ChkOut
  | [] => .equal
  | .mismatch w r c l :: _ => .mismatch w r c l
  | _ :: t => firstMismatch t

/-- Σ w_i x_i over the lanes, with w_i = 1 or i + 1. -/
def laneSum (weighted : Bool) (x : Nat → Int) : Int :=
  (List.range 64).foldl (fun (s : Int) (i : Nat) => s + (if weighted then (i : Int) + 1 else 1) * x i) 0

/-- An integer column in which the collector's sums differ by `da` and `db` from the values of lanes A and B (R128, R133). -/
def chkIntCol (col : Nat) (da db : Int) : ChkOut :=
  if da = 0 ∧ db = 0 then .equal
  else
    let q := if da = 0 then 0 else db / da
    let loc := decide (da ≠ 0 ∧ db ≠ 0 ∧ db % da = 0 ∧ 1 ≤ q ∧ q ≤ 64)
    .mismatch ((if da = 0 then 0 else 1) + (if db = 0 then 0 else 2)) (if loc then q.toNat - 1 else 0) col loc

namespace PassRun

/-- Element `k` of the sums that checksum lane A, or B, keeps of the lane stores (R116). -/
def keptEl (p : PassRun) (weighted : Bool) (k : Nat) : El :=
  let at_ (e : Nat) : Dy :=
    let s := tget (fun _ => ((0 : Int), (0 : Int))) p.src.lsSum (((refOf p.ref1).addr + wordOf p.fmt p.blk k) * 4 + e)
    Dy.ofInt (if weighted then s.2 else s.1)
  if p.fmt = fmtCq then ⟨at_ 0, at_ 1, false⟩ else .ofDy (at_ (k % (32 / fmtWidth p.fmt))) false

/-- What checksum lane A, or B, computes for tile column `t` of an integer BCAST pass, from the sums it keeps (R127). -/
def keptCol (p : PassRun) (tile : Tile) (weighted : Bool) (t : Nat) : Int :=
  let cq := p.fmt == fmtCq
  let col := if cq then t / 2 else t
  let b (k : Nat) : El := bcastEl p.src p.fmt p.blk (refOf p.ref2) p.depth col k
  let start : Int := if p.acc then laneSum weighted fun i => sw (tile.word i t) else 0
  start + (Dy.sum ((List.range p.depth).map fun k => prodHalf cq (t % 2) (p.keptEl weighted k) (b k))).toInt false

/-- How far the collector's sum of tile column `t` lies from what checksum lane A, or B, has computed, modulo 2^48 (R127,
R128): over the sums kept with the lane stores, or, for an OUTER pass, over those of the beats that the lanes took. -/
def sumMiss (p : PassRun) (tile : Tile) (weighted : Bool) (t : Nat) (good bad : Nat → Word) : Int :=
  wrap48 (if p.kind = 0 then laneSum weighted (fun i => sw (bad i)) - p.keptCol tile weighted t
    else laneSum weighted fun i => sw (bad i) - sw (good i))

/-- Lane-side sums of one element position, FP32 in lane order, truncating (R116, R127). -/
def fpSum (weighted : Bool) (x : Nat → Dy) : Dy :=
  (List.range 64).foldl (fun (s : Dy) (i : Nat) =>
    (laneFp (fp32Of false false (s.add (if weighted then (Dy.ofInt (i + 1)).mul (x i) else x i))).1).1) ⟨0, 0⟩

/-- A floating column: checksum lanes accumulate as compute lanes do, and compare against the tolerance (R127, R129).
DESIGN CHOICE (assumption 50): with ACC, a checksum lane's first accumulator is the exact sum of the tile's contents, not
narrowed. -/
def chkFpCol (p : PassRun) (tile : Tile) (col : Nat) (bad : Nat → Word) : ChkOut :=
  let val (i : Nat) : Dy := (laneFp (bad i)).1
  let weighted (wt : Bool) (i : Nat) (v : Dy) : Dy := if wt then (Dy.ofInt ((i : Int) + 1)).mul v else v
  let start (wt : Bool) : Dy :=
    if p.acc then Dy.sum ((List.range 64).map fun i => weighted wt i (laneFp (tile.word i col)).1) else ⟨0, 0⟩
  let c (wt : Bool) : Dy := p.cycles.foldl (fun acc ks =>
    let sum := Dy.sum (ks.map fun k => (fpSum wt fun i => (p.pairAt i col k).1.re).mul (p.pairAt 0 col k).2.re)
    (laneFp (fp32Of p.rhu false (acc.add sum)).1).1) (start wt)
  let s (wt : Bool) : Dy := Dy.sum ((List.range 64).map fun i => weighted wt i (val i))
  let big := (List.range 64).foldl (fun (m : Dy) i => if m.lt (val i).abs then (val i).abs else m) ⟨0, 0⟩
  let e : Int := if big.m = 0 then -126 else big.log2
  let tol : Int := bits p.chk 12 8
  let miss (wt : Bool) : Bool :=
    (⟨1, e + (if wt then 6 else 0) - tol⟩ : Dy).lt ((s wt).add (c wt).neg).abs
  if miss false || miss true then
    .mismatch ((if miss false then 1 else 0) + (if miss true then 2 else 0)) 0 col false
  else .equal

/-- A word of the result with the lanes' errors applied. -/
def withErrs (errs : List LaneErr) (i t : Nat) (w : Word) : Word :=
  errs.foldl (fun w e => if e.row.val = i ∧ e.col.val = t then w ^^^ e.flip else w) w

/-- A replay of one duplicated lane: its lowest mismatching column (R131). -/
def replayMiss (p : PassRun) (errs : List LaneErr) (lane : Nat) : Option Nat :=
  ((List.range p.width).find? fun t => withErrs errs lane t 0 != 0).map fun t => if p.fmt = fmtCq then t / 2 else t

/-- The outcome of a pass's comparison under CHKCFG (R127 to R131). A pass that R128 or R130 leaves uncompared counts as
skipped whatever CHK_EN and PRIV_DUP say; one that they alone switch off does not. DESIGN CHOICE (assumption 50): a PRIVATE
pass with an empty mask has no lane to duplicate, compares equal and counts nothing. -/
def check (p : PassRun) (tile : Tile) (good : List (Nat × List (Word × Bool))) (errs : List LaneErr) : ChkOut :=
  let sat := good.any fun r => r.2.any (·.2)
  let goodAt (t i : Nat) : Word := (((good.find? (·.1 == i)).map (·.2)).getD [] |>.getD t (0, false)).1
  let badAt (t i : Nat) : Word := withErrs errs i t (goodAt t i)
  let a := (refOf p.ref1).addr
  let wrongFmt := p.kind == 0 && !fmtFloat p.fmt
    && (List.range (wordsFor p.fmt p.blk p.depth)).any fun j => lsFormat p.src.lsFmt (a + j) != p.fmt
  if sat || wrongFmt then .skip
  else if !bitOf p.chk 0 ∨ (p.kind = 2 ∧ !bitOf p.chk 1) then .equal
  else if p.kind = 2 then
    let u := p.lanes.length
    if u = 0 then .equal
    else
      let la := p.lanes.getD (p.pnum % u) 0
      let lb := p.lanes.getD ((p.pnum + (u + 1) / 2) % u) 0
      match p.replayMiss errs la, p.replayMiss errs lb with
      | none, none => .equal
      | some c, none => .mismatch 1 la c false
      | none, some c => .mismatch 2 lb c false
      | some c, some _ => .mismatch 3 la c false
  else
    firstMismatch ((List.range p.width).map fun t =>
      if fmtFloat p.fmt then p.chkFpCol tile t (badAt t)
      else
        let d (wt : Bool) : Int := p.sumMiss tile wt t (goodAt t) (badAt t)
        chkIntCol (if p.fmt = fmtCq then t / 2 else t) (d false) (d true))

end PassRun

/-- The words of a distributed beat from a MOVE's source (05 R198). -/
def moveBeat (s : Src) (fmt : Nat) (r : Ref) : List Word :=
  (List.range 64).map fun i =>
    match r.kind with
    | 1 => s.tileWord r.tile r.index i
    | 2 => s.tileWord r.tile i r.index
    | 3 => lmWord s.lm (r.addr * 64 + i)
    | 4 => lsWord s.ls i r.addr
    | _ =>
      let w := fmtWidth fmt
      BitVec.ofNat 32 ((lsWord s.ls r.index (r.addr + i * w / 32)).toNat / 2 ^ (i % (32 / w) * w) % 2 ^ w)

/-- A MOVE's references are allowed and stay in their stores (05 R165, R197, R198). -/
def moveOk (fmt : Nat) (a b : Ref) : Bool :=
  a.ok [1, 2, 3, 4, 5] && b.ok [0, 1, 2, 3] && (a.kind != 5 || decide (a.addr + 2 * fmtWidth fmt ≤ 1024))

namespace Core

/-- The elements of a lane-store word whose sums the checksum lanes keep: those of INT8, INT16 and CQ16 (R116). -/
def intElems (fmt : Nat) (w : Word) : List Int :=
  match fmt with
  | 3 => (List.range 4).map fun e => sext 8 (w.toNat / 2 ^ (8 * e))
  | 5 => [sext 16 w.toNat, sext 16 (w.toNat / 65536)]
  | 6 => [sext 16 w.toNat, sext 16 (w.toNat / 65536)]
  | _ => []

/-- Writes one word of the lanes of a mask at a common lane-store address, and records its format (04 R114, R115). The
checksum lanes' sums take the difference of every element written; a word that changes its format is summed anew (R116). -/
def writeLs (wa fmt mask : Nat) (ws : List Word) (c : Core) : Core :=
  let old (i : Nat) : Word := lsWord c.ls i wa
  let new (i : Nat) : Word := if bitOf mask i then ws.getD i 0 else old i
  let ls := (List.range 64).foldl (fun (l : Tab Word) (i : Nat) =>
    if bitOf mask i then tput (fun _ => 0) l (i * 1024 + wa) (ws.getD i 0) else l) c.ls
  let kept := lsFormat c.lsFmt wa == fmt
  let z (_ : Nat) : Int × Int := (0, 0)
  let el (e : Nat) (w : Word) : Int := (intElems fmt w).getD e 0
  let sums := (List.range (intElems fmt 0).length).foldl (fun (t : Tab (Int × Int)) e =>
    let s := if kept then tget z t (wa * 4 + e) else (0, 0)
    let d (i : Nat) : Int := if kept then el e (new i) - el e (old i) else el e (new i)
    tput z t (wa * 4 + e) (wrap48 (s.1 + laneSum false d), wrap48 (s.2 + laneSum true d))) c.lsSum
  { c with ls := ls, lsFmt := tput (fun _ => 8) c.lsFmt wa fmt, lsSum := sums }

/-- Writes a row or column of a tile. -/
def writeVec (t : Nat) (col : Bool) (idx : Nat) (ws : List Word) (c : Core) : Core :=
  let x := (List.range 64).foldl (fun (x : Tile) (i : Nat) =>
    if col then x.put i idx (ws.getD i 0) else x.put idx i (ws.getD i 0)) (c.tile t)
  c.setTile t x

end Core

end Sys2Proof.Machine
end

