-- ==== Sys2Proof/Machine/Operands.lean ====
section
/-! DEFINITION. The bundle: slots, their fields and the rules of R165 that hold at decode; descriptor checks at issue
(05_instruction_set.md R161, R165, R170, R181, R195, R200; 04_core.md R149; 06_number_formats.md R229). -/
namespace Sys2Proof.Machine

/-- A bundle split into its fields (R161). -/
structure Bundle where
  g : Bool
  cp : Bool
  rhu : Bool
  high : Nat
  s0 : Nat
  s1 : Nat
  l : Nat
  e : Nat
  m : Nat
  deriving DecidableEq, Repr

/-- The fields of a bundle. -/
def bundleOf (w : BitVec 128) : Bundle :=
  let n := w.toNat
  ⟨bitOf n 127, bitOf n 126, bitOf n 125, bits n 124 120, bits n 119 92, bits n 91 64, bits n 63 40, bits n 39 24, bits n 23 0⟩

/-- Operation of a scalar slot. -/
def sOp (v : Nat) : Nat := bits v 27 22

/-- A scalar slot is assigned, its zero fields are zero, and it names a special register it may (R165, R170). -/
def scalarOk (v : Nat) : Bool :=
  match sOp v with
  | 0x00 => bits v 21 0 == 0
  | 0x01 => decide (bits v 6 0 ≤ 0x1D) && (decide (bits v 6 0 < 0x1A) || bits v 11 7 == 0)
  | 0x02 | 0x03 | 0x04 | 0x05 | 0x07 | 0x09 => true
  | 0x06 => bits v 3 0 == 0
  | 0x08 => !bitOf v 16
  | 0x0A => bits v 6 0 == 0
  | 0x0B =>
    let n := bits v 16 12
    bits v 10 0 == 0 && decide (n ≤ 14) && (!bitOf v 11 || n == 0 || decide (4 ≤ n ∧ n ≤ 7))
  | 0x0C => !bitOf v 17 && bits v 2 0 == 0 && bits v 6 5 != 3
  | 0x0D => bits v 13 12 == 0
  | 0x0E => !bitOf v 17 && bits v 6 0 == 0
  | 0x0F => bits v 11 0 == 0
  | 0x10 | 0x11 | 0x12 | 0x13 | 0x14 | 0x15 => true
  | 0x16 | 0x17 => bits v 21 12 == 0
  | 0x18 => bits v 16 0 == 0
  | 0x19 | 0x1A => bits v 16 12 == 0
  | 0x1C => !bitOf v 21 || bits v 12 5 == 0
  | 0x1D => bits v 15 12 == 0
  | 0x1E | 0x1F => bits v 21 0 == 0
  | _ => false

/-- A branch (R173). -/
def isBranch (v : Nat) : Bool := decide (0x10 ≤ sOp v ∧ sOp v ≤ 0x1A)
def isRep (v : Nat) : Bool := sOp v == 0x1C
def isArm (v : Nat) : Bool := sOp v == 0x1D
def isEnd (v : Nat) : Bool := sOp v == 0x1F

/-- The register a scalar slot writes: general registers from 0, address registers from 100, special registers from
200, modes of address registers from 300 (R165, R184). -/
def scalarWrites (v : Nat) : Option Nat :=
  let op := sOp v
  if (1 ≤ op ∧ op ≤ 0x0A) ∨ op = 0x0F then some (bits v 21 17)
  else if op = 0x0B then some (if bitOf v 11 then 200 + bits v 16 12 else bits v 21 17)
  else if op = 0x0C then some (300 + bits v 21 18)
  else if op = 0x0D ∨ op = 0x0E then some (100 + bits v 21 18)
  else if op = 0x17 then some 31
  else none

/-- The memory slot (R181, R182). -/
def memOk (v : Nat) : Bool :=
  match bits v 23 20 with
  | 0 => bits v 19 0 == 0
  | 1 => !(bits v 19 18 == 3 && bitOf v 12)
  | 2 => !bitOf v 17 && !(bits v 19 18 == 3 && bitOf v 12)
  | 3 => bits v 3 0 == 0
  | 4 | 5 => bits v 19 16 == 0
  | _ => false

/-- The Lane Row slot (R195). -/
def laneOk (v : Nat) : Bool :=
  match bits v 23 20 with
  | 0 => bits v 19 0 == 0
  | 1 => bits v 19 18 != 3 && bits v 7 0 == 0
  | 2 => bits v 19 14 == 0 && bits v 7 0 == 0
  | _ => false

/-- The Eddy slot (R200). -/
def eddyOk (v : Nat) : Bool :=
  match bits v 15 12 with
  | 0 => bits v 11 0 == 0
  | 1 => bits v 5 0 == 0
  | 2 => bits v 3 0 == 0
  | _ => false

/-- The rules of R165 that hold at decode. -/
def Bundle.decodeOk (b : Bundle) : Bool :=
  let ctrl (v : Nat) : Bool := isBranch v || isRep v || isArm v || isEnd v
  b.high == 0 && scalarOk b.s0 && scalarOk b.s1 && memOk b.m && laneOk b.l && eddyOk b.e
    && !(ctrl b.s0 && ctrl b.s1)
    && (match scalarWrites b.s0, scalarWrites b.s1 with
      | some x, some y => x != y
      | _, _ => true)

/-- Some scalar slot of the bundle holds an operation of the kind. -/
def Bundle.has (b : Bundle) (f : Nat → Bool) : Bool := f b.s0 || f b.s1

/-! ## Registers of a core -/

namespace Core

/-- General and address registers. -/
def gr (c : Core) (n : Nat) : Word := tget (fun _ => 0) c.g n
def ar (c : Core) (n : Nat) : Addr := tget (fun _ => 0) c.a n

/-- The four registers of a descriptor group. -/
def group (c : Core) (n : Nat) : Nat × Nat × Nat × Nat :=
  ((c.gr (4 * n)).toNat, (c.gr (4 * n + 1)).toNat, (c.gr (4 * n + 2)).toNat, (c.gr (4 * n + 3)).toNat)

/-- The addressing mode of an a-register. -/
def mode_ (c : Core) (n : Nat) : AMode := tget (fun _ => .linear) c.amode n

/-- A register of the core's CORE block, by its offset. -/
def reg (c : Core) (off : Nat) : Word := tget Blk.coreB.rst c.regs off

/-- Sets a register of the CORE block. -/
def setReg (off : Nat) (v : Word) (c : Core) : Core := { c with regs := tput Blk.coreB.rst c.regs off v }

/-- An instruction-memory bundle. -/
def bundle (c : Core) (i : Nat) : BitVec 128 := tget (fun _ => 0) c.im i

/-- An element program slot; one never loaded holds 32 words of zero. -/
def prog (c : Core) (i : Nat) : Prog := tget (fun _ => ⟨List.replicate 32 0, 32, true⟩) c.progs i

/-- Outside delay slots and repeat bodies (R178). -/
def boundary (c : Core) : Bool := c.delay == 0 && c.reps.isEmpty

end Core

/-! ## Descriptors (R165 at issue) -/

/-- The pass of a PASS slot and descriptor group, as it would issue at cycle `c.cyc` (R196). -/
def passOf (c : Core) (rhu : Bool) (v : Nat) : PassRun :=
  let d := c.group (bits v 10 8)
  let r2 := refOf d.2.2.1
  let p : PassRun :=
    { kind := bits v 19 18, fmt := bits v 17 15, dst := bits v 14 13, acc := bitOf v 12, q := bitOf v 11, rhu := rhu,
      lmask := c.lmask, cols := bits d.1 5 0 + 1, depth := bits d.1 18 6 + 1, blk := bits d.1 20 19, ref1 := d.2.1,
      ref2 := d.2.2.1, vaddr := bits d.2.2.2 9 0, pnum := c.pcount, chk := (c.reg 0x10).toNat, bundle := c.pc,
      endsAt := 0, extra := 0,
      src := c.src (if r2.kind = 6 then (c.gr (2 * r2.index + 1)).toNat * 2 ^ 32 + (c.gr (2 * r2.index)).toNat else 0) }
  let x := p.clashBeats
  { p with extra := x, endsAt := c.cyc + p.computeCycles + 32 + x }

/-- A PASS descriptor is legal (R165, R196, R197; 04 R118). -/
def passOk (c : Core) (v : Nat) : Bool :=
  let d := c.group (bits v 10 8)
  let p := passOf c false v
  bits d.1 31 21 == 0 && bits d.2.2.2 31 10 == 0 && (p.kind == 2 || p.vaddr == 0)
    && !(p.fmt == fmtCq && decide (32 < p.cols)) && p.refsOk && p.fits

/-- The fields of a run descriptor (R202). -/
structure RunDesc where
  src : Nat
  stile : Nat
  col : Bool
  v : Nat
  vdst : Nat
  vtile : Nat
  rdst : Nat
  rtile : Nat
  rcol : Bool
  ridx : Nat
  sline : Nat
  sstride : Int
  vline : Nat
  vstride : Int
  rline : Nat
  brow : Nat
  bcol : Nat
  zero : Bool
  deriving DecidableEq, Repr

/-- Reads a run descriptor. -/
def runDesc (w0 w1 w2 w3 : Nat) : RunDesc :=
  ⟨bits w0 1 0, bits w0 3 2, bitOf w0 4, bits w0 10 5 + 1, bits w0 12 11, bits w0 14 13, bits w0 16 15, bits w0 18 17,
    bitOf w0 19, bits w0 25 20, bits w1 10 0, sext 10 (bits w1 20 11), bits w2 10 0, sext 10 (bits w2 20 11),
    bits w2 31 21, bits w3 15 0, bits w3 31 16, bits w0 31 26 == 0⟩

/-- A BROW or BCOL field names an assigned kind, and a line or index in range (R202). -/
def bvecOk (b : Nat) : Bool :=
  match bits b 2 0 with
  | 0 | 4 => true
  | 1 | 2 => decide (bits b 15 5 ≤ 63)
  | 3 => decide (bits b 15 5 ≤ 1535)
  | _ => false

/-- Lines from `first` by `stride` over `n` vectors stay in local memory. -/
def linesOk (first : Nat) (stride : Int) (n : Nat) : Bool :=
  let z := (first : Int) + (n - 1 : Nat) * stride
  decide (first ≤ 1535 ∧ 0 ≤ z ∧ z ≤ 1535)

/-- Tiles that a run names beside its source (R135, R137). -/
def RunDesc.tiles (d : RunDesc) : List Nat :=
  (if d.vdst = 2 then [d.vtile] else []) ++ (if d.rdst = 1 then [d.rtile] else [])
    ++ ([d.brow, d.bcol].filter fun b => bits b 2 0 == 1 || bits b 2 0 == 2).map fun b => bits b 4 3

/-- A RUN is legal (R165, R202, R206). -/
def runOk (c : Core) (v : Nat) : Bool :=
  let g := c.group (bits v 8 6)
  let d := runDesc g.1 g.2.1 g.2.2.1 g.2.2.2
  let pr := c.prog (bits v 11 9)
  let packed := packsLlr (progOf pr.ins).1
  let packFits (l : Nat) : Bool := decide (l * 256 + d.v * 48 ≤ 0x60000)
  pr.valid && d.zero && d.src != 3 && bvecOk d.brow && bvecOk d.bcol
    && !(packed && (d.vdst == 2 || (d.vdst == 1 && d.src != 2)))
    && (d.src != 2 || linesOk d.sline d.sstride d.v)
    && (d.vdst != 3 || (if packed then packFits d.vline else linesOk d.vline d.vstride d.v))
    && !(d.vdst == 1 && d.src == 2 && packed && !packFits d.sline)
    && (d.rdst != 2 || decide (d.rline ≤ 1535))

/-- A transfer descriptor is legal (R165, R185). -/
def sxOk (c : Core) (v : Nat) : Bool :=
  let d := c.group (bits v 10 8)
  let so := bitOf v 19
  let t := bits d.1 27 26
  bits d.1 31 28 == 0 && bits d.2.2.2 31 14 == 0 && t != 3 && !(so && t != 0)
    && decide (bits d.2.2.2 13 10 ≤ 8)

/-- An AMODE's size register is in range (R184). -/
def amodeOk (c : Core) (v : Nat) : Bool :=
  let z := (c.gr (bits v 11 7)).toNat
  match bits v 6 5 with
  | 1 => decide (1 ≤ bits z 16 0 ∧ bits z 16 0 ≤ 65536)
  | 2 => decide (1 ≤ bits z 4 0 ∧ bits z 4 0 ≤ 16)
  | _ => true

/-- The control-flow rules of R165 at issue: delay slots, repeat bodies, repeat extents (R174, R177). -/
def controlOk (c : Core) (b : Bundle) : Bool :=
  let inDelay := c.delay != 0
  let inBody := !c.reps.isEmpty
  let bodyEnd (v : Nat) : Nat := c.pc + bits v 20 13 + 1
  let repOk (v : Nat) : Bool :=
    !isRep v || (decide (c.reps.length < 3 ∧ bodyEnd v ≤ 4095) && (match c.reps.getLast? with
      | some r => decide (bodyEnd v ≤ r.last)
      | none => true))
  !(inDelay && (b.has isBranch || b.has isRep || b.has isEnd || b.g || b.cp))
    && !(inBody && (b.has isBranch || b.has isEnd || b.g || b.cp)) && repOk b.s0 && repOk b.s1

/-- The rules of R165 on what the bundle copies at issue. -/
def copiedOk (c : Core) (b : Bundle) : Bool :=
  (match bits b.l 23 20 with
    | 1 => passOk c b.l
    | 2 => let d := c.group (bits b.l 10 8); moveOk (bits b.l 13 11) (refOf d.2.1) (refOf d.2.2.1)
    | _ => true)
  && (bits b.e 15 12 != 1 || runOk c b.e) && (bits b.m 23 20 != 3 || sxOk c b.m)
  && (sOp b.s0 != 0x0C || amodeOk c b.s0) && (sOp b.s1 != 0x0C || amodeOk c b.s1)

/-! ## Sluice geometry (04 R148, R149; 05 R185, R186) -/

/-- The transfer that an SX slot describes. -/
def xferOf (c : Core) (v : Nat) : Xfer :=
  let d := c.group (bits v 10 8)
  { rows := bits d.1 11 0 + 1, rowBytes := (bits d.1 25 12 + 1) * 4, target := bits d.1 27 26,
    sstride := sext 32 d.2.1, dstride := sext 32 d.2.2.1, wa := bits d.2.2.2 9 0, fmt := bits d.2.2.2 13 10,
    src := (c.ar (bits v 18 15)).toNat, dst := (c.ar (bits v 14 11)).toNat, done := bits v 7 4,
    basin := bits (c.reg 0x38).toNat 3 0, bundle := c.pc, num := c.xnum, remote := .none, away := [], buf := [], came := [],
    stop := none, writing := none, dropped := false,
    activity := 0 }

namespace Xfer

/-- Source and destination address of row `r`. -/
def srcAt (x : Xfer) (r : Nat) : Int := x.src + r * x.sstride
def dstAt (x : Xfer) (r : Nat) : Int := x.dst + r * x.dstride

/-- The global address of an exact integer, modulo 2^64. -/
def glob (i : Int) : Nat := wrapN 64 i

/-- A global address is in CSR space, on any device (01 R14). -/
def inCsr (a : Nat) : Bool := let l := a % 2 ^ 46; decide (0x1F0000000000 ≤ l ∧ l < 0x1F0001000000)

/-- The transfer is refused at issue: the address that refuses it (R149, R229). -/
def refused (x : Xfer) (so : Bool) : Option Nat :=
  let rows := List.range x.rows
  let inLm (a : Int) : Bool := decide (0 ≤ a ∧ a + x.rowBytes ≤ 0x60000)
  if so then
    match rows.find? fun r => !inLm (x.srcAt r) with
    | some r => some (glob (x.srcAt r))
    | none => (rows.find? fun r => inCsr (glob (x.dstAt r)) || inCsr (glob (x.dstAt r + x.rowBytes - 1))).map fun r => glob (x.dstAt r)
  else if x.target = 0 then (rows.find? fun r => !inLm (x.dstAt r)).map fun r => glob (x.dstAt r)
  else if x.target = 1 then
    (rows.find? fun r => decide (x.dstAt r % 4 ≠ 0 ∨ x.dstAt r < 0 ∨ 0x1000 < x.dstAt r + x.rowBytes)).map fun r => glob (x.dstAt r)
  else if 1024 < x.wa + (x.rows - 1) / 64 * (x.rowBytes / 4) + x.rowBytes / 4 then some x.wa
  else none

end Xfer

end Sys2Proof.Machine
end

