-- ==== Sys2Proof/Machine/Banks.lean ====
section
/-! DEFINITION. The banks of a core's local memory: which bank holds an offset, what the running units and a bundle ask of
them in a cycle, and who is served (04_core.md R143 to R145, R153). The cycle of a pass or run in which an access falls is not
laid down: it is a constant of the implementation (assumption 54). -/
namespace Sys2Proof.Machine

/-- The bank that holds a local offset (R143). -/
def bankOf (off : Nat) : Nat := 8 * (off / 0x20000) + off / 32 % 8

/-- The banks of an access of `n` bytes. -/
def banksOf (off n : Nat) : List Nat := ((List.range ((off % 32 + n + 31) / 32)).map fun i => bankOf (off + 32 * i)).eraseDups

/-- The banks of a line: the eight of its group. -/
def lineBanks (line : Nat) : List Nat := (List.range 8).map fun i => 8 * (line / 512) + i

/-- A pass is in compute cycle `k` at core cycle `cyc`. -/
def PassRun.cycleAt (p : PassRun) (cyc : Nat) : Option Nat :=
  let all := p.computeCycles + p.extra
  let t := cyc + all + 32
  let first := p.endsAt + 1 + Config.passFill % 31
  if first ≤ t ∧ t < first + all then some (t - first) else none

/-- The banks that the pass's channels take in compute cycle `k`: the broadcast stream word by word, the distributed operand's
line with the step that first needs it; where both draw from local memory, such a beat has a cycle of its own (R112). -/
def PassRun.banksIn (p : PassRun) (k : Nat) : List Nat :=
  let a := refOf p.ref1
  let b := refOf p.ref2
  let m := fmtMacs p.fmt
  let stream (w : Nat) : List Nat := [bankOf (b.addr * 256 + w * 4)]
  match p.kind with
  | 0 =>
    let q := (p.depth + m - 1) / m
    if b.kind = 3 then stream (k / q * wordsFor p.fmt p.blk p.depth + wordOf p.fmt p.blk (k % q * m)) else []
  | 1 =>
    let q := (p.cols + m - 1) / m
    let beats (st : Nat) : Nat := wordOf p.fmt p.blk st + 1
    let newBeat (st : Nat) : Bool := st == 0 || wordOf p.fmt p.blk (st - 1) != wordOf p.fmt p.blk st
    let bc (st i : Nat) : List Nat :=
      if b.kind = 3 then stream (st * wordsFor p.fmt p.blk p.cols + wordOf p.fmt p.blk (i * m)) else []
    let line (st : Nat) : List Nat := if a.kind = 3 then lineBanks (a.addr + wordOf p.fmt p.blk st) else []
    if p.extra = 0 then bc (k / q) (k % q) ++ (if k % q = 0 && newBeat (k / q) then line (k / q) else [])
    else
      let st := (((List.range p.depth).filter fun st => decide (st * q + (beats st - 1) ≤ k)).getLast?).getD 0
      if st * q + beats st ≤ k then bc st (k - st * q - beats st) else line st
  | _ => []

/-- The descriptor of a run. -/
def EddyRun.desc (r : EddyRun) : RunDesc := runDesc r.w0 r.w1 r.w2 r.w3

/-- Line number of vector `r`. -/
def lineOf (first : Nat) (stride : Int) (r : Nat) : Nat := ((first : Int) + r * stride).toNat

/-- The vector destination stands in local memory. -/
def EddyRun.toLines (r : EddyRun) : Bool := r.desc.vdst == 3 || (r.desc.vdst == 1 && r.src == none)

/-- The core cycle in which vector `i` of a run of an `n`-instruction program is read, or written: one of its wave (R139,
R140). -/
def EddyRun.vecAt (r : EddyRun) (n : Nat) (write : Bool) (i : Nat) : Nat :=
  let start := r.endsAt - runCycles n r.desc.v
  if n = 0 then start + 15 else start + 16 + i / 8 * (4 * n) + Config.eddyCycle write n i % (4 * n)

/-- Offset and length of what vector `i` writes to local memory. DESIGN CHOICE (assumption 50): packed vectors in place of a
local-lines source stand at the source's first line (R135, 05 R206). -/
def EddyRun.lineAt (r : EddyRun) (packed : Bool) (i : Nat) : Nat × Nat :=
  let d := r.desc
  let f : Nat × Int := if d.vdst = 1 then (d.sline, d.sstride) else (d.vline, d.vstride)
  if packed then (f.1 * 256 + i * 48, 48) else (lineOf f.1 f.2 i * 256, 256)

namespace Core

/-- The program of a run. -/
def runProg (c : Core) (r : EddyRun) : List EIns := (progOf (c.prog r.slot).ins).1

/-- Vectors of the running run that are due at local memory in this cycle. -/
def vecsDue (c : Core) (r : EddyRun) (write : Bool) : List Nat :=
  if r.started then
    let n := (c.runProg r).length
    (List.range r.desc.v).filter fun i => r.vecAt n write i == c.cyc
  else []

/-- Banks that the Eddy unit takes in this cycle. -/
def eddyBanks (c : Core) : List Nat :=
  (match c.eddy with
    | none => []
    | some r =>
      let d := r.desc
      let n := (c.runProg r).length
      let start := r.endsAt - runCycles n d.v
      let reads := if r.started && d.src == 2 then (c.vecsDue r false).flatMap fun i => lineBanks (lineOf d.sline d.sstride i) else []
      let writes := if r.toLines then (c.vecsDue r true).flatMap fun i =>
          let x := r.lineAt (packsLlr (c.runProg r)) i
          banksOf x.1 x.2
        else []
      let bvec (j b : Nat) : List Nat :=
        if r.started && bits b 2 0 == 3 && c.cyc == start + 1 + Config.operandCycle j % 15 then lineBanks (bits b 15 5) else []
      reads ++ writes ++ bvec 0 d.brow ++ bvec 1 d.bcol
        ++ (if r.started && d.rdst == 2 && c.cyc + 1 == r.endsAt then lineBanks d.rline else []))
    ++ c.ldprog.flatMap fun l => ((List.range 4).filter fun g => c.cyc == l.endsAt - 16 + 1 + Config.operandCycle g % 15).map fun g =>
        bankOf (l.off + 32 * g)

/-- Banks that the running pass takes in this cycle. -/
def passBanks (c : Core) : List Nat :=
  match c.pass with
  | some p => (match p.cycleAt c.cyc with
    | some k => p.banksIn k
    | none => [])
  | none => []

/-- The bank in the second half of a partial write (R144). -/
def halfBank (c : Core) : List Nat :=
  match c.half with
  | some h => if h.2 = c.cyc then [h.1] else []
  | none => []

/-- Banks that a request from SI, SO or outside takes ahead of all others: it has waited 32 cycles (R145). -/
def overBanks (c : Core) : List Nat := (c.bankWait.filter fun w => decide (32 ≤ w.2)).map (·.1)

end Core

/-- What a bundle asks of the banks, in order of priority: the lines of a MOVE, which the spine asks for, and the access of an
LD or ST; the flag marks the spine's (R145). -/
def bankReqs (c : Core) (b : Bundle) : List (Bool × List Nat) :=
  let d := c.group (bits b.l 10 8)
  let lane := if bits b.l 23 20 = 2 then
      ([refOf d.2.1, refOf d.2.2.1].filter fun r => r.kind == 3).map fun r => (true, lineBanks r.addr)
    else []
  let w := 2 ^ bits b.m 19 18
  let addr := (c.ar (bits b.m 11 8)).toNat
  let mem := if (bits b.m 23 20 = 1 ∨ bits b.m 23 20 = 2) ∧ addr % w = 0 ∧ addr < 0x60000 then [(false, banksOf addr w)] else []
  lane ++ mem

/-- How many of the requests, from the one after those `n` already served, the banks serve in a cycle in which `taken` is in
use by what goes before the spine, and `eddy` by the Eddy unit: the number served then, and the banks. -/
def serveBanks (eddy : List Nat) : List Nat → Nat → List (Bool × List Nat) → Nat × List Nat
  | taken, n, [] => (n, taken)
  | taken, n, (spine, bs) :: rest =>
    if bs.any fun b => taken.contains b || (!spine && eddy.contains b) then (n, taken)
    else serveBanks eddy (taken ++ bs) (n + 1) rest

/-- The banks serve a bundle in this cycle: the requests served so far, and the banks taken (R144, R145). -/
def Core.bankServe (c : Core) (b : Bundle) : Nat × List Nat :=
  serveBanks c.eddyBanks (c.halfBank ++ c.overBanks ++ c.passBanks) c.served ((bankReqs c b).drop c.served)

/-- A partial write of a bundle's ST takes its bank for a second cycle (R144). -/
def Core.halfOf (c : Core) (b : Bundle) : Option (Nat × Nat) :=
  let addr := (c.ar (bits b.m 11 8)).toNat
  if bits b.m 23 20 = 2 ∧ bits b.m 19 18 ≠ 3 ∧ addr % 2 ^ bits b.m 19 18 = 0 ∧ addr < 0x60000 then some (bankOf addr, c.cyc + 1) else c.half

/-- The requests from SI, SO and outside at the end of a cycle: one that finds its bank in use waits, one that has waited 32
cycles is served (R145). `used` is what the core's own units have taken. -/
def Core.bankTurn (outside used : List Nat) (c : Core) : Core :=
  if outside.isEmpty && c.bankWait.isEmpty then c
  else
    let urgent := c.overBanks
    let wait := (List.range 24).foldl (fun (t : Tab Nat) b =>
      let w := tget (fun _ => 0) t b
      let asks := outside.contains b || decide (0 < w)
      tput (fun _ => 0) t b (if asks && used.contains b && !urgent.contains b then w + 1 else 0)) c.bankWait
    { c with bankWait := wait }

end Sys2Proof.Machine
end

