-- ==== Sys2Proof/Machine/Units.lean ====
section
/-! DEFINITION. The state of the device's shared units: register space, time, host interface, memory arbiters,
scheduling, fabric and ports, faults, power and boot, pins. -/
namespace Sys2Proof.Machine

/-- What the device puts out at its pins, links and buses during one command (the model's own record of outputs: the
command in progress starts with none). -/
inductive Out where
  /-- the Ethernet header of what follows: destination and source MAC, 802.1Q tag (11 R403, R412) -/
  | head (port dst src : Nat) (tag : Option Nat)
  | frame (port : Nat) (f : Frame)
  | offer (port : Nat) (f : Frame) (mac : BitVec 48)
  | eth (port : Nat) (bytes : List Byte)
  | owd (port : Nat) (id : Byte)
  | uplane (port : Nat) (mac : Nat) (pcid seqid : Nat) (sym : SymId) (stream startPrb : Nat) (prbs : List (Nat × List Int))
  | cplane (port : Nat) (mac : Nat) (pcid seqid : Nat) (sections : List Byte)
  | fwd (port : Nat) (tag : Option Nat) (residence : Int) (bytes : List Byte)
  | msix (func vec : Nat)
  | smb (bytes : List Byte)
  | tdo (w : Word)
  | csr (w : Word)
  | agc (bus d a : Nat)
  | symbol (carrier : Nat) (sym : SymId) (zero : Bool)
  | burst (channel : Nat) (sym : SymId) (samples : List Cplx)
  | samples (stream : Nat) (block : List Cplx)
  | remoteCmd (dst mbx : Nat) (cmd : List Byte)
  | host (addr : Nat) (bytes : List Byte)
  deriving DecidableEq, Repr

/-- Register space (17_register_reference.md): registers by their first CSR offset, the copies in force, per-path
selectors and read latches, open locks, selected arrays, the fault log and MSI-X (15 R560, 13 R484). -/
structure Ctl where
  regs : Tab Word
  eff : Tab Word
  path : Tab Word
  /-- UNLOCK offsets of blocks whose lock is open (R651); a core's lock at 2^24 + physical number -/
  locks : List Nat
  /-- by lock, the tick of the write that opened it (R653) -/
  lockAt : Tab Nat
  /-- arrays behind selectors, by kind * 2^20 + index -/
  bank : Tab Word
  /-- fault log: word w of slot n at n * 8 + w -/
  log : Tab Word
  /-- of the entries that the command in progress has logged, in order: the event's register * 32 + its bit (R561) -/
  logKeys : List Nat
  /-- log slots copied since they were written (R560, R562) -/
  copied : List Nat
  /-- interrupts raised to Wellhead, by status register -/
  irq : Tab Nat
  /-- MSI-X messages waiting, by function * 32 + vector, and the tick of the last message of each -/
  msix : List Nat
  msixAt : Tab Nat
  /-- by ring (0 the admin event ring, 1 + b the completion ring of basin b): the tick of its last notify write, rings whose next
  waits, and the tick of the last shadow write (R508, R511) -/
  notifyAt : Tab Nat
  notifyDue : List Nat
  shadowAt : Tab Nat
  /-- MSI-X enable and BAR placement, as the host's configuration space holds them: BAR base and size -/
  bars : List (Nat × Nat)
  deriving DecidableEq, Repr

/-- The timebase (12_time.md). -/
structure TimeSt where
  /-- ticks since always-on reset -/
  ticks : Nat
  /-- TIME.NS32 as it stood before the last tick -/
  last : Word
  /-- 32 integer and 40 fractional bits of ns (R448) -/
  cnt : BitVec 72
  /-- TIME.SUBSEC in 2^-40 ns, below 10^9 * 2^40 (R450) -/
  sub : Nat
  inc : Nat
  incPend : Option Nat
  /-- amount still to slew in 2^-23 ns and RATE (R453) -/
  slew : Int
  rate : Nat
  adjPend : Option Word
  goPend : Bool
  sfn : Nat
  adv : Int
  advPend : Option Int
  /-- 0 FREERUN, 1 ACQUIRING, 2 LOCKED, 3 HOLDOVER -/
  clock : Nat
  source : Nat
  everLocked : Bool
  /-- consecutive offsets within LOCK_NS -/
  inLock : Nat
  master : Option Nat
  /-- Sync origin and receive times, Delay_Req send time, mean path delay in 2^-16 ns (R463) -/
  t1 : Option Int
  /-- correction of a two-step Sync, until its Follow_Up -/
  corr : Option Int
  t2 : Option Int
  t3 : Option Int
  pathDelay : Int
  /-- per-port delay and asymmetry words of TIME_SOURCE -/
  portDelay : Tab Word
  ppsMissed : Nat
  /-- the PPS_OUT pin, and how long it stays high in 2^-40 ns (R468) -/
  ppsOut : Bool
  ppsLeft : Nat
  /-- SYNCE_OUT is held low (R470) -/
  synceLow : Bool
  /-- what the last tick added to both counters, and whether a radio frame boundary fell on it; a step of the counter (R454)
  counts as the least amount -/
  step : Nat
  frameTick : Bool
  /-- offset measurements taken, the index of the servo's next value -/
  meas : Nat
  deriving DecidableEq, Repr

/-- A mailbox (13 R494 to R497). -/
structure Mbx where
  cmd : List Byte
  resp : List Byte
  accepted : Nat
  done : Nat
  /-- 0 IDLE, 1 BUSY, 2 DONE -/
  st : Nat
  overrun : Bool
  reject : Bool
  latched : List Byte
  /-- what a JOB_CANCEL did in the cycle of its acceptance: its response code (14 R530) -/
  pre : Option Nat
  deriving DecidableEq, Repr

/-- Background work of an asynchronous command (13 R498). -/
structure AsyncWork where
  opcode : Nat
  mbx : Nat
  seq : Nat
  params : List Byte
  deriving DecidableEq, Repr

/-- A ring (13 R506 to R511): `prod` and `cons` are the 16-bit indices; for a submission ring `cons` counts entries
fetched. -/
structure Ring where
  base : Nat
  log2 : Nat
  notify : Nat
  ndata : Nat
  prod : Nat
  cons : Nat
  deriving DecidableEq, Repr

/-- A basin (13 R482, R506 to R516; 14 R525, R533). -/
structure Basin where
  /-- 0 disabled, 1 enabled, 2 resetting -/
  st : Nat
  carriers : Nat
  catchments : Nat
  sq0 : Ring
  sq1 : Ring
  sq2 : Ring
  cq : Ring
  shadow : Ring
  /-- entries fetched and not yet taken, in ring order -/
  f0 : List (List Byte)
  f1 : List (List Byte)
  f2 : List (List Byte)
  waiting : List (List Byte)
  /-- completions formed while the basin resets, posted as the reset ends (R513) -/
  held : List (List Byte)
  dropped : Nat
  nextJob : Nat
  submitted : Nat
  completed : Nat
  cancelled : Nat
  reset : Nat
  /-- ticks at which the reset began, and the mailbox command that waits for it -/
  resetAt : Nat
  resetCmd : Option (Nat × Nat)
  shadowDue : Bool
  deriving DecidableEq, Repr

/-- A cached translation (13 R490): slice, level, virtual page at that level, page address, W. -/
structure AtuEntry where
  slice : Nat
  level : Nat
  vpage : Nat
  addr : Nat
  w : Bool
  /-- host address of the entry it came from -/
  entry : Nat
  deriving DecidableEq, Repr

/-- The ATU: context s enabled and its root, and the cache, least recently used first (13 R487 to R491). -/
structure Atu where
  ctx : Tab Nat
  cache : List AtuEntry
  deriving DecidableEq, Repr

/-- SMBus target (13 R517 to R522). -/
structure Smb where
  addr : BitVec 7
  ar : Bool
  av : Bool
  fixed : Bool
  /-- its UDID answer lost arbitration: it answers the next general Get UDID (R520) -/
  udidPending : Bool
  deriving DecidableEq, Repr

/-- A burst waiting at or holding an arbiter (07 R255 to R261). -/
structure ArbReq where
  b : Burst
  /-- cycle in which the port began to wait -/
  since : Nat
  /-- class of the port as it began to wait (07 R257, R260) -/
  cls : Nat
  starved : Bool
  /-- refused by its allowance in this period, and counted (14 R538) -/
  denied : Bool
  deriving DecidableEq, Repr

/-- An arbiter: 0 to 63 pool bank 16 c + b, 64 to 71 DRAM channel pair. -/
structure Arb where
  /-- the arbiter's next cycle, and the cycle in which the present budget period began -/
  cyc : Nat
  start : Nat
  /-- the burst in progress and the cycle of its last data -/
  busy : Option (ArbReq × Nat)
  wait : List ArbReq
  /-- bursts of rows whose ports have one before them -/
  queue : List Burst
  /-- last port granted per class 0 to 3 -/
  last : Tab Nat
  /-- class of the burst in progress at its grant, its first cycle, and whether the closing rule granted it -/
  cls : Nat
  from_ : Nat
  closing : Bool
  deriving DecidableEq, Repr

/-- A job record being run, and its instances' common part (14 R524 to R532). -/
structure JobRec where
  basin : Nat
  catch_ : Nat
  repeat_ : Bool
  preempt : Bool
  entry : Nat
  launch : Nat
  arg : Nat
  batch : Nat
  period : Nat
  count : Nat
  /-- instances that have taken a number -/
  taken : Nat
  ended : Bool
  deriving DecidableEq, Repr

/-- The state of a job (R528). -/
inductive JobState where
  | fetched | ready | armed | running | done
  deriving DecidableEq, Repr

/-- A job: one instance of a record. Leaves by physical core with 0 not issued, 1 issued, 2 ended, 3 discarded. -/
structure Job where
  basin : Nat
  num : Nat
  rec_ : Nat
  /-- instance of its record -/
  inst : Nat
  launch : Nat
  st : JobState
  leaves : List (Nat × Nat)
  /-- spilled by a pre-emption, with the leaves still to spill -/
  preempted : Bool
  deriving DecidableEq, Repr

/-- A spill slot of a leaf (14 R544). -/
structure SpillSlot where
  g : Tab Word
  a : Tab Addr
  amode : Tab AMode
  flags : Nat
  dec : Nat
  lmask : Nat
  gate : Gate
  basin : Word
  cp : Nat
  /-- the live ranges: local memory, tile, lane-store, element-register and codebook contents with their places -/
  live : List LiveData
  deriving DecidableEq, Repr

/-- Periodic telemetry (13 0x51). -/
structure Telemetry where
  mask : Nat
  period : Nat
  left : Nat
  dest : Nat
  /-- groups whose transfer its allowance has refused, which wait for the next period (14 R538) -/
  wait : Nat
  deriving DecidableEq, Repr

/-- Jobs and budgets (14_scheduling_determinism.md). -/
structure Sched where
  recs : Tab JobRec
  jobs : List Job
  nextRec : Nat
  /-- used counts by (kind * 256 + unit) * 8 + activity (R534) -/
  used : Tab Nat
  /-- MIN and MAX in force, by (kind * 8 + activity) * 2 and + 1 -/
  budget : Tab Nat
  tele : List Telemetry
  /-- the budget period in which a TELEMETRY transfer was refused -/
  teleWait : Option Word
  spills : Tab SpillSlot
  /-- by core, TIME.NS32 as its pre-emption request was made (R542) -/
  asked : Tab Nat
  choices : Nat
  deriving DecidableEq, Repr

/-- A frame held in a replay buffer (11 R420). -/
structure OutFrame where
  f : Frame
  port : Nat
  sends : Nat
  lastSent : Nat
  /-- TRIB.RETRY_CFG as its transfer was issued (R447) -/
  cfg : Word
  deriving DecidableEq, Repr

/-- A destination of Tributary frames (11 R416, R420 to R423). -/
structure DestSt where
  next : Nat
  out : List OutFrame
  unreach : Bool
  deriving DecidableEq, Repr

/-- A source of Tributary frames (11 R417 to R427): `c` is the next value all frames below which have been received. -/
structure SrcSt where
  c : Nat
  got : List Nat
  held : List Frame
  /-- transfers whose end in error is still to be acknowledged (07 R271) -/
  errs : List Nat
  /-- tick at which the open gap opened or was last reported -/
  gapAt : Option Nat
  ackOwed : Bool
  /-- port on which its last frame came in -/
  port : Nat
  deriving DecidableEq, Repr

/-- A lease offer: leaser, address, lease time in ms, port it came in on. -/
structure LeaseOffer where
  leaser : BitVec 128
  addr : Nat
  ms : Nat
  port : Nat
  deriving DecidableEq, Repr

/-- What a transfer of the device over the fabric waits for (11 R421). -/
structure Remote where
  xfer : Nat
  dst : Nat
  write : Bool
  /-- frames or bytes still to be acknowledged or landed -/
  left : Nat
  /-- the transfer that waits: (core * 2 + engine) * 2^16 + its number, with engine 1 for SO -/
  who : Nat
  err : Bool
  basin : Nat
  deriving DecidableEq, Repr

/-- The Tributary transport (11_confluence_ports.md). -/
structure Trib where
  dest : Tab DestSt
  src : Tab SrcSt
  xfer : Nat
  remotes : List Remote
  leaser : BitVec 128
  leaseMs : Nat
  /-- tick of the grant, and the port it came in on -/
  leasedAt : Nat
  leasePort : Nat
  offers : List LeaseOffer
  /-- tick of the first offer, and the leaser requested -/
  firstOffer : Option Nat
  requested : Option (BitVec 128)
  /-- the lease service: enabled, pool base, pool count, lease ms, table and open offers -/
  service : Bool
  poolBase : Nat
  poolCount : Nat
  poolMs : Nat
  table : List (BitVec 128 × Nat)
  open_ : List (BitVec 128 × Nat × Nat)
  deriving DecidableEq, Repr

/-- A frame in a forwarding queue (11 R444 to R446; 12 R465): port it came in on, ingress timestamp (counter's nanoseconds
with 8 fractional bits), whether it is a PTP Sync or Delay_Req. -/
structure FwdFrame where
  from_ : Nat
  size : Nat
  prio : Nat
  stamp : Nat
  event : Bool
  bytes : List Byte
  deriving DecidableEq, Repr

/-- A Confluence port (11 R399 to R405, R420, R444 to R446). -/
structure Port where
  link : Bool
  an : Bool
  fec : Nat
  /-- bytes held in the replay buffer -/
  replay : Nat
  /-- frames to forward from this port, in order of arrival -/
  fwd : List FwdFrame
  paused : Bool
  deriving DecidableEq, Repr

/-- The fronthaul unit (11 R435 to R443). -/
structure Fh where
  /-- ecpriSeqid last seen per receive eAxC entry, next per transmit entry -/
  seqRx : Tab Nat
  seqTx : Tab Nat
  /-- delivered PRBs: carrier, symbol, antenna, PRB -/
  prbs : List (Nat × SymId × Nat × Nat)
  deriving DecidableEq, Repr

/-- A remap in progress or waiting (15 R565, R566). -/
structure Remap where
  phys : Nat
  logical : Nat
  deriving DecidableEq, Repr

/-- Fault handling (15_faults.md). -/
structure Flt where
  /-- suspect marks: core and tick (R573) -/
  marks : List (Nat × Nat)
  remaps : List Remap
  taken : List Nat
  /-- cores queued for test ahead of the rest, core and segment under test, cores with a first mismatch -/
  queue : List Nat
  test : Option (Nat × Nat)
  mism : List (Nat × Nat)
  /-- cores in test order: next core and segment; segment of the core queued first -/
  next : Nat × Nat
  qseg : Nat
  /-- checking level in force, and the level selected for the next start or change (R569) -/
  check : Nat
  checkNext : Nat
  /-- Weir units with a wrong known answer: quad * 16 + unit -/
  kat : List Nat
  /-- tick of the entry into the spillway state, and the log slot of its entry (R578) -/
  spillAt : Nat
  spillSlot : Nat
  /-- a unit was fenced: the service offered is to be established again (16 R625) -/
  recheck : Bool
  deriving DecidableEq, Repr

/-- Power (16 R586 to R609): domains on, outputs in mV * 10, floors and ramp targets per core. -/
structure Pwr where
  dom : Tab Nat
  mv : Tab Nat
  bubble : Nat
  floor : Tab Nat
  target : Tab Nat
  /-- intervals in a row in which the channels differ -/
  diverge : Nat
  tripRun : Tab Nat
  warnArmed : Bool
  hotArmed : Bool
  /-- passes and filler issued in the current 64-cycle window, by core -/
  filler : Tab Nat
  windowed : Tab Nat
  /-- ticks at which each domain's output was last lowered (R605) -/
  lowered : Tab Nat
  /-- reports of low slack in a row at the fused maximum (R606), and the tick of the last report not above the high threshold
  (R605) -/
  slackLow : Tab Nat
  notHigh : Tab Nat
  /-- cores to switch off once their floors are zero (R624) -/
  dying : List Nat
  deriving DecidableEq, Repr

/-- A stop, change and restart procedure in progress (16 R620 to R624). -/
structure Proc where
  /-- 0 start, 1 stop, 2 change, 3 time set -/
  kind : Nat
  mask : Nat
  /-- 0 waits for S, 1 stopped, 2 applied -/
  phase : Nat
  /-- highest numerology of the carriers affected -/
  mu : Nat
  /-- S, the begin of the apply phase, and R, in the form of TIME.NS32 -/
  s : Nat
  ap : Nat
  r : Nat
  /-- TIME_SET: the counter, SUBSEC and frame count to load -/
  setNs : Nat
  setSub : Nat
  setSfn : Nat
  deriving DecidableEq, Repr

/-- Functions and carriers (13 R504, 16 R619 to R626). -/
structure Func where
  staged : Tab CarrierRec
  applied : Tab CarrierRec
  refused : List Nat
  started : Nat
  proc : Option Proc
  deriving DecidableEq, Repr

/-- The device's state as a whole (16 R610 to R616; 15 R578 to R581). -/
inductive Mode where
  /-- no always-on supply; PORST_N low; release held for the rails; boot ROM in recovery; running; spillway -/
  | off | porLow | relHeld | recovery | running | spill
  deriving DecidableEq, Repr

/-- Fuses (00 R2, R7; 16 R604, R606, R614). -/
structure Fuses where
  stepMajor : Fin 4
  stepMinor : Fin 4
  enabled : Fin 49
  tempI : Bool
  uid : BitVec 128
  rollback : Fin 64
  revoked : List (Fin 4)
  disabled : List (Fin 52)
  /-- 10 * mV -/
  vMin : Nat
  vMax : Nat
  deriving DecidableEq, Repr

/-- Boot and firmware (16 R612 to R617). -/
structure Boot where
  facts : BootFacts
  slotA : Option FwSlot
  slotB : Option FwSlot
  preferB : Bool
  runB : Bool
  staged : Option Bool
  /-- a warm or cold reset requested by DEVICE_RESET (R611) -/
  resetReq : Option Nat
  perst : Bool
  watchdog : Bool
  /-- the host domain is up; VFs enabled -/
  hostUp : Bool
  numVf : Nat
  deriving DecidableEq, Repr

/-- The loaded flow image (01 R19 to R25; 16 R617). -/
structure Image where
  file : Option ImageFile
  deriving DecidableEq, Repr

/-- TAP and pins (18_pins_package.md). -/
inductive TapIns where
  | bypass | idcode | sample | extest | clamp | highz | extestPulse | extestTrain
  deriving DecidableEq, Repr

/-- Pins (18 R667 to R673): the TAP's instruction, what the boundary cells have captured, and what has been preloaded into those
that drive. -/
structure Pins where
  tap : TapIns
  boundary : List (Pin × Bool)
  preload : List (Pin × Bool)
  spillN : Bool
  agc : Tab Nat
  deriving DecidableEq, Repr

end Sys2Proof.Machine
end

