-- ==== Sys2Proof/Machine/State.lean ====
section
/-! DEFINITION. The device's state, the reasons a step can stop, and the state after a power-on reset. -/
namespace Sys2Proof.Machine

/-- Faults. None: every command of the table has an effect that the manual gives, and a hole, an error or an illegal
bundle is an effect on the state (07 R240, 05 R165). -/
inductive Fault where
  deriving DecidableEq, Repr

/-- Refusals. -/
inductive Refusal where
  /-- a command whose meaning the model does not have; raised by Dispatch's arms alone; safe -/
  | notModelled (mnemonic : String)
  deriving DecidableEq, Repr

/-- The state of the device. -/
structure State where
  /-- commands that wait, first in first out -/
  pending : List Instr
  /-- index of the next free value (the model's own field; assumption 2) -/
  freeCtr : Nat
  /-- outputs of the last command (the model's own record) -/
  outs : List Out
  mode : Mode
  fuses : Fuses
  boot : Boot
  ctl : Ctl
  time : TimeSt
  /-- physical cores 0 to 51 -/
  cores : Tab Core
  /-- logical-to-physical map; 255 = no core -/
  l2p : Tab Nat
  /-- fenced units by kind * 64 + number: 1 by fault, 2 by FENCE (15 R563, R568) -/
  fences : Tab Nat
  /-- DRAM and pool bytes by local address -/
  mem : Tab Byte
  /-- poisoned protected words: pool words by address / 8 * 2 + 1, DRAM granules by address / 64 * 2 (07 R244, R251) -/
  poison : List Nat
  /-- host memory -/
  host : Tab Byte
  arbs : Tab Arb
  /-- scrubber positions: clusters 0 to 3, DRAM 4; KiB read in this period at 5 (07 R245, R252) -/
  scrub : Tab Nat
  dramOn : Bool
  dramPairs : List Nat
  refreshX2 : List Nat
  img : Image
  func : Func
  mbx : Tab Mbx
  wq : List Nat
  async : List AsyncWork
  basins : Tab Basin
  aeq : Ring
  aeqShadow : Ring
  /-- the admin shadow is to be written -/
  aeqDue : Bool
  /-- events that found the admin event ring full -/
  aeqLost : Nat
  atu : Atu
  smb : Smb
  sched : Sched
  trib : Trib
  ports : Tab Port
  fh : Fh
  flt : Flt
  pwr : Pwr
  pins : Pins
  /-- the receiver pipelines of clusters 0 to 3 -/
  rx : Tab Rx
  tx : Tx
  /-- Weir quads 0 to 3 -/
  weir : Tab Weir
  bkw : Bkw
  dfe : Dfe
  deriving DecidableEq, Repr

/-- The fuses of the part the model stands for: an OHN-4820-48C, stepping A0, the last core of each cluster unused
(00 R2, R7; assumption 5). -/
def Fuses.reset : Fuses where
  stepMajor := 0
  stepMinor := 0
  enabled := 48
  tempI := false
  uid := 1
  rollback := 0
  revoked := []
  disabled := [12, 25, 38, 51]
  vMin := 6000
  vMax := 8500

/-- Straps at the defaults of the internal pulls (18 R668), and no failing channel or domain. -/
def BootFacts.reset : BootFacts where
  hostEn := true
  smbFixed := false
  smbAddr := 0
  recovery := false
  dramCh := 0
  dramDen := 0
  railsOk := true
  badPairs := []
  badDomains := []

/-- Boot state before the release of PORST_N; the flash holds a valid image in slot A (assumption 5). -/
def Boot.reset : Boot where
  facts := BootFacts.reset
  slotA := some { wellFormed := true, key := 0, sigOk := true, rollback := 0, version := 1 }
  slotB := none
  preferB := false
  runB := false
  staged := none
  resetReq := none
  perst := false
  watchdog := false
  hostUp := false
  numVf := 0

/-- Register space with every register at its reset value. -/
def Ctl.reset : Ctl where
  regs := []
  eff := []
  path := []
  locks := []
  lockAt := []
  bank := []
  log := []
  logKeys := []
  copied := []
  irq := []
  msix := []
  msixAt := []
  notifyAt := []
  notifyDue := []
  shadowAt := []
  bars := []

/-- The timebase as the always-on domain leaves reset (12 R448, R450, R451). -/
def TimeSt.reset : TimeSt where
  ticks := 0
  last := 0
  cnt := 0
  sub := 0
  inc := 0x0411AAAAAAAA
  incPend := none
  slew := 0
  rate := 0
  adjPend := none
  goPend := false
  sfn := 0
  adv := 0
  advPend := none
  clock := 0
  source := 0
  everLocked := false
  inLock := 0
  master := none
  t1 := none
  corr := none
  t2 := none
  t3 := none
  pathDelay := 0
  portDelay := []
  ppsMissed := 0
  ppsOut := false
  ppsLeft := 0
  synceLow := false
  step := 1
  frameTick := false
  meas := 0

/-- A disabled ring (13 R506). -/
def Ring.reset : Ring := ⟨0, 0, 0, 0, 0, 0⟩

/-- Job and budget state with nothing fetched. -/
def Sched.reset : Sched where
  recs := []
  jobs := []
  nextRec := 0
  used := []
  budget := []
  tele := []
  teleWait := none
  spills := []
  asked := []
  choices := 0

/-- The transport before the first lease (11 R429). -/
def Trib.reset : Trib where
  dest := []
  src := []
  xfer := 0
  remotes := []
  leaser := 0
  leaseMs := 0
  leasedAt := 0
  leasePort := 0
  offers := []
  firstOffer := none
  requested := none
  service := false
  poolBase := 0
  poolCount := 0
  poolMs := 0
  table := []
  open_ := []

/-- Fault handling with nothing recorded; checking level 3 (15 R570, FAULT.CHECK). -/
def Flt.reset : Flt where
  marks := []
  remaps := []
  taken := []
  queue := []
  test := none
  mism := []
  next := (0, 0)
  qseg := 0
  check := 3
  checkNext := 3
  kat := []
  spillAt := 0
  spillSlot := 0
  recheck := false

/-- Power with every switched domain off. -/
def Pwr.reset : Pwr where
  dom := []
  mv := []
  bubble := 0
  floor := []
  target := []
  diverge := 0
  tripRun := []
  warnArmed := true
  hotArmed := true
  filler := []
  windowed := []
  lowered := []
  slackLow := []
  notHigh := []
  dying := []

/-- Pins while PORST_N is low (18 R673). -/
def Pins.reset : Pins where
  tap := .idcode
  boundary := []
  preload := []
  spillN := true
  agc := []

/-- The device right after power-on reset (16 R610): everything reset, PORST_N low. PORST_N_RELEASE boots it. -/
def State.reset : State where
  pending := []
  freeCtr := 0
  outs := []
  mode := .porLow
  fuses := Fuses.reset
  boot := Boot.reset
  ctl := Ctl.reset
  time := TimeSt.reset
  cores := []
  l2p := []
  fences := []
  mem := []
  poison := []
  host := []
  arbs := []
  scrub := []
  dramOn := false
  dramPairs := []
  refreshX2 := []
  img := ⟨none⟩
  func := ⟨[], [], [], 0, none⟩
  mbx := []
  wq := []
  async := []
  basins := []
  aeq := Ring.reset
  aeqShadow := Ring.reset
  aeqDue := false
  aeqLost := 0
  atu := ⟨[], []⟩
  smb := ⟨0, false, false, false, false⟩
  sched := Sched.reset
  trib := Trib.reset
  ports := []
  fh := ⟨[], [], []⟩
  flt := Flt.reset
  pwr := Pwr.reset
  pins := Pins.reset
  rx := []
  tx := Tx.reset
  weir := []
  bkw := Bkw.reset
  dfe := Dfe.reset

end Sys2Proof.Machine
end

