-- ==== Sys2Proof/Machine/Flags.lean ====
section
/-! DEFINITION. Register space: decode, plain register access, the event bits of status registers and fault words with
their SEQ (17 R646), interrupts (15 R557, R558; 13 R484) and the fault log (15 R560). -/
namespace Sys2Proof.Machine

/-- The block and base of a slot of region 0x0 (17 R637). -/
def csrSlot0 : Nat → Blk × Nat
  | 1 => (.timeB, 0x1000)
  | 2 => (.faultB, 0x2000)
  | 3 => (.pwrB, 0x3000)
  | 4 => (.catchB, 0x4000)
  | 5 => (.hostB, 0x5000)
  | 6 => (.schedB, 0x6000)
  | 7 => (.detB, 0x7000)
  | 8 => (.bkwB, 0x8000)
  | 9 => (.dramB, 0x9000)
  | 10 => (.txpB, 0xA000)
  | 12 => (.logWin, 0xC000)
  | 13 => (.logWin, 0xD000)
  | _ => (.chipB, 0)

/-- The block and base of a region and slot; an unpopulated slot is slot 0 of its region, an unpopulated region is
region 0x0 (17 R636, R637). -/
def csrSlot (enabled region slot : Nat) : Blk × Nat :=
  match region with
  | 1 => (.coreB, 0x100000 + (if slot < enabled then slot else 0) * 0x1000)
  | 2 => (.coreB, 0x200000 + (if slot < 52 then slot else 0) * 0x1000)
  | 3 =>
    match slot % 16 with
    | 1 => (.rxpB, 0x301000 + slot / 16 * 0x10000)
    | 2 => (.weirB, 0x302000 + slot / 16 * 0x10000)
    | 0 => (.poolB, 0x300000 + slot / 16 * 0x10000)
    | _ => (.poolB, 0x300000)
  | 4 =>
    if slot < 8 then (.cpB, 0x400000 + slot * 0x1000)
    else if slot = 8 then (.tribB, 0x408000)
    else if slot = 9 then (.fhB, 0x409000)
    else if slot = 10 then (.pgrpB, 0x40A000)
    else if slot = 11 then (.pgrpB, 0x40B000)
    else (.cpB, 0x400000)
  | 5 => if 1 ≤ slot ∧ slot ≤ 12 then (.cfgMem, 0x500000 + slot * 0x1000) else (.dfeB, 0x500000)
  | 6 => if 1 ≤ slot ∧ slot ≤ 9 then (.mbxB, 0x600000 + slot * 0x1000) else (.mbxsB, 0x600000)
  | _ => csrSlot0 slot

/-- Where a CSR offset lands: block, base offset of the block, aligned offset in the block (17 R633 to R636). -/
def csrAt (enabled off : Nat) : Blk × Nat × Nat :=
  let bb := csrSlot enabled (bits off 23 20) (bits off 17 12)
  (bb.1, bb.2, off % bb.1.size / 4 * 4)

/-- The reset value of the register at a first CSR offset. -/
def regDefault (a : Nat) : Word :=
  let c := csrAt 48 a
  c.1.rst c.2.2

/-- Kinds of the arrays behind selectors. -/
@[reducible] def bankRouteBase : Nat := 0
@[reducible] def bankRouteMask : Nat := 1
@[reducible] def bankEaxc : Nat := 2
@[reducible] def bankPeerLo : Nat := 3
@[reducible] def bankPeerHi : Nat := 4
@[reducible] def bankMin : Nat := 5
@[reducible] def bankMax : Nat := 6
@[reducible] def bankLaneCrc : Nat := 7
@[reducible] def bankAtt : Nat := 8
@[reducible] def bankTemp : Nat := 9
@[reducible] def bankCatch : Nat := 11
/-- copies of the eAxC and peer tables in force since the ports' start (11 R447) -/
@[reducible] def bankEaxcEff : Nat := 12
@[reducible] def bankPeerLoEff : Nat := 13
@[reducible] def bankPeerHiEff : Nat := 14
/-- the front end's configuration memory, by word (17 R644), and its copy in use -/
@[reducible] def bankCfg : Nat := 15
@[reducible] def bankCfgEff : Nat := 16

/-- The value of an unwritten array entry: a catchment fault word with no first leaf (01 R28), else zero. -/
def bankDefault (k : Nat) : Word := if k / 2 ^ 20 = bankCatch then 0x000FFF00 else 0

/-- The value of an unwritten copy of a register: its reset value. -/
def pathDefault (k : Nat) : Word := regDefault (k % 2 ^ 24)

namespace Ctl

/-- A register by its first CSR offset. -/
def reg (c : Ctl) (a : Nat) : Word := tget regDefault c.regs a

/-- Sets a register. -/
def setReg (c : Ctl) (a : Nat) (v : Word) : Ctl := { c with regs := tput regDefault c.regs a v }

/-- The copy of a register that is in force. -/
def inForce (c : Ctl) (a : Nat) : Word := tget regDefault c.eff a

/-- Takes a register's value into force. -/
def take (c : Ctl) (a : Nat) : Ctl := { c with eff := tput regDefault c.eff a (c.reg a) }

/-- An entry of a selected array. -/
def arr (c : Ctl) (kind i : Nat) : Word := tget bankDefault c.bank (kind * 2 ^ 20 + i)

/-- Sets an entry of a selected array. -/
def setArr (c : Ctl) (kind i : Nat) (v : Word) : Ctl := { c with bank := tput bankDefault c.bank (kind * 2 ^ 20 + i) v }

/-- A path's copy of a selector or of a latched half (17 R632). -/
def sel (c : Ctl) (p a : Nat) : Word := tget pathDefault c.path (p * 2 ^ 24 + a)

/-- Sets a path's copy. -/
def setSel (c : Ctl) (p a : Nat) (v : Word) : Ctl := { c with path := tput pathDefault c.path (p * 2 ^ 24 + a) v }

/-- Adds to a counter, modulo 2^32. -/
def count (c : Ctl) (a n : Nat) : Ctl := c.setReg a (c.reg a + BitVec.ofNat 32 n)

/-- An MSI-X message waits (13 R484: a waiting one covers later events). -/
def want (c : Ctl) (func vec : Nat) : Ctl :=
  if func * 32 + vec ∈ c.msix then c else { c with msix := c.msix ++ [func * 32 + vec] }

end Ctl

/-- A status word with event bit `b` set and SEQ advanced (17 R646). -/
def evSet (w : Word) (b : Nat) : Word :=
  BitVec.ofNat 32 ((w.toNat / 2 ^ 24 + 1) % 256 * 2 ^ 24 + ((w.toNat % 2 ^ 24) ||| 2 ^ b))

/-- A clear-by-sequence write of `v` to a status word with WSEQ bits `ev` (17 R647). -/
def evClear (w v : Word) (ev : Nat) : Word :=
  if v.toNat / 2 ^ 24 = w.toNat / 2 ^ 24 then w &&& ~~~(v &&& BitVec.ofNat 32 ev) else w

/-- The row of the register at a first CSR offset. -/
def rowAt (a : Nat) : Option RegRow :=
  let c := csrAt 48 a
  c.1.row c.2.2

/-- The enable bit of an event: the block's enable register, where it has one. -/
def Ctl.enabledAt (c : Ctl) (a b : Nat) : Bool :=
  let p := csrAt 48 a
  match p.1.enable p.2.2 with
  | some e => bitOf (c.reg (p.2.1 + e)).toNat b
  | none => false

namespace Ctl

/-- A HOST or FAULT status bit that its enable lets through raises PF vector 2 (13 R484, 15 FAULT.IRQ_EN). -/
def vec2 (c : Ctl) (a b : Nat) : Ctl :=
  if (a = Reg.HOST_STATUS ∨ a = Reg.FAULT_STATUS) ∧ c.enabledAt a b then c.want 0 2 else c

/-- Sets an event bit and advances SEQ, without log. -/
def rawEvent (c : Ctl) (a b : Nat) : Ctl := (c.setReg a (evSet (c.reg a) b)).vec2 a b

/-- Writes the eight words of an entry, from word `i` on. -/
def putWords (c : Ctl) (i : Nat) : List Word → Ctl
  | [] => c
  | w :: ws => putWords { c with log := tput (fun _ => 0) c.log i w } (i + 1) ws

/-- Writes a fault-log entry (15 R560); `ws` makes its words from LOGSEQ. -/
def logEntry (c : Ctl) (ws : Word → List Word) : Ctl :=
  let head := (c.reg Reg.FAULT_LOG_HEAD).toNat
  let slot := head % 256
  let c := if 256 ≤ head ∧ slot ∉ c.copied
    then (c.count Reg.FAULT_LOG_OVF 1).rawEvent Reg.FAULT_STATUS Ev.FAULT_LOG_OVF else c
  let c := { c with copied := c.copied.filter (fun x => x ≠ slot) }
  (c.putWords (slot * 8) (ws (BitVec.ofNat 32 head))).count Reg.FAULT_LOG_HEAD 1

/-- The entry just logged is of the event with this key: its register * 32 + its bit. -/
def keyed (k : Nat) (c : Ctl) : Ctl := { c with logKeys := c.logKeys ++ [k] }

/-- Inserts a keyed entry behind those with keys up to its own. -/
def insertKeyed (e : Nat × List Word) : List (Nat × List Word) → List (Nat × List Word)
  | [] => [e]
  | x :: t => if e.1 < x.1 then e :: x :: t else x :: insertKeyed e t

/-- The entries that the command has logged, brought into ascending order of their blocks' CSR region, block and bit (15 R561):
LOGSEQ counts on in that order. -/
def sortLog (c : Ctl) : Ctl :=
  if c.logKeys.isEmpty then c
  else
    let n := min 256 c.logKeys.length
    let first := (c.reg Reg.FAULT_LOG_HEAD).toNat + 2 ^ 32 - n
    let words (i : Nat) : List Word := (List.range 8).map fun w => tget (fun _ => 0) c.log ((first + i) % 256 * 8 + w)
    let es := ((c.logKeys.drop (c.logKeys.length - n)).zipIdx.map fun k => (k.1, words k.2)).foldl (fun l e => insertKeyed e l) []
    let c := es.zipIdx.foldl (fun (c : Ctl) e =>
      let seq := BitVec.ofNat 32 (first + e.2)
      c.putWords ((first + e.2) % 256 * 8) (e.1.2.set (if bits ((e.1.2.headD 0).toNat) 7 0 = 1 then 8 else 4) seq)) c
    { c with logKeys := [] }

/-- The words of an entry of kinds 0x02 to 0x0A (15, table "Fault-log entry"). -/
def entryWords (kind cls unit : Nat) (word info addr : Word) (basin : Nat) (ns seq : Word) : List Word :=
  [BitVec.ofNat 32 (kind + cls * 256 + unit * 65536), word, info, addr, seq, BitVec.ofNat 32 basin, ns, 0]

/-- Kind, unit and fault-address register of a block's entry. -/
def logUnit (a : Nat) : Nat × Nat × Option Nat :=
  let p := csrAt 48 a
  match p.1 with
  | .poolB => (3, (p.2.1 - 0x300000) / 0x10000, some (p.2.1 + 0x24))
  | .weirB => (4, (p.2.1 - 0x302000) / 0x10000, some (p.2.1 + 0x54))
  | .pgrpB => (5, (p.2.1 - 0x40A000) / 0x1000, some (p.2.1 + 8))
  | .dramB => (6, p.2.1 / 0x1000, some (p.2.1 + 0x20))
  | .faultB => (6, p.2.1 / 0x1000, some (p.2.1 + 0x44))
  | _ => (6, p.2.1 / 0x1000, none)

/-- An event of a block other than a core: bit and SEQ, the interrupt to Wellhead that its class and enable give, and
the fault-log entry that Wellhead writes for a recoverable or fencing event it receives (15 R557, R558). -/
def event (ns : Word) (c : Ctl) (a b : Nat) : Ctl :=
  let c := c.rawEvent a b
  match rowAt a with
  | none => c
  | some r =>
    let u := logUnit a
    let info := match u.2.2 with
      | some f => c.reg f
      | none => 0
    let cls := if bitOf r.fen b then 2 else if bitOf r.recov b then 1 else 0
    if cls = 2 ∨ c.enabledAt a b = true then
      let c := { c with irq := tput (fun _ => 0) c.irq a (tget (fun _ => 0) c.irq a + 1) }
      if cls = 0 then c else (c.logEntry (entryWords u.1 cls u.2.1 (c.reg a) info 0 0 ns)).keyed (a * 32 + b)
    else c

end Ctl

/-- The integer nanoseconds of the counter (12 R448). -/
def TimeSt.ns32 (t : TimeSt) : Word := BitVec.ofNat 32 (t.cnt.toNat / 2 ^ 40)

namespace State

/-- TIME.NS32. -/
def ns32 (s : State) : Word := s.time.ns32

/-- An event of a block (15 R555 to R560). -/
def event (a b : Nat) (s : State) : State := { s with ctl := Ctl.event s.ns32 s.ctl a b }

/-- A register by its first CSR offset. -/
def reg (s : State) (a : Nat) : Word := s.ctl.reg a

/-- Sets a register. -/
def setReg (a : Nat) (v : Word) (s : State) : State := { s with ctl := s.ctl.setReg a v }

/-- Adds to a counter. -/
def count (a n : Nat) (s : State) : State := { s with ctl := s.ctl.count a n }

/-- Sets a register where the condition holds. -/
def latchIf (c : Bool) (a : Nat) (v : Word) (s : State) : State := if c then s.setReg a v else s

/-- No event bit of a status register is set. -/
def quiet (s : State) (a : Nat) : Bool := (s.reg a).toNat % 2 ^ 24 == 0

/-- Puts out. -/
def emit (o : Out) (s : State) : State := { s with outs := s.outs ++ [o] }

/-- The device performs commands: not without supply, in reset, held or in the spillway state (15 R579 to R581,
16 R610). -/
def awake (s : State) : Bool := s.mode == .running || s.mode == .recovery

end State

end Sys2Proof.Machine
end

