-- ==== Sys2Proof/Machine/CoreOps.lean ====
section
/-! DEFINITION. One core: its fault word, local-memory accesses, the slots of a bundle and how the sequencer goes on
(04_core.md R144 to R160, 05_instruction_set.md R163 to R202). -/
namespace Sys2Proof.Machine

/-- Bits of FLAGS (05 R166). -/
@[reducible] def flSat : Nat := 1
@[reducible] def flDz : Nat := 2
@[reducible] def flChk : Nat := 4
@[reducible] def flErr : Nat := 8
@[reducible] def flAbandon : Nat := 16

/-- Offsets in the CORE block (04, table "CORE registers"). -/
@[reducible] def cFAULTWORD : Nat := 0x00
@[reducible] def cIRQ_EN : Nat := 0x04
@[reducible] def cFAULT_INFO : Nat := 0x08
@[reducible] def cFAULT_ADDR : Nat := 0x0C
@[reducible] def cCHKCFG : Nat := 0x10
@[reducible] def cCHKREC : Nat := 0x14
@[reducible] def cCHK_CNT : Nat := 0x18
@[reducible] def cCHK_SKIP_CNT : Nat := 0x1C
@[reducible] def cCORR_CNT : Nat := 0x20
@[reducible] def cSTALL_TILE : Nat := 0x24
@[reducible] def cSTALL_BANK : Nat := 0x28
@[reducible] def cSTALL_SLUICE : Nat := 0x2C
@[reducible] def cSLUICE_DONE : Nat := 0x30
@[reducible] def cSLUICE_ERR : Nat := 0x34
@[reducible] def cBASIN : Nat := 0x38
@[reducible] def cMODE : Nat := 0x3C

/-- What a core sees of the device: TIME.NS32, its logical number, TIME.LATE_LIMIT. -/
structure CoreEnv where
  ns32 : Word
  lcore : Nat
  lateLimit : Nat
  deriving DecidableEq, Repr

namespace Core

/-- Adds to a 32-bit counter of the CORE block (R159). -/
def count (off n : Nat) (c : Core) : Core := c.setReg off (c.reg off + BitVec.ofNat 32 n)

/-- Sets bits of FLAGS; those set in this cycle outlast a MOVS write of it (05 R167). -/
def flag (f : Nat) (c : Core) : Core := { c with flags := c.flags ||| f, raised := c.raised ||| f }

/-- Sets an event bit of CORE.FAULTWORD; the first one after the word's event bits were all zero latches FAULT_INFO and
FAULT_ADDR (R157, R158). -/
def raise (bit unit bundle : Nat) (addr : Word) (c : Core) : Core :=
  let w := c.reg cFAULTWORD
  let q := w.toNat % 2 ^ 15 == 0
  let c := c.setReg cFAULTWORD (evSet w bit)
  let c := if q then (c.setReg cFAULT_INFO (BitVec.ofNat 32 (bit * 65536 + unit * 4096 + bundle))).setReg cFAULT_ADDR addr else c
  { c with evs := c.evs ++ [bit] }

/-! ## Local memory (R144, R146, R147) -/

/-- The uncorrectable 8-byte words that an access touches. -/
def lmBad (c : Core) (off n : Nat) : List Nat := c.lmErr.filter fun w => decide (off / 8 ≤ w ∧ w ≤ (off + n - 1) / 8)

/-- Records that a read of local memory met uncorrectable words. -/
def lmReadFault (off n bundle : Nat) (c : Core) : Core :=
  match c.lmBad off n with
  | [] => c
  | w :: _ => (c.flag flErr).raise 1 5 bundle (BitVec.ofNat 32 (w * 8))

/-- Writes local memory: words covered whole lose their error, partly covered ones keep it and are recorded (R144). -/
def writeLm (off bundle : Nat) (bs : List Byte) (c : Core) : Core :=
  let n := bs.length
  let whole (w : Nat) : Bool := decide (off ≤ w * 8 ∧ w * 8 + 8 ≤ off + n)
  let part := (c.lmBad off n).filter fun w => !whole w
  let c := { c with lm := writeBytes c.lm off bs, lmErr := c.lmErr.filter fun w => !whole w }
  match part with
  | [] => c
  | w :: _ => c.raise 1 5 bundle (BitVec.ofNat 32 (w * 8))

/-- Bytes of a 256-byte line. -/
def lineBytes (ws : List Word) : List Byte := ws.flatMap fun w => leBytes 4 w.toNat

/-! ## Upsets (R147, R157) -/

/-- The bits that an uncorrectable error has changed in its store. -/
def flipStore (u : Upset) (c : Core) : Core :=
  match u.store with
  | .localMem =>
    let a := u.addr / 8 * 8
    let v := leNat (readBytes c.lm a 8) ^^^ u.flip % 2 ^ 64
    { c with lm := writeBytes c.lm a (leBytes 8 v), lmErr := if u.addr / 8 ∈ c.lmErr then c.lmErr else c.lmErr ++ [u.addr / 8] }
  | .laneStore =>
    { c with ls := tput (fun _ => 0) c.ls (u.addr % 65536) (tget (fun _ => 0) c.ls (u.addr % 65536) ^^^ BitVec.ofNat 32 u.flip) }
  | .tile =>
    let t := u.addr / 4096 % 4
    let r := u.addr / 64 % 64
    let x := c.tile t
    c.setTile t (x.put r (u.addr % 64) (x.word r (u.addr % 64) ^^^ BitVec.ofNat 32 u.flip))
  | .elem =>
    let l := c.er.getD (u.addr / 64 % 16) []
    { c with er := c.er.set (u.addr / 64 % 16) (l.set (u.addr % 64) (l.getD (u.addr % 64) 0 ^^^ BitVec.ofNat 32 u.flip)) }
  | .codebook =>
    let a := u.addr % 4096 / 4 * 4
    { c with cb := writeBytes c.cb a (leBytes 4 (leNat (readBytes c.cb a 4) ^^^ u.flip % 2 ^ 32)) }
  | .instrMem => { c with im := tput (fun _ => 0) c.im (u.addr % 4096) (c.bundle (u.addr % 4096) ^^^ BitVec.ofNat 128 u.flip) }
  | .sequencer => { c with g := tput (fun _ => 0) c.g (u.addr % 32) (c.gr (u.addr % 32) ^^^ BitVec.ofNat 32 u.flip) }

/-- The fault-word bit and unit of a store. -/
def storeBit : CoreStore → Nat × Nat
  | .localMem => (1, 5)
  | .laneStore => (2, 1)
  | .tile => (3, 1)
  | .elem => (4, 2)
  | .codebook => (5, 1)
  | .instrMem => (7, 0)
  | .sequencer => (8, 0)

/-- An access meets an upset: corrected and counted, or recorded with the data as stored (R147). An uncorrectable word of
local memory is recorded by the access that reads it (`lmReadFault`, `writeLm`). -/
def upset (bundle : Nat) (c : Core) (u : Upset) : Core :=
  let b := storeBit u.store
  let at_ : Word := if b.1 = 1 then BitVec.ofNat 32 (u.addr / 8 * 8) else 0
  if !u.uncorr then (c.count cCORR_CNT 1).raise 0 b.2 bundle at_
  else if b.1 = 1 then c.flipStore u
  else
    let c := c.flipStore u
    (if b.1 ≤ 5 then c.flag flErr else c).raise b.1 b.2 bundle 0

/-- A list of upsets. -/
def upsets (bundle : Nat) (us : List Upset) (c : Core) : Core := us.foldl (upset bundle) c

/-- What uncorrectable errors have changed in the operands of a running pass (R147). -/
def flipSrc (us : List Upset) (s : Src) (c : Core) : Src :=
  let d := (us.filter (·.uncorr)).foldl (fun (d : Core) u => d.flipStore u) { c with lm := s.lm, ls := s.ls, tiles := s.tiles, cb := s.cb }
  { s with lm := d.lm, ls := d.ls, tiles := d.tiles, cb := d.cb }

/-! ## Results in flight (05 R168, R169) -/

/-- A result reaches its register. -/
def land (c : Core) (f : InFlight) : Core :=
  match f.dst with
  | .g n => { c with g := tput (fun _ => 0) c.g n (BitVec.ofNat 32 f.val) }
  | .a n => { c with a := tput (fun _ => 0) c.a n (BitVec.ofNat 64 f.val) }
  | .dec hi =>
    { c with decVis := if hi then c.decVis % 2 ^ 32 + f.val % 2 ^ 32 * 2 ^ 32 else c.decVis / 2 ^ 32 * 2 ^ 32 + f.val % 2 ^ 32 }
  | .decAll => { c with decVis := f.val }
  | .lmask hi =>
    { c with lmask := if hi then c.lmask % 2 ^ 32 + f.val % 2 ^ 32 * 2 ^ 32 else c.lmask / 2 ^ 32 * 2 ^ 32 + f.val % 2 ^ 32 }

/-- The results due in this cycle reach their registers, in the order of their bundles. -/
def arrive (c : Core) : Core :=
  let due := c.flight.filter fun f => decide (f.land ≤ c.cyc)
  due.foldl land { c with flight := c.flight.filter fun f => !decide (f.land ≤ c.cyc) }

/-- Puts a result into flight with a latency. -/
def send (dst : WDest) (lat val : Nat) (c : Core) : Core := { c with flight := c.flight ++ [⟨c.cyc + lat, dst, val⟩] }

/-- A result for a general register, with flags. -/
def putG (n lat : Nat) (r : Word × Nat) (c : Core) : Core := (c.flag r.2).send (.g n) lat r.1.toNat

end Core

/-! ## Scalar slots (05 R170 to R177, R184, R188 to R193) -/

/-- An ALU function: result, flags and latency (05, table "ALU function codes"; R168). -/
def aluFn (fn : Nat) (a b : Word) : (Word × Nat) × Nat :=
  let p : Int := sw a * sw b
  match fn with
  | 0x00 => ((a + b, 0), 1)
  | 0x01 => ((a - b, 0), 1)
  | 0x02 => (satRes (sw a + sw b), 1)
  | 0x03 => (satRes (sw a - sw b), 1)
  | 0x04 => ((a &&& b, 0), 1)
  | 0x05 => ((a ||| b, 0), 1)
  | 0x06 => ((a ^^^ b, 0), 1)
  | 0x07 => ((a &&& ~~~b, 0), 1)
  | 0x08 => ((sll a b.toNat, 0), 1)
  | 0x09 => ((srl a b.toNat, 0), 1)
  | 0x0A => ((sra a b.toNat, 0), 1)
  | 0x0B => (slls a b.toNat, 1)
  | 0x0C => ((if sw a ≤ sw b then a else b, 0), 1)
  | 0x0D => ((if sw b ≤ sw a then a else b, 0), 1)
  | 0x0E => ((if a.toNat ≤ b.toNat then a else b, 0), 1)
  | 0x0F => ((if b.toNat ≤ a.toNat then a else b, 0), 1)
  | 0x10 => ((if sw a < sw b then 1 else 0, 0), 1)
  | 0x11 => ((if a.toNat < b.toNat then 1 else 0, 0), 1)
  | 0x12 => ((a * b, 0), 2)
  | 0x13 => (satRes p, 2)
  | 0x14 => ((wordOfInt (p / (2 ^ 32 : Nat)), 0), 2)
  | 0x15 => ((BitVec.ofNat 32 (a.toNat * b.toNat / 2 ^ 32), 0), 2)
  | 0x16 => (divS a b, 8)
  | 0x17 => (divU a b, 8)
  | 0x18 => (remS a b, 8)
  | 0x19 => (remU a b, 8)
  | 0x1A => (satRes (-sw a), 1)
  | 0x1B => (satRes (sw a).natAbs, 1)
  | 0x1C => ((BitVec.ofNat 32 (clz a), 0), 1)
  | _ => ((BitVec.ofNat 32 (popc a), 0), 1)

/-- One butterfly: the word of two minima, the decisions, and SAT (R188). -/
def acsb (a b : Word) : Word × Nat × Nat :=
  let s (i : Int) : Int × Bool := clampS 16 i
  let p0 := sext 16 a.toNat
  let p1 := sext 16 (a.toNat / 65536)
  let bb := sext 16 b.toNat
  let c00 := s (p0 + bb)
  let c01 := s (p1 - bb)
  let c10 := s (p0 - bb)
  let c11 := s (p1 + bb)
  (BitVec.ofNat 32 (wrapN 16 (min c10.1 c11.1) * 65536 + wrapN 16 (min c00.1 c01.1)),
   (if c01.1 < c00.1 then 1 else 0) + (if c11.1 < c10.1 then 2 else 0),
   if c00.2 || c01.2 || c10.2 || c11.2 then fSat else 0)

/-- The comparison of a conditional branch. -/
def branchTaken (op : Nat) (a b : Word) : Bool :=
  match op with
  | 0x10 => a == b
  | 0x11 => a != b
  | 0x12 => decide (sw a < sw b)
  | 0x13 => decide (sw b ≤ sw a)
  | 0x14 => decide (a.toNat < b.toNat)
  | _ => decide (b.toNat ≤ a.toNat)

/-- What a bundle's scalar slots ask of the sequencer, beside the core itself. -/
structure Seq where
  c : Core
  /-- a branch stood in the bundle: its target if taken -/
  branch : Option (Option Nat)
  rep : Option (Nat × Nat)
  fin : Bool
  /-- the decision register was shifted by an ACSB -/
  shifted : Bool
  deriving DecidableEq, Repr

/-- A special register as the bundle reads it (05 R166). -/
def specialRead (e : CoreEnv) (c : Core) (n : Nat) : Word :=
  let gt := c.gate
  match n with
  | 0 => BitVec.ofNat 32 c.flags
  | 1 => e.ns32
  | 2 => gt.time
  | 3 =>
    BitVec.ofNat 32 (gt.tgt + (if gt.abn then 2 ^ 12 else 0) + (if gt.armed then 2 ^ 13 else 0) + (if gt.wh then 2 ^ 14 else 0))
  | 4 => BitVec.ofNat 32 c.decVis
  | 5 => BitVec.ofNat 32 (c.decVis / 2 ^ 32)
  | 6 => BitVec.ofNat 32 c.lmask
  | 7 => BitVec.ofNat 32 (c.lmask / 2 ^ 32)
  | 8 => BitVec.ofNat 32 c.cyc
  | 9 => BitVec.ofNat 32 e.lcore
  | 10 => BitVec.ofNat 32 c.rank
  | 11 => BitVec.ofNat 32 c.pcount
  | _ => BitVec.ofNat 32 ((c.reps[n - 12]?).map (·.left) |>.getD 0)

/-- A MOVS write to a special register other than FLAGS, which `issue` writes first: flags that an event sets in the
same cycle stay set (05 R167). -/
def specialWrite (n : Nat) (v : Word) (c : Core) : Core :=
  match n with
  | 0 => c
  | 4 => { c with dec := c.dec / 2 ^ 32 * 2 ^ 32 + v.toNat }.send (.dec false) 1 v.toNat
  | 5 => { c with dec := c.dec % 2 ^ 32 + v.toNat * 2 ^ 32 }.send (.dec true) 1 v.toNat
  | 6 => c.send (.lmask false) 1 v.toNat
  | _ => c.send (.lmask true) 1 v.toNat

/-- Whether a launch time has come: L = NS32 - time modulo 2^32 is not negative (12 R474). -/
def gateL (ns time : Word) : Int := (ns - time).toInt

/-- One scalar slot: operands from `old`, the core as the bundle found it; effects on `q` (05 R163). -/
def scalar (e : CoreEnv) (old : Core) (rhu : Bool) (v : Nat) (q : Seq) : Seq :=
  let rd := bits v 21 17
  let a := old.gr (bits v 16 12)
  let b := old.gr (bits v 11 7)
  let imm := bits v 11 0
  let g (lat : Nat) (r : Word × Nat) : Seq := { q with c := q.c.putG rd lat r }
  let br (taken : Bool) (t : Nat) : Seq := { q with branch := some (if taken then some t else none) }
  match sOp v with
  | 0x01 => let r := aluFn (bits v 6 0) a b; g r.2 r.1
  | 0x02 => g 1 (a + wordOfInt (sext 12 imm), 0)
  | 0x03 => g 1 (a &&& BitVec.ofNat 32 imm, 0)
  | 0x04 => g 1 (a ||| BitVec.ofNat 32 imm, 0)
  | 0x05 => g 1 (a ^^^ BitVec.ofNat 32 imm, 0)
  | 0x06 =>
    let n := bits v 9 4
    g 1 (match bits v 11 10 with
      | 0 => (sll a n, 0)
      | 1 => (srl a n, 0)
      | 2 => (sra a n, 0)
      | _ => slls a n)
  | 0x07 => g 1 (wordOfInt (sext 17 (bits v 16 0)), 0)
  | 0x08 => g 1 (BitVec.ofNat 32 (bits v 15 0 * 65536 + (old.gr rd).toNat % 65536), 0)
  | 0x09 => g 1 (narrowInt rhu (bitOf v 0) (bits v 11 6) (bits v 5 1 + 1) (sw a))
  | 0x0A =>
    let r := acsb a b
    let q := g 2 (r.1, r.2.2)
    { q with c := { q.c with dec := (q.c.dec * 4 + r.2.1) % 2 ^ 64 }, shifted := true }
  | 0x0B =>
    let n := bits v 16 12
    if bitOf v 11 then { q with c := specialWrite n (old.gr rd) q.c } else g 1 (specialRead e old n, 0)
  | 0x0C =>
    let base := bits (a.toNat) 18 0
    let m : AMode := match bits v 6 5 with
      | 1 => .modular base (bits b.toNat 16 0)
      | 2 => .bitrev base (bits b.toNat 4 0) (bits v 4 3)
      | _ => .linear
    { q with c := { q.c with amode := tput (fun _ => AMode.linear) q.c.amode (bits v 21 18) m } }
  | 0x0D => { q with c := q.c.send (.a (bits v 21 18)) 1 (old.ar (bits v 17 14) + BitVec.ofInt 64 (sext 12 imm)).toNat }
  | 0x0E => { q with c := q.c.send (.a (bits v 21 18)) 1 (a.toNat + b.toNat * 2 ^ 32) }
  | 0x0F =>
    let s := (old.ar (bits v 16 13)).toNat
    g 1 (BitVec.ofNat 32 (if bitOf v 12 then s / 2 ^ 32 else s), 0)
  | 0x16 => br true imm
  | 0x17 => let q := br true imm; { q with c := q.c.send (.g 31) 1 (old.pc + 3) }
  | 0x18 => br true ((old.gr rd).toNat % 4096)
  | 0x19 => br (old.flags &&& rd != 0) imm
  | 0x1A => br (old.flags &&& rd == 0) imm
  | 0x1C =>
    let n := if bitOf v 21 then (old.gr (bits v 4 0)).toNat % 65536 else bits v 12 0
    { q with rep := some (n, bits v 20 13 + 1) }
  | 0x1D =>
    let t := old.gr rd
    { q with c := { q.c with gate := ⟨t, imm, bitOf v 16, true, false, decide (0 ≤ gateL e.ns32 t), false, false⟩ } }
  | 0x1E => { q with c := { q.c with gate := { q.c.gate with armed := false, past := false, late := false } } }
  | 0x1F => { q with fin := true }
  | op => if 0x10 ≤ op ∧ op ≤ 0x15 then br (branchTaken op (old.gr rd) a) imm else q

/-! ## Memory slot (05 R181 to R187) -/

/-- Reverses the low `k` bits. -/
def revBits (k n : Nat) : Nat := (List.range k).foldl (fun r i => r * 2 + n / 2 ^ i % 2) 0

/-- Post-modification of an a-register by an access of `w` bytes (R184). -/
def postMod (m : AMode) (a : Addr) (inc : Int) (w : Nat) : Addr :=
  match m with
  | .linear => a + BitVec.ofInt 64 (inc * w)
  | .modular base size => BitVec.ofInt 64 (base + ((a.toNat : Int) - base + inc * w) % size)
  | .bitrev base k s =>
    let i := (((a.toNat : Int) - base) / (2 ^ s : Nat) % (2 ^ k : Nat)).toNat
    BitVec.ofNat 64 (base + revBits k (((revBits k i : Int) + inc) % (2 ^ k : Nat)).toNat * 2 ^ s)

/-- A result of the memory slot for an a-register that a scalar slot of the same bundle may write too: which of the
two is kept is open (assumption 19). Results of earlier bundles, the first `n0` in flight, stand before both (R169). -/
def sendPost (n0 n v : Nat) (c : Core) : Core :=
  let f : InFlight := ⟨c.cyc + 1, .a n, v⟩
  if Config.pickPostMod c.cyc then { c with flight := c.flight ++ [f] }
  else { c with flight := c.flight.take n0 ++ f :: c.flight.drop n0 }

/-- LD and ST: the access, its fault, and the post-modification (R182, R183; 04 R146). -/
def loadStore (old : Core) (v : Nat) (c : Core) : Core :=
  let w := 2 ^ bits v 19 18
  let g := bits v 16 12
  let ar := bits v 11 8
  let addr := (old.ar ar).toNat
  let ok := decide (addr % w = 0 ∧ addr < 0x60000)
  let c := sendPost old.flight.length ar (postMod (old.mode_ ar) (old.ar ar) (sext 8 (bits v 7 0)) w).toNat c
  if bits v 23 20 = 1 then
    let put (n : Nat) (c : Core) : Core :=
      let c := c.send (.g g) 4 (n % 2 ^ 32)
      if w = 8 then c.send (.g (g + 1)) 4 (n / 2 ^ 32) else c
    if ok then
      let n := leNat (readBytes old.lm addr w)
      put (if w < 4 ∧ !bitOf v 17 then wrapN 32 (sext (8 * w) n) else n) (c.lmReadFault addr w old.pc)
    else put 0 (c.raise 10 0 old.pc (BitVec.ofNat 32 addr))
  else if ok then
    c.writeLm addr old.pc (leBytes w ((old.gr g).toNat + (if w = 8 then (old.gr (g + 1)).toNat * 2 ^ 32 else 0)))
  else c.raise 10 0 old.pc (BitVec.ofNat 32 addr)

/-- Sets or clears bits of SLUICE_DONE and SLUICE_ERR. -/
def Core.doneBits (set : Bool) (mask : Nat) (err : Bool) (c : Core) : Core :=
  let d := c.reg cSLUICE_DONE
  let e := c.reg cSLUICE_ERR
  let m := BitVec.ofNat 32 mask
  if set then
    let c := c.setReg cSLUICE_DONE (d ||| m)
    if err then c.setReg cSLUICE_ERR (e ||| m) else c
  else (c.setReg cSLUICE_DONE (d &&& ~~~m)).setReg cSLUICE_ERR (e &&& ~~~m)

/-- SX: clears its DONE bit, and queues the transfer or refuses it (R185; 04 R149). -/
def issueSx (old : Core) (v : Nat) (c : Core) : Core :=
  let so := bitOf v 19
  let x := xferOf old v
  let c := c.doneBits false (2 ^ x.done) false
  match x.refused so with
  | some a => (c.raise 10 (if so then 4 else 3) old.pc (BitVec.ofNat 32 a)).doneBits true (2 ^ x.done) true
  | none =>
    let c := { c with xnum := (c.xnum + 1) % 65536 }
    if so then { c with so := c.so ++ [x] } else { c with si := c.si ++ [x] }

/-- The memory slot. -/
def memSlot (old : Core) (v : Nat) (c : Core) : Core :=
  match bits v 23 20 with
  | 1 => loadStore old v c
  | 2 => loadStore old v c
  | 3 => issueSx old v c
  | 5 => c.doneBits false (bits v 15 0) false
  | _ => c

/-! ## Lane Row and Eddy slots -/

/-- The Lane Row slot (R196, R198). -/
def laneSlot (old : Core) (rhu : Bool) (v : Nat) (c : Core) : Core :=
  match bits v 23 20 with
  | 1 =>
    let p := passOf old rhu v
    let c := (c.markTile p.dst .pass).count cSTALL_BANK p.extra
    { c with pass := some p, pcount := if p.kind = 2 then (c.pcount + 1) % 65536 else c.pcount }
  | 2 =>
    let d := old.group (bits v 10 8)
    let fmt := bits v 13 11
    let a := refOf d.2.1
    let b := refOf d.2.2.1
    let ws := moveBeat (old.src 0) fmt a
    let c := if a.kind = 3 then c.lmReadFault (a.addr * 256) 256 old.pc else c
    match b.kind with
    | 0 => c.writeLs b.addr fmt old.lmask ws
    | 1 => c.writeVec b.tile false b.index ws
    | 2 => c.writeVec b.tile true b.index ws
    | _ => c.writeLm (b.addr * 256) old.pc (Core.lineBytes ws)
  | _ => c

/-- The 64 words of a BROW or BCOL field at the start of a run (04 R137). -/
def bvec (c : Core) (b : Nat) : List Word :=
  (List.range 64).map fun i =>
    match bits b 2 0 with
    | 1 => (c.tile (bits b 4 3)).word (bits b 15 5) i
    | 2 => (c.tile (bits b 4 3)).word i (bits b 15 5)
    | 3 => lmWord c.lm (bits b 15 5 * 64 + i)
    | 4 => c.held.getD i 0
    | _ => 0

/-- Starts a run: takes its tiles and computes what it will write from the stores of `old`, the core as the bundle found it
(05 R163; 04 R124, R136 to R140). -/
def startRun (r : EddyRun) (old c : Core) : Core :=
  let d := r.desc
  let own := match d.src with
    | 0 => old.queue.head?
    | 1 => some d.stile
    | _ => none
  let c := if d.src = 0 then { c with queue := c.queue.drop 1 } else c
  let prog := old.runProg r
  let vec (i : Nat) : List Word := (List.range 64).map fun k =>
    match own with
    | some t => if d.col then (old.tile t).word k i else (old.tile t).word i k
    | none => lmWord old.lm (lineOf d.sline d.sstride i * 64 + k)
  let bcol := bvec old d.bcol
  let out := runVecs r.rhu prog (bvec old d.brow) ((List.range d.v).map fun i => (vec i, bcol.getD i 0)) old.er
  let lines := (if own = none then (List.range d.v).map (lineOf d.sline d.sstride) else [])
    ++ ([d.brow, d.bcol].filter fun b => bits b 2 0 == 3).map fun b => bits b 15 5
  let c := lines.foldl (fun c l => c.lmReadFault (l * 256) 256 r.bundle) c
  let tiles := own.toList ++ (if d.vdst = 2 then [d.vtile] else []) ++ (if d.rdst = 1 then [d.rtile] else [])
  let c := tiles.foldl (fun c t => c.markTile t .eddy) c
  { c with eddy := some { r with
      started := true, src := own, er := out.1, flags := out.2.1, out := out.2.2.1,
      red := out.2.2.2 ++ List.replicate (64 - d.v) 0, endsAt := c.cyc + runCycles prog.length d.v } }

/-- Tiles that a run writes as vector or reduction destination, and its source tile. -/
def EddyRun.tiles (r : EddyRun) : List Nat :=
  let d := r.desc
  r.src.toList ++ (if d.vdst = 2 then [d.vtile] else []) ++ (if d.rdst = 1 then [d.rtile] else [])

/-- Writes the output of vector `i` to the vector destination (04 R135, R139; 05 R202, R206). -/
def EddyRun.writeVec (r : EddyRun) (packed : Bool) (c : Core) (i : Nat) : Core :=
  let d := r.desc
  let ws := r.out.getD i []
  if r.toLines then c.writeLm (r.lineAt packed i).1 r.bundle (if packed then packVec ws else Core.lineBytes ws)
  else
    match d.vdst, r.src with
    | 1, some t => c.writeVec t d.col i ws
    | 2, _ => c.writeVec d.vtile d.col i ws
    | _, _ => c

/-- The vectors of a run that are due in this cycle reach their local-memory destination (R139). -/
def eddyLines (c : Core) : Core :=
  match c.eddy with
  | some r => if r.toLines then (c.vecsDue r true).foldl (r.writeVec (packsLlr (c.runProg r))) c else c
  | none => c

/-- The Eddy slot: a run with a named source starts at once, one with the queue waits (04 R142); LDPROG (05 R201). -/
def eddySlot (old : Core) (rhu : Bool) (v : Nat) (c : Core) : Core :=
  match bits v 15 12 with
  | 1 =>
    let d := old.group (bits v 8 6)
    let r : EddyRun := ⟨bits v 11 9, d.1, d.2.1, d.2.2.1, d.2.2.2, rhu, false, none, [], 0, [], [], 0, old.pc⟩
    if r.desc.src = 0 then { c with eddy := some r } else startRun r old c
  | 2 =>
    let off := (old.gr (bits v 8 4)).toNat
    if off % 128 = 0 ∧ off + 128 ≤ 0x60000 then { c with ldprog := c.ldprog ++ [⟨bits v 11 9, off, c.cyc + 16⟩] }
    else c.raise 10 2 old.pc (BitVec.ofNat 32 off)
  | _ => c

/-! ## Waits (04 R153) -/

/-- A transfer is writing codebook memory (R113). -/
def Core.cbWriting (c : Core) : Bool := c.si.any fun x => x.writing.isSome

/-- The counters that the bundle's waits count in; none where it does not wait. -/
def waitOf (c : Core) (b : Bundle) : List Nat :=
  let free (ts : List Nat) : Bool := ts.all c.tileFree
  let lane := match bits b.l 23 20 with
    | 1 => let p := passOf c false b.l; c.pass.isSome || c.cbWriting || !free (p.dst :: p.sourceTiles)
    | 2 =>
      let d := c.group (bits b.l 10 8)
      c.pass.isSome || !free (([refOf d.2.1, refOf d.2.2.1].filter fun r => r.kind == 1 || r.kind == 2).map (·.tile))
    | _ => false
  let eddy := match bits b.e 15 12 with
    | 1 =>
      let g := c.group (bits b.e 8 6)
      let d := runDesc g.1 g.2.1 g.2.2.1 g.2.2.2
      c.eddy.isSome || c.ldprog.any (fun l => l.slot == bits b.e 11 9)
        || (d.src != 0 && !free ((if d.src = 1 then [d.stile] else []) ++ d.tiles))
    | 2 => c.eddy.isSome
    | _ => false
  let mem := match bits b.m 23 20 with
    | 3 => decide (6 ≤ (if bitOf b.m 19 then c.so else c.si).length)
    | 4 => (c.reg cSLUICE_DONE).toNat &&& bits b.m 15 0 != bits b.m 15 0
    | _ => false
  (if lane || eddy then [cSTALL_TILE] else []) ++ (if mem then [cSTALL_SLUICE] else [])

/-! ## The sequencer goes on (05 R173 to R177, R193) -/

/-- The bundle after `last` has issued, with the repeat levels that end there stepped, innermost first (R177);
levels are given innermost first. -/
def repNext (last : Nat) : List RepLevel → Nat × List RepLevel
  | [] => ((last + 1) % 4096, [])
  | r :: t => if r.last = last then (if 1 < r.left then (r.first, { r with left := r.left - 1 } :: t) else repNext last t)
    else ((last + 1) % 4096, r :: t)

/-- The position after the bundle at `c.pc`. -/
def goOn (q : Seq) : Core :=
  let c := q.c
  match q.rep with
  | some (n, body) =>
    if n = 0 then
      let r := repNext (c.pc + body) c.reps.reverse
      { c with pc := r.1, reps := r.2.reverse }
    else { c with pc := (c.pc + 1) % 4096, reps := c.reps ++ [⟨c.pc + 1, c.pc + body, n⟩] }
  | none =>
    if c.delay = 1 then { c with delay := 0, pc := c.target.getD ((c.pc + 1) % 4096), target := none }
    else if 1 < c.delay then { c with delay := c.delay - 1, pc := (c.pc + 1) % 4096 }
    else
      match q.branch with
      | some t => { c with delay := 2, target := t, pc := (c.pc + 1) % 4096 }
      | none =>
        let r := repNext c.pc c.reps.reverse
        { c with pc := r.1, reps := r.2.reverse }

/-- END: waits at TGT for an armed launch, or halts (R193). -/
def endJob (c : Core) : Core :=
  if c.gate.armed then { c with run := .waiting, pc := c.gate.tgt, parked := true } else { c with run := .halted .ended }

/-- Issues a bundle that nothing holds (R163): the five slots read the core as it stands, S0 acts before S1. `gated`
marks a bundle whose launch has come: ARMED clears, and CORE.MODE is taken (R191; 04 R159). Whether END stood in it is
the second part of the answer. -/
def issue (e : CoreEnv) (b : Bundle) (gated : Bool) (c : Core) : Core × Bool :=
  let c := if gated then
      { c with gate := { c.gate with armed := false, past := false, late := false, opened := false }, mode := (c.reg cMODE).toNat % 2 }
    else c
  let rhu := b.rhu || c.mode == 1
  let flags := match [b.s0, b.s1].find? fun v => sOp v == 0x0B && bitOf v 11 && bits v 16 12 == 0 with
    | some v => (c.gr (bits v 21 17)).toNat % 32 ||| c.raised
    | none => c.flags
  let q : Seq :=
    ⟨{ c with run := .running, stall := 0, served := 0, parked := false, half := c.halfOf b, flags := flags }, none, none, false, false⟩
  let q := scalar e c rhu b.s1 (scalar e c rhu b.s0 q)
  let d := if q.shifted then q.c.send .decAll 2 q.c.dec else q.c
  let d := memSlot c b.m (eddySlot c rhu b.e (laneSlot c rhu b.l d))
  let d := { goOn { q with c := d } with raised := 0 }
  if q.fin then (endJob d, true) else (d, false)

/-! ## Gates (05 R189 to R194, 12 R474 to R477) -/

/-- How the evaluation of a gate that did not act on time ends. -/
inductive GateEval where
  | waits | late | missed
  deriving DecidableEq, Repr

/-- Evaluates a gate at NS32 `ns` against LATE_LIMIT (12 R476, R477). -/
def evalGate (ns time : Word) (limit : Nat) : GateEval :=
  let l := gateL ns time
  if l < 0 then .waits else if l ≤ limit then .late else .missed

/-- Wellhead arms the gate; a core halted by END, a stall, an illegal bundle or a missed gate waits at TGT, and so does one
that waits there already since it ended (R190, R193, R194). -/
def armWellhead (ns time : Word) (tgt : Nat) (abn : Bool) (c : Core) : Core :=
  let c := { c with gate := ⟨time, tgt % 4096, abn, true, true, decide (0 ≤ gateL ns time), false, false⟩ }
  let park : Core :=
    { c with run := .waiting, pc := tgt % 4096, parked := true, delay := 0, target := none, reps := [], stall := 0, served := 0 }
  match c.run with
  | .halted .ctrl => c
  | .halted _ => park
  | .waiting => if c.parked then park else c
  | _ => c

/-- Wellhead disarms the gate. -/
def disarm (c : Core) : Core := { c with gate := { c.gate with armed := false, past := false, late := false } }

/-- The sequencer waits at the armed gate's TGT. -/
def waitsAtGate (c : Core) : Bool := c.run == .waiting && c.gate.armed && c.pc == c.gate.tgt

/-- An abandoning gate cuts what the core was doing (04 R155): the pass and the run stop, their tiles are free with
undefined contents, lines keep the vectors written so far, the queue is emptied, delay slots and repeats are dropped. `i` is
the index of the free values. -/
def abandonAll (i : Nat) (c : Core) : Core :=
  let undef (t : Nat) (c : Core) : Core := c.setTile t ⟨[], .free, some i⟩
  let c := match c.pass with
    | some p => { undef p.dst c with pass := none }
    | none => c
  let c := match c.eddy with
    | some r =>
      if r.started then
        let prog := c.runProg r
        let c := r.tiles.foldl (fun c t => undef t c) c
        let written (n : Nat) : Bool := n == 0 || prog.any fun x => x.d == n
        let er := (List.range 16).map fun n =>
          if written n then (List.range 64).map fun k => Config.freeWord (i + 1) (n * 64 + k) else c.er.getD n []
        { c with eddy := none, er := er, held := (List.range 64).map fun k => Config.freeWord (i + 2) k }
      else { c with eddy := none }
    | none => c
  let c := c.queue.foldl (fun c t => c.markTile t .free) { c with queue := [] }
  let c := { c with delay := 0, target := none, reps := [], stall := 0, served := 0, pc := c.gate.tgt }
  (c.flag flAbandon).raise 12 6 c.gate.tgt 0

/-! ## Ends of passes, runs and loads -/

/-- A pass ends: its rows are written, flags and counters set, the tile leaves PASS (04 R117 to R134). -/
def passEnd (p : PassRun) (errs : List LaneErr) (c : Core) : Core :=
  let tile := c.tile p.dst
  let good := p.rows tile
  let t := good.foldl (fun (t : Tile) r =>
    (List.range p.width).foldl (fun (t : Tile) k => t.put r.1 k (PassRun.withErrs errs r.1 k (r.2.getD k (0, false)).1)) t) tile
  let sat := good.any fun r => r.2.any (·.2)
  let c := p.lmRanges.foldl (fun c r => c.lmReadFault r.1 r.2 p.bundle) { c with pass := none }
  let c := if sat then c.flag flSat else c
  let c := match p.check tile good errs with
    | .skip => c.count cCHK_SKIP_CNT 1
    | .equal => c
    | .mismatch which row col located =>
      let rec_ := (if fmtFloat p.fmt then 2 ^ 19 else 0) + p.kind * 2 ^ 17 + (if located then 2 ^ 16 else 0) + which * 2 ^ 14
        + row * 2 ^ 8 + col * 4 + p.dst
      let c := if bitOf (c.reg cFAULTWORD).toNat 6 then c else c.setReg cCHKREC (BitVec.ofNat 32 rec_)
      ((c.flag flChk).count cCHK_CNT 1).raise 6 1 p.bundle 0
  if p.q then { c.setTile p.dst { t with st := .queued } with queue := c.queue ++ [p.dst] }
  else c.setTile p.dst { t with st := .free }

/-- A run can start: the queue holds a tile, and every other tile it names is free (04 R142). -/
def runReady (r : EddyRun) (c : Core) : Bool :=
  match c.queue with
  | [] => false
  | h :: _ => !r.started && r.desc.tiles.all fun t => t == h || c.tileFree t

/-- A run ends: outputs in tiles and the reduction vector are written, flags set, its tiles freed (04 R124, R139); its lines
have been written by then (`eddyLines`). -/
def runEnd (r : EddyRun) (c : Core) : Core :=
  let d := r.desc
  let c := if r.toLines then c else (List.range d.v).foldl (r.writeVec false) c
  let c := match d.rdst with
    | 1 => c.writeVec d.rtile d.rcol d.ridx r.red
    | 2 => c.writeLm (d.rline * 256) r.bundle (Core.lineBytes r.red)
    | _ => c
  let c := r.tiles.foldl (fun c t => c.markTile t .free) c
  { c.flag r.flags with eddy := none, er := r.er, held := r.red }

/-- An element program load ends (04 R141, 05 R201). -/
def ldprogEnd (l : ProgLoad) (c : Core) : Core :=
  let ws := wordsOf 32 (readBytes c.lm l.off 128)
  let p := progOf ws
  let c := c.lmReadFault l.off 128 c.pc
  { c with progs := tset c.progs l.slot ⟨ws, p.1.length, p.2⟩, ldprog := c.ldprog.erase l }

/-- SCRUB has ended: tiles, lane stores, element registers and codebook memory are zero (04, CORE.CTRL; 06 R227,
R228). -/
def scrubEnd (c : Core) : Core :=
  { c with tiles := [], queue := [], ls := [], er := List.replicate 16 (List.replicate 64 0), cb := [], n16 := 0, n256 := 0, lsSum := [], scrub := false }

end Sys2Proof.Machine
end

