-- ==== Sys2Proof/Machine/Ops.lean ====
section
/-! DEFINITION. Shared operations on the state: cores and the logical-to-physical map, catchments, holes, the global
address map and the ATU (07 R239 to R242, 13 R487 to R493), reads and writes of memory. -/
namespace Sys2Proof.Machine
namespace State

/-- A free value's index, and the state with the counter advanced (assumption 2). -/
def free (s : State) : Nat × State := (s.freeCtr, { s with freeCtr := s.freeCtr + 1 })

/-- A physical core. -/
def core (s : State) (p : Nat) : Core := tget (fun _ => Core.reset) s.cores p

/-- Replaces a physical core. -/
def setCore (p : Nat) (c : Core) (s : State) : State := { s with cores := tset s.cores p c }

/-- The number of enabled cores (00 R7). -/
def enabled (s : State) : Nat := s.fuses.enabled.val

/-- The physical core of a logical number, if one is mapped. -/
def physOf (s : State) (k : Nat) : Option Nat :=
  let p := tget (fun _ => 255) s.l2p k
  if p = 255 then none else some p

/-- The logical number that names a physical core, if any. -/
def logOf (s : State) (p : Nat) : Option Nat := (s.l2p.find? (fun e => e.2 == p)).map (fun e => e.1)

/-- The cluster of a physical core (01: 13 cores each). -/
def clusterOf (p : Nat) : Nat := p / 13

/-- How a unit stands fenced: 0 in service, 1 by a fault, 2 by FENCE (15 R563, R568). -/
def fence (s : State) (kind num : Nat) : Nat := tget (fun _ => 0) s.fences (kind * 64 + num)

/-- A core is out of service: itself or its cluster is fenced. -/
def coreFenced (s : State) (p : Nat) : Bool := s.fence 0 p != 0 || s.fence 5 (clusterOf p) != 0

/-- The leased fabric address, while the lease holds (11 TRIB.ADDR). -/
def fabric (s : State) : Option Nat :=
  let w := (s.reg Reg.TRIB_ADDR).toNat
  if bitOf w 31 then some (bits w 17 0) else none

/-- A fabric address names this device (01 R15 to R17). -/
def isSelf (s : State) (fa : Nat) : Bool := fa == 0x3FFFF || s.fabric == some fa

/-- The catchments of the loaded image. -/
def catchments (s : State) : List Catchment :=
  match s.img.file with
  | some f => f.catchments
  | none => []

/-- The catchment of a descriptor. -/
def catchment (s : State) (d : Nat) : Option Catchment := s.catchments.find? (fun c => c.desc.val == d)

/-- A leaf stands on this device. -/
def leafHere (s : State) (l : Leaf) : Bool := s.isSelf l.dev.toNat

/-- The physical cores of a catchment's leaves on this device, in rank order. -/
def leavesOf (s : State) (d : Nat) : List Nat :=
  match s.catchment d with
  | some c => c.leaves.filterMap (fun l => if s.leafHere l then s.physOf l.core.val else none)
  | none => []

/-- Rank of a logical core in a catchment. -/
def rankIn (s : State) (c : Catchment) (k : Nat) : Option Nat :=
  let i := c.leaves.findIdx (fun l => s.leafHere l && l.core.val == k)
  if i < c.leaves.length then some i else none

/-- A catchment fault word with an event bit set by leaf `r` (01 R28, R29). -/
def catchWord (w : Word) (b r : Nat) : Word :=
  let w := if bits w.toNat 19 8 = 0xFFF then setBits w 19 8 r else w
  evSet w b

/-- Sets an event bit in the fault word of every catchment that a logical core is a leaf of. -/
def catchEvent (b k : Nat) (s : State) : State :=
  s.catchments.foldl (fun s c =>
    match s.rankIn c k with
    | some r => { s with ctl := s.ctl.setArr bankCatch c.desc.val (catchWord (s.ctl.arr bankCatch c.desc.val) b r) }
    | none => s) s

/-- Sets a catchment bit for a physical core. -/
def catchPhys (b p : Nat) (s : State) : State :=
  match s.logOf p with
  | some k => s.catchEvent b k
  | none => s

/-! ## Holes (07 R240) -/

/-- Which block records a hole. -/
inductive HoleAt where
  | pool (c off : Nat) | dram (a : Nat) | trib | fault (a : Nat) | none
  deriving DecidableEq, Repr

/-- Records a hole. -/
def hole (h : HoleAt) (s : State) : State :=
  match h with
  | .pool c off => (s.latchIf (s.quiet (Reg.POOL_STATUS c)) (Reg.POOL_FAULT_ADDR c) (BitVec.ofNat 32 off)).event
      (Reg.POOL_STATUS c) Ev.POOL_HOLE
  | .dram a =>
    let q := s.quiet Reg.DRAM_STATUS
    ((s.latchIf q Reg.DRAM_FAULT_LO (BitVec.ofNat 32 a)).latchIf q Reg.DRAM_FAULT_HI (BitVec.ofNat 32 (a / 2 ^ 32))).event
      Reg.DRAM_STATUS Ev.DRAM_HOLE
  | .trib => (s.event Reg.TRIB_STATUS Ev.TRIB_MISROUTE).count Reg.TRIB_MISROUTE_CNT 1
  | .fault a =>
    let q := s.quiet Reg.FAULT_STATUS
    ((s.latchIf q Reg.FAULT_HOLE_LO (BitVec.ofNat 32 a)).latchIf q Reg.FAULT_HOLE_HI (BitVec.ofNat 32 (a / 2 ^ 32))).event
      Reg.FAULT_STATUS Ev.FAULT_HOLE
  | .none => s

/-! ## Routes (11 R413, R414) -/

/-- A port carries fabric traffic: fabric mode, started, link up, not fenced. -/
def portUsable (s : State) (k : Nat) : Bool :=
  let cfg := (s.reg (Reg.CP_CFG k)).toNat
  bitOf cfg 0 && !bitOf cfg 1 && (tget (fun _ => ⟨false, false, 0, 0, [], false⟩) s.ports k).link && s.fence 4 k == 0

/-- The usable ports of the route of a destination, ascending; none where no entry matches. -/
def routePorts (s : State) (d : Nat) : List Nat :=
  match (List.range 64).find? (fun i =>
    let b := (s.ctl.arr bankRouteBase i).toNat
    let m := (s.ctl.arr bankRouteMask i).toNat
    bitOf b 31 && (d &&& bits m 17 0) == bits b 17 0) with
  | some i => (List.range 8).filter (fun k => bitOf (s.ctl.arr bankRouteMask i).toNat (24 + k) && s.portUsable k)
  | none => []

/-- The port of a transfer (R414). -/
def portOf (d x : Nat) (ports : List Nat) : Option Nat :=
  if ports.length = 0 then none
  else
    let h := ((d * 0x9E3779B1 % 2 ^ 32) ^^^ (x * 0x85EBCA6B % 2 ^ 32)) / 65536
    ports[h % ports.length]?

/-! ## The global address map (07 R239) -/

/-- Where a global address lands. -/
inductive Place where
  | mem (a : Nat) | lm (p off : Nat) | csr (off : Nat) | host (x : Nat) | remote (dst a : Nat) | hole (h : HoleAt)
  deriving DecidableEq, Repr

/-- The local memory of a logical core, if it can be reached (R242). -/
def lmPlace (s : State) (addr k off : Nat) : Place :=
  if k < s.enabled then
    match s.physOf k with
    | some p => if s.coreFenced p then .hole (.fault addr) else .lm p off
    | none => .hole (.fault addr)
  else .hole (.fault addr)

/-- The device's addressable DRAM in bytes. -/
def dramTop (s : State) : Nat := (s.reg Reg.DRAM_TOP).toNat * 2 ^ 20

/-- Where a local address lands on this device, and for how many bytes on from there (R239; 01 R23 to R25). A catchment of the
loaded image with no leaf on this device has its window here too (DESIGN CHOICE, assumption 84). -/
def localPlace (s : State) (addr a : Nat) : Place × Nat :=
  if a < 0x001000000000 then
    if a < s.dramTop then (.mem a, s.dramTop - a) else (.hole (.dram a), 1)
  else if 0x100000000000 ≤ a ∧ a < 0x100004000000 then
    let c := (a - 0x100000000000) / 0x1000000
    let off := a % 0x1000000
    if off < 0xC00000 then
      (if s.fence 5 c = 0 then .mem a else .hole (.fault addr), 0xC00000 - off)
    else (.hole (.pool c off), 1)
  else if 0x110000000000 ≤ a ∧ a < 0x120000000000 then
    let off := a % 0x100000
    if off < 0x60000 then (s.lmPlace addr ((a - 0x110000000000) / 0x100000) off, 0x60000 - off)
    else (.hole (.fault addr), 1)
  else if 0x120000000000 ≤ a ∧ a < 0x130000000000 then
    let o := a % 0x100000000
    let off := o % 0x100000
    match s.catchment ((a - 0x120000000000) / 0x100000000) with
    | some c =>
      match c.leaves[o / 0x100000]? with
      | some l =>
        if off < 0x60000 then
          (if s.leafHere l then s.lmPlace addr l.core.val off
           else .remote l.dev.toNat (0x110000000000 + l.core.val * 0x100000 + off), 0x60000 - off)
        else (.hole (.fault addr), 1)
      | none => (.hole (.fault addr), 1)
    | none => (.hole (.fault addr), 1)
  else if 0x1F0000000000 ≤ a ∧ a < 0x1F0001000000 then (.csr (a - 0x1F0000000000), 0x1F0001000000 - a)
  else if 0x200000000000 ≤ a ∧ a < 0x400000000000 then (.host (a - 0x200000000000), 4096 - a % 4096)
  else (.hole (.fault addr), 1)

/-- Where a global address lands, checked at issue: another device needs a lease and a route (01 R16, R17; 11 R413). -/
def place (s : State) (addr : Nat) : Place × Nat :=
  let fa := addr / 2 ^ 46
  let a := addr % 2 ^ 46
  if s.isSelf fa then
    match s.localPlace addr a with
    | (.remote d r, n) => if s.fabric = none ∨ s.routePorts d = [] then (.hole .trib, 1) else (.remote d r, n)
    | pl => pl
  else if s.fabric = none ∨ s.routePorts fa = [] then (.hole .trib, 1)
  else (.remote fa a, 2 ^ 46 - a)

/-! ## The ATU (13 R487 to R493) -/

/-- The PCIe link is up (HOST.LINK). -/
def pcieUp (s : State) : Bool := bitOf (s.reg Reg.HOST_LINK).toNat 16

/-- A span overlaps a BAR of the device (R493). -/
def inBar (s : State) (a n : Nat) : Bool := s.ctl.bars.any (fun b => decide (a < b.1 + b.2 ∧ b.1 < a + n))

/-- Outcome of a translation: a host address, or cause, level and entry address. -/
inductive Walk where
  | ok (e : AtuEntry)
  | bad (cause level entry : Nat)
  deriving DecidableEq, Repr

/-- Reads one table entry and judges it, down from level `lvl` (fuel counts the levels left). -/
def walkAt (s : State) (slice x : Nat) (write : Bool) : Nat → Nat → Nat → Walk
  | 0, lvl, _ => .bad 1 lvl 0
  | fuel + 1, lvl, table =>
    let shift := 39 - 9 * lvl
    let idx := if lvl = 1 then x / 2 ^ 30 else x / 2 ^ shift % 512
    let ea := table + idx * 8
    let e := leNat (readBytes s.host ea 8)
    let addr := e / 4096 * 4096
    let page := lvl = 3 || bitOf e 2
    let size := if page then 2 ^ shift else 4096
    if !s.pcieUp then .bad 4 lvl ea
    else if !bitOf e 0 then .bad 1 lvl ea
    else if bits e 11 4 ≠ 0 ∨ addr % size ≠ 0 then .bad 3 lvl ea
    else if s.inBar addr size then .bad 5 lvl ea
    else if page then
      if write && !bitOf e 1 then .bad 2 lvl ea
      else .ok ⟨slice, lvl, x / 2 ^ shift, addr, bitOf e 1, ea⟩
    else walkAt s slice x write fuel (lvl + 1) addr

/-- A cached entry serves a slice address. -/
def atuHit (slice x : Nat) (e : AtuEntry) : Bool := e.slice == slice && x / 2 ^ (39 - 9 * e.level) == e.vpage

/-- The ATU's fault record (13, table; one for each access). -/
def atuFault (cause level slice addr req entry basin : Nat) (s : State) : State :=
  let ws := fun _ : Word =>
    [BitVec.ofNat 32 (1 + cause * 256 + level * 65536 + slice * 2 ^ 24), BitVec.ofNat 32 addr,
     BitVec.ofNat 32 (bits addr 45 32 + req * 65536), BitVec.ofNat 32 entry, BitVec.ofNat 32 (entry / 2 ^ 32),
     BitVec.ofNat 32 basin, s.ns32, 0]
  let s := s.count Reg.HOST_ATU_FAULT_CNT 1
  let s := s.event Reg.HOST_STATUS (if cause = 5 then Ev.HOST_WALK_DEVICE else Ev.HOST_WALK_FAULT)
  { s with ctl := (s.ctl.logEntry ws).keyed (Reg.HOST_STATUS * 32 + 31) }

/-- Translates a host-window offset: the host address, or none after the fault is recorded (R487, R490, R492). With no link a
cached translation is refused too, as a walk would be (07 R240, R272; DEDUCED, assumption 68). -/
def translate (s : State) (off : Nat) (write : Bool) (req basin : Nat) : State × Option Nat :=
  let slice := bits off 44 41
  let x := off % 2 ^ 41
  let a := 0x200000000000 + off
  let root := tget (fun _ => 0) s.atu.ctx slice
  if root < 2 ^ 64 ∨ 9 ≤ slice then (s.atuFault 6 0 slice a req 0 basin, none)
  else
    let hit (e : AtuEntry) : State := { s with atu := { s.atu with cache := s.atu.cache.filter (fun f => f ≠ e) ++ [e] } }
    match s.atu.cache.find? (atuHit slice x) with
    | some e =>
      if write && !e.w then (s.atuFault 2 e.level slice a req e.entry basin, none)
      else if !s.pcieUp then ((hit e).atuFault 4 e.level slice a req e.entry basin, none)
      else (hit e, some (e.addr + x % 2 ^ (39 - 9 * e.level)))
    | none =>
      let table := root - 2 ^ 64
      let s := s.count Reg.HOST_WALK_CNT 1
      if s.inBar table 16384 then (s.atuFault 5 1 slice a req (table + x / 2 ^ 30 * 8) basin, none)
      else
        match s.walkAt slice x write 3 1 table with
        | .ok e =>
          let cache := if s.atu.cache.length < 1024 then s.atu.cache else s.atu.cache.drop 1
          ({ s with atu := { s.atu with cache := cache ++ [e] } }, some (e.addr + x % 2 ^ (39 - 9 * e.level)))
        | .bad cause level entry => (s.atuFault cause level slice a req entry basin, none)

/-! ## Reads and writes -/

/-- The protected word of a local address: its key in `poison` (07 R244, R251). -/
def protKey (a : Nat) : Nat := if a < 0x001000000000 then a / 64 * 2 else a / 8 * 2 + 1

/-- The size of the protected word at a local address. -/
def protSize (a : Nat) : Nat := if a < 0x001000000000 then 64 else 8

/-- Keys of the poisoned words that `n` bytes at `a` touch. -/
def poisoned (s : State) (a n : Nat) : List Nat :=
  s.poison.filter (fun k => decide (protKey a ≤ k ∧ k ≤ protKey (a + n - 1) ∧ k % 2 = protKey a % 2))

/-- Address of the lowest of some poisoned words. -/
def firstPoison (ks : List Nat) (a : Nat) : Nat := (ks.foldl min (ks.headD 0)) / 2 * protSize a

/-- Counts the uncorrectable words `ks` that a read at `a` finds, and records the lowest (DEDUCED, assumption 86). -/
def uncorrRead (a : Nat) (ks : List Nat) (s : State) : State :=
  let w := firstPoison ks a
  if ks.isEmpty then s
  else if a < 0x001000000000 then
    let q := s.quiet Reg.DRAM_STATUS
    (((s.latchIf q Reg.DRAM_FAULT_LO (BitVec.ofNat 32 w)).latchIf q Reg.DRAM_FAULT_HI (BitVec.ofNat 32 (w / 2 ^ 32))).count
      Reg.DRAM_UNCORR_CNT ks.length).event Reg.DRAM_STATUS Ev.DRAM_UNCORR
  else
    let c := (a - 0x100000000000) / 0x1000000
    ((s.latchIf (s.quiet (Reg.POOL_STATUS c)) (Reg.POOL_FAULT_ADDR c) (BitVec.ofNat 32 (w % 0x1000000))).count
      (Reg.POOL_UNCORR_CNT c) ks.length).event (Reg.POOL_STATUS c) Ev.POOL_UNCORR

/-- Counts and records a corrected word. -/
def corrRead (a : Nat) (s : State) : State :=
  if a < 0x001000000000 then (s.count Reg.DRAM_CORR_CNT 1).event Reg.DRAM_STATUS Ev.DRAM_CORR
  else
    let c := (a - 0x100000000000) / 0x1000000
    ((s.count (Reg.POOL_CORR_CNT c) 1).event (Reg.POOL_STATUS c) Ev.POOL_CORR).event (Reg.POOL_FAULTWORD c) Ev.POOLFW_CORR

/-- Reads DRAM or pool bytes: data as stored; not ok where a word is poisoned (R244). -/
def readMem (s : State) (a n : Nat) : State × List Byte × Bool :=
  let ks := s.poisoned a n
  (s.uncorrRead a ks, readBytes s.mem a n, ks.isEmpty)

/-- Writes DRAM or pool bytes: a word covered whole loses its poison; a partial write of a poisoned word is stored,
counted, and leaves it poisoned (R244). -/
def writeMem (a : Nat) (bs : List Byte) (s : State) : State :=
  let n := bs.length
  let touched := s.poisoned a n
  let whole (k : Nat) : Bool :=
    let z := protSize a
    decide (a ≤ k / 2 * z ∧ k / 2 * z + z ≤ a + n)
  let s := s.uncorrRead a (touched.filter (fun k => !whole k))
  { s with mem := writeBytes s.mem a bs, poison := s.poison.filter (fun k => !(touched.contains k && whole k)) }

/-- Reads `n` bytes at a global address for requester `req` with basin tag `basin`; ok is false where the access ends in
error, with what was read before the fault (07 R240, R241, R244). CSR space refuses these requesters (17 R629); another
device's bytes, and whether it answers in error, are free values (R271; assumption 9). -/
def readG (req basin : Nat) : Nat → State → Nat → Nat → State × List Byte × Bool
  | 0, s, _, _ => (s, [], true)
  | fuel + 1, s, addr, n =>
    if n = 0 then (s, [], true)
    else
      let pl := s.place addr
      let m := min n pl.2
      let go (r : State × List Byte × Bool) : State × List Byte × Bool :=
        if r.2.2 then
          let t := readG req basin fuel r.1 (addr + m) (n - m)
          (t.1, r.2.1 ++ t.2.1, t.2.2)
        else r
      match pl.1 with
      | .mem a =>
        let r := s.readMem a m
        if r.2.2 then go r
        else
          (r.1, r.2.1.take (firstPoison (s.poisoned a m) a - a), false)
      | .lm p off =>
        let c := s.core p
        go (s.setCore p (c.lmReadFault off m 0), readBytes c.lm off m, true)
      | .csr _ => (s, [], false)
      | .host x =>
        match s.translate x false req basin with
        | (s, some h) => go (s, readBytes s.host h m, true)
        | (s, none) => (s, [], false)
      | .remote _ _ =>
        let f := s.free
        if Config.remoteOk f.1 then go (f.2, (List.range m).map (Config.remoteByte f.1), true) else (f.2, [], false)
      | .hole h => (s.hole h, [], false)

/-- Writes at the local memory of a physical core (04 R144); an access from outside names no bundle. -/
def writeLm (p off : Nat) (bs : List Byte) (s : State) : State := s.setCore p ((s.core p).writeLm off 0 bs)

end State

end Sys2Proof.Machine
end

