-- ==== Sys2Proof/Machine/Fabric.lean ====
section
/-! DEFINITION. Sending over the fabric (11 R406, R408, R412 to R416, R420, R423) and writes to any global address. -/
namespace Sys2Proof.Machine

/-- A port as it comes up. -/
def Port.reset : Port := ⟨false, false, 0, 0, [], false⟩

/-- The header bytes of a frame with the CRC field as zero (11 R406). -/
def headerBytes (f : Frame) : List Byte :=
  [BitVec.ofNat 8 (f.ver.toNat * 16 + f.typ.toNat), f.flags] ++ leBytes 3 f.dst.toNat ++ leBytes 3 f.src.toNat
    ++ leBytes 3 f.seq.toNat ++ [f.basin] ++ leBytes 2 f.length.toNat ++ leBytes 2 f.xfer.toNat
    ++ leBytes 8 f.addr.toNat ++ leBytes 4 0 ++ leBytes 4 f.zero.toNat

/-- The CRC field of a frame. -/
def frameCrc (f : Frame) : Word := crc32c (headerBytes f ++ f.payload)

/-- A frame of the device, its CRC filled in. -/
def mkFrame (typ flags dst src seq basin xfer addr : Nat) (payload : List Byte) : Frame :=
  let f : Frame :=
    ⟨1, BitVec.ofNat 4 typ, BitVec.ofNat 8 flags, BitVec.ofNat 24 dst, BitVec.ofNat 24 src, BitVec.ofNat 24 seq,
     BitVec.ofNat 8 basin, BitVec.ofNat 16 payload.length, BitVec.ofNat 16 xfer, BitVec.ofNat 64 addr, 0, 0, payload⟩
  { f with crc := frameCrc f }

/-- A frame with RETRY set (R420), its CRC filled in. -/
def retryFrame (f : Frame) : Frame :=
  let g := { f with flags := f.flags ||| 2, crc := 0 }
  { g with crc := frameCrc g }

/-- Pieces of a row at address `a`, cut at 4 KiB boundaries (R408): address, bytes. -/
def cutRow : Nat → Nat → List Byte → List (Nat × List Byte)
  | 0, _, _ => []
  | fuel + 1, a, bs =>
    if bs.isEmpty then []
    else
      let m := min bs.length (4096 - a % 4096)
      (a, bs.take m) :: cutRow fuel (a + m) (bs.drop m)

/-- The who of a transfer that nothing waits for. -/
@[reducible] def whoNone : Nat := 0xFFFFFFFF

namespace State

/-- A port. -/
def port (s : State) (k : Nat) : Port := tget (fun _ => Port.reset) s.ports k

/-- Replaces a port. -/
def setPort (k : Nat) (p : Port) (s : State) : State := { s with ports := tset s.ports k p }

/-- A destination's record. -/
def destSt (s : State) (d : Nat) : DestSt := tget (fun _ => ⟨0, [], false⟩) s.trib.dest d

/-- Replaces a destination's record. -/
def setDest (d : Nat) (t : DestSt) (s : State) : State := { s with trib := { s.trib with dest := tset s.trib.dest d t } }

/-- A basin. -/
def basin (s : State) (b : Nat) : Basin :=
  tget (fun _ =>
    let r : Ring := ⟨0, 0, 0, 0, 0, 0⟩
    ⟨0, 0, 0, r, r, r, r, r, [], [], [], [], [], 0, 0, 0, 0, 0, 0, 0, none, false⟩) s.basins b

/-- Replaces a basin. -/
def setBasin (b : Nat) (x : Basin) (s : State) : State := { s with basins := tset s.basins b x }

/-- The address the device sends from. -/
def srcAddr (s : State) : Nat := s.fabric.getD 0x3FFFF

/-- Port `k` has stopped transmitting: from S of a procedure that stops it until its apply phase (16 R620). -/
def txStopped (s : State) (k : Nat) : Bool :=
  match s.func.proc with
  | some p => p.phase == 1 && p.kind != 0 && bitOf p.mask (8 + k)
  | none => false

/-- Fields of CP.CFG of port `k`. -/
def cpCfg (s : State) (k hi lo : Nat) : Nat := bits (s.reg (Reg.CP_CFG k)).toNat hi lo
/-- Port `k` is started; in fronthaul mode. -/
def portOn (s : State) (k : Nat) : Bool := s.cpCfg k 0 0 == 1
def portFh (s : State) (k : Nat) : Bool := s.cpCfg k 1 1 == 1


/-- The address of port `k` of the device with leased address `f` (11 R412). -/
def leasedMac (f k : Nat) : Nat := 0x024F48 * 2 ^ 24 + (f * 8 + k) % 2 ^ 24

/-- The MAC address of a port (11 R412), first octet in transmission order highest. -/
def portMac (s : State) (k : Nat) : Nat :=
  if s.portFh k then (s.reg (Reg.CP_MAC_HI k)).toNat % 65536 * 2 ^ 32 + (s.reg (Reg.CP_MAC_LO k)).toNat
  else match s.fabric with
    | some f => leasedMac f k
    | none => 0x02 * 2 ^ 40 + s.fuses.uid.toNat % 2 ^ 40

/-- The 802.1Q tag of the frames that a port sends: CP.VLAN's VID and PCP while TAG is set (11 R403). -/
def vlanTag (s : State) (k : Nat) : Option Nat :=
  let v := (s.ctl.inForce (Reg.CP_VLAN k)).toNat
  if bitOf v 15 then some (bits v 14 0) else none

/-- What makes up one frame leaves at a port, and counts as a frame sent. -/
def portSend (k : Nat) (os : List Out) (s : State) : State :=
  if s.txStopped k then s else (os.foldl (fun (s : State) o => s.emit o) s).count (Reg.CP_TX_FRAMES k) 1

/-- Something leaves at a port for a destination MAC. -/
def portOut (k dst : Nat) (o : Out) (s : State) : State := s.portSend k [.head k dst (s.portMac k) (s.vlanTag k), o]

/-- A Tributary frame leaves at a port for the same port of its destination (11 R412). -/
def sendFrame (k : Nat) (f : Frame) (s : State) : State := s.portOut k (leasedMac f.dst.toNat k) (.frame k f)

/-- Bytes that a frame takes in a replay buffer. -/
def frameSize (f : Frame) : Nat := 32 + f.payload.length

/-- Queues a sequenced frame to a destination: it takes the next sequence value (SYNC and 0 to an unreachable one,
R423), is held in its port's 2 MiB replay buffer and is sent, or waits for room there (R416, R420). -/
def sendSeq (d k : Nat) (mk : Nat → Nat → Frame) (s : State) : State :=
  let t := s.destSt d
  let f := if t.unreach then mk 0 4 else mk t.next 0
  let next := if t.unreach then 1 else (t.next + 1) % 2 ^ 24
  let p := s.port k
  let fits := p.replay + frameSize f ≤ 2 * 1024 * 1024
  let s := s.setDest d { t with next := next, unreach := false, out := t.out ++ [⟨f, k, if fits then 1 else 0, s.time.ticks, s.reg Reg.TRIB_RETRY_CFG⟩] }
  if fits then (s.setPort k { p with replay := p.replay + frameSize f }).sendFrame k f else s

/-- Sends the pieces of a row; the last carries LAST. -/
def sendPieces (d k typ flags basin xfer : Nat) : List (Nat × List Byte) → State → State
  | [], s => s
  | (a, bs) :: rest, s =>
    let last := if rest.isEmpty then 1 else 0
    sendPieces d k typ flags basin xfer rest
      (s.sendSeq d k (fun seq sync => mkFrame typ (flags + last + sync) d s.srcAddr seq basin xfer a bs))

/-- The next transfer number (R408). -/
def newXfer (s : State) : Nat × State := (s.trib.xfer, { s with trib := { s.trib with xfer := (s.trib.xfer + 1) % 65536 } })

/-- Frames or bytes of transfer `x` to device `d` that `who` waits for. -/
def addRemote (x d : Nat) (write : Bool) (left who basin : Nat) (s : State) : State :=
  let same (r : Remote) : Bool := r.xfer == x && r.dst == d && r.write == write && r.who == who
  let rs := if s.trib.remotes.any same then s.trib.remotes.map fun r => if same r then { r with left := r.left + left } else r
    else s.trib.remotes ++ [⟨x, d, write, left, who, false, basin⟩]
  { s with trib := { s.trib with remotes := rs } }

/-- Issues a one-sided write of a row of transfer `x` to another device; `who` waits for its acknowledgement (R408, R414,
R421). -/
def issueWrite (x d a : Nat) (bs : List Byte) (basin who : Nat) (wh : Bool) (s : State) : State :=
  match portOf d x (s.routePorts d) with
  | none => s.hole .trib
  | some k =>
    let ps := cutRow bs.length a bs
    (s.addRemote x d true ps.length who basin).sendPieces d k 1 (if wh then 16 else 0) basin x ps

/-- Issues a read of a row of transfer `x` of another device, to land at local address `dest` (R409). -/
def issueRead (x d a n dest basin who : Nat) (s : State) : State :=
  match portOf d x (s.routePorts d) with
  | none => s.hole .trib
  | some k =>
    (s.addRemote x d false n who basin).sendSeq d k fun seq sync =>
      mkFrame 2 (1 + sync) d s.srcAddr seq basin x a (leBytes 8 dest ++ leBytes 4 n ++ leBytes 4 0)

/-- Writes bytes at a global address for requester `req` with basin tag `basin`; false where the access ends in error,
with the bytes before the fault written (07 R240, R241). Another device's memory is written by frames; whether it answers in
error is a free value (R271; assumption 9). -/
def writeG (req basin : Nat) : Nat → State → Nat → List Byte → State × Bool
  | 0, s, _, _ => (s, true)
  | fuel + 1, s, addr, bs =>
    if bs.isEmpty then (s, true)
    else
      let pl := s.place addr
      let m := min bs.length pl.2
      let rest (s : State) : State × Bool := writeG req basin fuel s (addr + m) (bs.drop m)
      match pl.1 with
      | .mem a => rest (s.writeMem a (bs.take m))
      | .lm p off => rest (s.writeLm p off (bs.take m))
      | .csr _ => (s, false)
      | .host x =>
        match s.translate x true req basin with
        | (s, some h) => rest ({ s with host := writeBytes s.host h (bs.take m) }.emit (.host h (bs.take m)))
        | (s, none) => (s, false)
      | .remote d a =>
        let x := s.free.2.newXfer
        let t := x.2.issueWrite x.1 d a (bs.take m) basin whoNone (req == 0x400)
        if Config.remoteOk s.free.1 then rest t else (t, false)
      | .hole h => (s.hole h, false)

end State

end Sys2Proof.Machine
end

