-- ==== Sys2Proof/Machine/HostOps.lean ====
section
/-! DEFINITION. Rings, completions, admin events and mailbox answers (13 R482, R484, R485, R494 to R497, R506 to R511). -/
namespace Sys2Proof.Machine

/-- The requester code of the host rings and of Wellhead in ATU records (13, table). -/
@[reducible] def reqRings : Nat := 0x500
@[reducible] def reqWellhead : Nat := 0x400

/-- A ring has no free slot: it is disabled or full. -/
def Ring.full (r : Ring) : Bool := r.log2 == 0 || decide (2 ^ r.log2 ≤ (r.prod + 65536 - r.cons) % 65536)

/-- The phase of the next entry (13 R509). -/
def Ring.phase (r : Ring) : Nat := 1 - r.prod / 2 ^ r.log2 % 2

/-- Pads or cuts a byte list to `n` bytes. -/
def padTo (n : Nat) (bs : List Byte) : List Byte := (bs ++ List.replicate n 0).take n

namespace State

/-- Writes at a global address as the host rings do. -/
def ringWrite (addr : Nat) (bs : List Byte) (s : State) : State := (writeG reqRings 0 bs.length s addr bs).1

/-- At least `n` ticks have passed since the tick that a table holds. -/
def spaced (s : State) (t : Tab Nat) (k n : Nat) : Bool := match tfind t k with
  | some a => decide (a + n ≤ s.time.ticks)
  | none => true

/-- The notify write of ring `k`: at most one in any 2 µs (492 ticks); an entry inside that time is covered by the next (R484,
R511). -/
def notifyPut (k : Nat) (r : Ring) (s : State) : State :=
  if r.notify = 0 then s
  else if s.spaced s.ctl.notifyAt k 492 then
    { s with ctl := { s.ctl with
      notifyAt := tset s.ctl.notifyAt k s.time.ticks, notifyDue := s.ctl.notifyDue.filter (· ≠ k) } }.ringWrite r.notify (leBytes 4 r.ndata)
  else { s with ctl := { s.ctl with notifyDue := (s.ctl.notifyDue ++ [k]).eraseDups } }

/-- Posts a 32-byte entry (byte 31 is its phase) into ring `k`, which has room; its notify write follows (R509, R511). -/
def ringPut (k : Nat) (r : Ring) (entry : List Byte) (s : State) : State × Ring :=
  let e := padTo 31 entry ++ [BitVec.ofNat 8 (r.phase * 128)]
  let s := s.ringWrite (r.base + r.prod % 2 ^ r.log2 * 32) e
  (s.notifyPut k r, { r with prod := (r.prod + 1) % 65536 })

/-- Notify writes that waited for their time. -/
def notifyTick (s : State) : State :=
  s.ctl.notifyDue.foldl (fun (s : State) k =>
    if s.spaced s.ctl.notifyAt k 492 then s.notifyPut k (if k = 0 then s.aeq else (s.basin (k - 1)).cq) else s) s

/-- An MSI-X message waits. -/
def want (func vec : Nat) (s : State) : State := { s with ctl := s.ctl.want func vec }

/-- A ring's base lies on this device: its posts raise MSI-X (R511). -/
def ringHere (s : State) (r : Ring) : Bool := s.isSelf (r.base / 2 ^ 46)

/-- The function and vector of basin `b`'s mailbox (`which` 0) or completion ring (1) (R482, R484). -/
def basinVec (s : State) (b which : Nat) : Nat × Nat :=
  if b < s.boot.numVf then (b + 1, which) else (0, 3 + 2 * b + which)

/-- Function `f`'s BAR0 holds mailbox `m` and its doorbells (R482): the admin's is the PF's, that of basin b its VF's while b is below
NumVFs, else the PF's. Elsewhere its locations read as zero and ignore writes (R483). -/
def fnServes (s : State) (f : PFunc) (m : Nat) : Bool := match f with
  | .pf => m == 0 || decide (s.boot.numVf ≤ m - 1)
  | .vf n => m == n.val + 1 && decide (n.val < s.boot.numVf)

/-- Writes one completion into basin `b`'s ring, which has room. -/
def cqPut (b : Nat) (entry : List Byte) (s : State) : State :=
  let x := s.basin b
  let r := s.ringPut (1 + b) x.cq entry
  let s := r.1.setBasin b { r.1.basin b with cq := r.2, shadowDue := true }
  if s.ringHere r.2 then let v := s.basinVec b 1; s.want v.1 v.2 else s

/-- The 31 bytes of a completion (13, table "Completion entry"). -/
def completionBytes (type result tag slot : Nat) (detail : List Byte) (flags b : Nat) : List Byte :=
  [BitVec.ofNat 8 type, BitVec.ofNat 8 result] ++ leBytes 2 tag ++ leBytes 4 slot ++ padTo 8 detail
    ++ [BitVec.ofNat 8 flags] ++ List.replicate 13 0 ++ [BitVec.ofNat 8 b]

/-- A slot field: bits 16:7 SFN, bits 6:0 slot. -/
def slotField (i : SlotId) : Nat := i.sfn.val * 128 + i.slot.val

/-- A completion of basin `b`: into the ring, into the basin's queue of 256, or dropped (R509, R510); held while the basin
resets (R513). -/
def complete (b : Nat) (entry : List Byte) (s : State) : State :=
  let x := s.basin b
  if x.st = 2 then s.setBasin b { x with held := x.held ++ [entry] }
  else if x.waiting.isEmpty ∧ x.dropped = 0 ∧ !x.cq.full then s.cqPut b entry
  else if x.waiting.length < 256 then s.setBasin b { x with waiting := x.waiting ++ [entry] }
  else ((s.setBasin b { x with dropped := x.dropped + 1 }).count Reg.HOST_CQ_DROP_CNT 1).event Reg.HOST_STATUS Ev.HOST_CQ_DROP

/-- Writes one admin event (R509); one that finds the ring full is lost and counted, and the next is preceded by an
overflow entry of type 7. -/
def adminPut (entry : List Byte) (s : State) : State :=
  let r := s.ringPut 0 s.aeq entry
  let s := { r.1 with aeq := r.2, aeqDue := true }
  if s.ringHere r.2 then s.want 0 1 else s

/-- The 30 bytes of an admin event. -/
def eventBytes (type code seq mbx : Nat) (ns : Word) (detail : List Byte) : List Byte :=
  [BitVec.ofNat 8 type, BitVec.ofNat 8 code] ++ leBytes 2 seq ++ [BitVec.ofNat 8 mbx, 0, 0, 0] ++ leBytes 4 ns.toNat
    ++ padTo 18 detail

/-- Posts an admin event. -/
def adminEvent (type code seq mbx : Nat) (detail : List Byte) (s : State) : State :=
  if s.aeq.full then { s with aeqLost := s.aeqLost + 1 }
  else
    let s := if s.aeqLost = 0 then s
      else { s.adminPut (eventBytes 7 0 0 0 s.ns32 (leBytes 4 s.aeqLost)) with aeqLost := 0 }
    if s.aeq.full then { s with aeqLost := s.aeqLost + 1 } else s.adminPut (eventBytes type code seq mbx s.ns32 detail)

/-- A mailbox. -/
def mailbox (s : State) (m : Nat) : Mbx :=
  tget (fun _ => ⟨List.replicate 64 0, List.replicate 64 0, 0, 0, 0, false, false, List.replicate 64 0, none⟩) s.mbx m

/-- Replaces a mailbox. -/
def setMailbox (m : Nat) (x : Mbx) (s : State) : State := { s with mbx := tset s.mbx m x }

/-- Answers the command that mailbox `m` has latched: response, LAST_DONE, DONE, MSI-X (R497). -/
def answer (m code : Nat) (results : List Byte) (s : State) : State :=
  let x := s.mailbox m
  let resp := padTo 64 (x.latched.take 1 ++ [BitVec.ofNat 8 code] ++ (x.latched.drop 2).take 2 ++ results)
  let s := s.setMailbox m { x with resp := resp, done := x.accepted, st := 2 }
  if m = 0 then s.want 0 0 else let v := s.basinVec (m - 1) 0; s.want v.1 v.2

end State

/-- Response codes (13, table). -/
@[reducible] def rcOk : Nat := 0x00
@[reducible] def rcAccepted : Nat := 0x01
@[reducible] def rcBadOpcode : Nat := 0x02
@[reducible] def rcBadParam : Nat := 0x03
@[reducible] def rcNotAdmin : Nat := 0x04
@[reducible] def rcState : Nat := 0x05
@[reducible] def rcHostFault : Nat := 0x06
@[reducible] def rcBasinReset : Nat := 0x07
@[reducible] def rcImageBad : Nat := 0x10
@[reducible] def rcCoresShort : Nat := 0x11
@[reducible] def rcNoLease : Nat := 0x12
@[reducible] def rcOverlap : Nat := 0x13
@[reducible] def rcRegionLimit : Nat := 0x14
@[reducible] def rcRegionMixed : Nat := 0x15
@[reducible] def rcRxOverload : Nat := 0x18
@[reducible] def rcDmrs : Nat := 0x19
@[reducible] def rcTxOverload : Nat := 0x1A
@[reducible] def rcDfeConfig : Nat := 0x1B
@[reducible] def rcDfeLatency : Nat := 0x1C
@[reducible] def rcFhConfig : Nat := 0x1D
@[reducible] def rcConfigBad : Nat := 0x1E
@[reducible] def rcUpdBad : Nat := 0x20
@[reducible] def rcModelBusy : Nat := 0x21
@[reducible] def rcModelInvalid : Nat := 0x22
@[reducible] def rcFencedByFault : Nat := 0x28
@[reducible] def rcNoSpare : Nat := 0x29
@[reducible] def rcStepRefused : Nat := 0x30
@[reducible] def rcLeaseConflict : Nat := 0x31
@[reducible] def rcFwBad : Nat := 0x38
@[reducible] def rcSwapped : Nat := 0x40
@[reducible] def rcRejected : Nat := 0x41
@[reducible] def rcValShort : Nat := 0x42
@[reducible] def rcSuperseded : Nat := 0x43
@[reducible] def rcSwapMissed : Nat := 0x44
@[reducible] def rcStepFault : Nat := 0x45
@[reducible] def rcAborted : Nat := 0x46

end Sys2Proof.Machine
end

