-- ==== Sys2Proof/Machine/TimeOps.lean ====
section
/-! DEFINITION. The timebase (12_time.md): the tick, radio time, the clock states and the servo. -/
namespace Sys2Proof.Machine

/-- 2^-40 ns in one second, and in one radio frame. -/
@[reducible] def secUnits : Nat := 1000000000 * 2 ^ 40
@[reducible] def frameUnits : Nat := 10000000 * 2 ^ 40

namespace TimeSt

/-- An increment limited to 100 ppm (R452), and whether it was limited. -/
def clampInc (v : Nat) : Nat × Bool :=
  let n := 0x0411AAAAAAAA
  if v < n - 447392427 then (n - 447392427, true)
  else if n + 447392427 < v then (n + 447392427, true) else (v, false)

/-- The signed amount that slewing adds at a tick, in 2^-40 ns: 2^-(16 + RATE) ns with the sign of the amount (R453). -/
def slewAdd (t : TimeSt) : Int :=
  let st : Int := (2 ^ (24 - t.rate) : Nat)
  if 0 < t.slew then st else if t.slew < 0 then -st else 0

/-- The amount still to slew after a tick, in 2^-23 ns. -/
def slewRest (t : TimeSt) : Int :=
  let st : Int := (2 ^ (7 - t.rate) : Nat)
  if 0 < t.slew then max 0 (t.slew - st) else if t.slew < 0 then min 0 (t.slew + st) else 0

/-- What a tick adds to both counters. -/
def added (t : TimeSt) : Nat := (t.inc + t.slewAdd).toNat

/-- The writes that wait for this tick take effect: increment and ADJ (R451, R453). -/
def arrive (t : TimeSt) : TimeSt :=
  let t := { t with inc := t.incPend.getD t.inc, incPend := none }
  match t.adjPend with
  | some w => { t with adjPend := none, rate := bits w.toNat 26 24, slew := sext 20 (bits w.toNat 19 0) * 2 ^ 23 }
  | none => t

/-- TIME.SUBSEC wraps at this tick (R450). -/
def wraps (t : TimeSt) : Bool := decide (secUnits ≤ t.sub + t.added)

/-- A radio frame boundary falls on this tick (R471). -/
def crosses (t : TimeSt) : Bool :=
  let a : Int := t.sub - t.adv * (2 ^ 40 : Nat)
  decide (a / (frameUnits : Nat) ≠ (a + t.added) / (frameUnits : Nat))

/-- One advance of the counters; PPS_OUT of R468 with its register `pps` (EN, WIDTH). -/
def advance (pps : Nat) (t : TimeSt) : TimeSt :=
  let d := t.added
  let w := t.wraps
  let f := t.crosses
  let width := bits pps 19 0 * 1000 * 2 ^ 40
  let left := if w then width else t.ppsLeft - d
  { t with
    cnt := t.cnt + BitVec.ofNat 72 d
    sub := if w then t.sub + d - secUnits else t.sub + d
    slew := t.slewRest
    sfn := if f then (t.sfn + 1) % 1024 else t.sfn
    adv := if f then t.advPend.getD t.adv else t.adv
    advPend := if f then none else t.advPend
    ppsLeft := left
    ppsOut := bitOf pps 31 && decide (0 < left)
    step := d
    frameTick := f }

/-- What GO loads (R454): the counter with a zero fraction, SUBSEC, the frame count; no slew, FREERUN. -/
def loadGo (ns subsec sfn : Nat) (t : TimeSt) : TimeSt :=
  { t with
    cnt := BitVec.ofNat 72 (ns * 2 ^ 40)
    sub := min subsec 999999999 * 2 ^ 40
    sfn := sfn % 1024
    slew := 0
    clock := 0
    inLock := 0
    goPend := false
    step := 1
    frameTick := false }

/-- Time within the radio frame in 2^-40 ns (R471). -/
def inFrame (t : TimeSt) : Nat := ((t.sub - t.adv * (2 ^ 40 : Nat)) % (frameUnits : Nat)).toNat

/-- The slot of numerology μ in the frame (R472). -/
def slotOf (mu : Nat) (t : TimeSt) : Nat := t.inFrame * 2 ^ mu / (1000000 * 2 ^ 40)

/-- Tc units since the start of the half-subframe (R472). -/
def tcOf (t : TimeSt) : Nat := t.inFrame % (500000 * 2 ^ 40) * 1966080000 / (1000000000 * 2 ^ 40)

/-- The symbol of the half-subframe (R472). -/
def halfSymbol (mu : Nat) (t : TimeSt) : Nat :=
  let w := 140288 / 2 ^ mu
  if t.tcOf < 1024 + w then 0 else (t.tcOf - 1024) / w

/-- The symbol of the slot: the first 1,024 Tc of a slot inside a half-subframe count to its symbol 0 (DEDUCED,
assumption 12). -/
def symbolOf (mu : Nat) (t : TimeSt) : Nat :=
  let h := t.inFrame / (500000 * 2 ^ 40)
  let l := t.halfSymbol mu
  if mu = 0 then h % 2 * 7 + l else l - 14 * (t.slotOf mu - h * 2 ^ (mu - 1))

/-- The present slot and symbol. -/
def slotNow (mu : Nat) (t : TimeSt) : SlotId := ⟨Fin.ofNat 1024 t.sfn, Fin.ofNat 80 (t.slotOf mu)⟩
def symNow (mu : Nat) (t : TimeSt) : SymId := ⟨Fin.ofNat 1024 t.sfn, Fin.ofNat 80 (t.slotOf mu), Fin.ofNat 14 (t.symbolOf mu)⟩

/-- TIME.RADIO of numerology μ. -/
def radio (mu : Nat) (t : TimeSt) : Word :=
  BitVec.ofNat 32 (mu * 2 ^ 25 + t.symbolOf mu * 2 ^ 21 + t.slotOf mu * 2 ^ 14 + t.inFrame / (1000000 * 2 ^ 40) * 2 ^ 10 + t.sfn)

/-- TIME.ADJ reads the remaining AMOUNT truncated toward zero (R453). -/
def adjRead (t : TimeSt) : Word :=
  BitVec.ofNat 32 (t.rate * 2 ^ 24 + wrapN 20 (Int.tdiv t.slew (2 ^ 23)))

end TimeSt

namespace State

/-- Updates the timebase. -/
def onTime (f : TimeSt → TimeSt) (s : State) : State := { s with time := f s.time }

/-- The settings that a write puts into force at the next tick (R480); SOURCE 0 puts the clock to FREERUN. -/
def takeTime (s : State) : State :=
  let c := (((s.ctl.take Reg.TIME_PTP_CFG).take Reg.TIME_SYNCE).take Reg.TIME_PPS_OUT).take Reg.TIME_LATE_LIMIT
  let f := bits (c.inForce Reg.TIME_PTP_CFG).toNat 1 0
  let src := if f = 3 then 0 else f
  let t := s.time
  let t := if src = 0 then { t with clock := 0, inLock := 0, source := 0 } else { t with source := src }
  { s with ctl := c, time := t }

/-- The timebase runs: from the always-on domain's release on, in the spillway state too (R448, 15 R580). -/
def timeRuns (s : State) : Bool := s.mode == .running || s.mode == .recovery || s.mode == .spill

/-- One tick of the timebase: what the block does on an empty queue (assumption 10). -/
def tick (s : State) : State :=
  if s.timeRuns then
    let s := s.takeTime
    let t := { s.time with ticks := s.time.ticks + 1, last := s.time.ns32 }.arrive
    let pps := (s.ctl.inForce Reg.TIME_PPS_OUT).toNat
    if t.goPend then
      let g := t.loadGo (s.reg Reg.TIME_SET_NS32).toNat (s.reg Reg.TIME_SET_SUBSEC).toNat (s.reg Reg.TIME_SET_SFN).toNat
      { s with time := g }.event Reg.TIME_STATUS Ev.TIME_STEPPED
    else { s with time := t.advance pps }
  else s

/-- The next tick, with its pending writes arrived. -/
def nextTick (s : State) : TimeSt := s.time.arrive

/-- The last tick has passed the moment `lead` before a radio time `at_`, both in 2^-40 ns; `at_` counts from the start of SFN 0. -/
def leadDue (s : State) (at_ lead : Nat) : Bool :=
  let round := 1024 * frameUnits
  let now := s.time.sfn * frameUnits + s.time.inFrame
  decide ((now + lead + round - at_ % round) % round < s.time.step)

/-- The last tick is the first at or after an instant at which TIME.SUBSEC is a multiple of `ns` (14 R534, 16 R590). -/
def periodDue (s : State) (ns : Nat) : Bool := decide (s.time.sub % (ns * 2 ^ 40) < s.time.step)

/-- The last tick is the first at or after a slot boundary of numerology μ (R472): one in the frame, or the frame's own. -/
def slotDue (s : State) (mu : Nat) : Bool :=
  s.time.frameTick || decide (s.time.inFrame % (1000000 * 2 ^ 40 / 2 ^ mu) < s.time.step)

/-- Writes the increment that the next tick takes, limited by R452. -/
def putIncrement (v : Nat) (s : State) : State :=
  let c := TimeSt.clampInc v
  let s := s.onTime fun t => { t with incPend := some c.1 }
  if c.2 then s.event Reg.TIME_STATUS Ev.TIME_INC_CLAMP else s

/-- The clock enters HOLDOVER: the remaining AMOUNT is cleared (R457). -/
def enterHoldover (s : State) : State :=
  if s.time.clock = 3 then s
  else
    (s.onTime fun t => { t with clock := 3, slew := 0, adjPend := none, inLock := 0 }).event Reg.TIME_STATUS Ev.TIME_HOLDOVER

/-- A timing-dependent choice of source `b` (14 R549). -/
def choice (b : Nat) (s : State) : State :=
  { s with sched := { s.sched with choices := (s.sched.choices + 1) % 2 ^ 64 } }.event Reg.DET_STATUS b

/-- An offset measurement (R457, R458, the clock states): beyond STEP_LIMIT it is neither slewed nor stepped; within
it, Wellhead's servo writes the increment and ADJ (values of the firmware: assumption 11). -/
def measure (off : Int) (s : State) : State :=
  let cfg := (s.ctl.inForce Reg.TIME_PTP_CFG).toNat
  let lim := max 1 (bits cfg 23 16) * 1000
  let s := s.setReg Reg.TIME_OFFSET (wordOfInt off)
  if lim < off.natAbs then
    let s := s.event Reg.TIME_STATUS Ev.TIME_OFFSET_LARGE
    let s := if s.time.everLocked then s.enterHoldover else s.onTime fun t => { t with clock := 0, inLock := 0 }
    s.adminEvent 5 rcOk 0 0 []
  else
    let n := if off.natAbs ≤ bits cfg 15 8 then s.time.inLock + 1 else 0
    let m := s.time.meas
    let lock := decide (16 ≤ n ∧ s.time.clock ≠ 2)
    let s := s.onTime fun t =>
      { t with
        inLock := n
        meas := m + 1
        clock := if lock then 2 else if t.clock = 2 then 2 else 1
        everLocked := t.everLocked || lock
        adjPend := some (Config.servoAdj m off &&& 0x070FFFFF) }
    let v := (Config.servoIncrement m off).toNat
    let s := (s.setReg Reg.TIME_INCREMENT (BitVec.ofNat 32 v)).setReg Reg.TIME_INCREMENT_HI (BitVec.ofNat 32 (v / 2 ^ 32))
    let s := s.putIncrement v
    if lock then s.event Reg.TIME_STATUS Ev.TIME_LOCKED else s

/-- The source that steers the counter is lost (R457). -/
def loseSource (s : State) : State := if s.time.clock = 1 ∨ s.time.clock = 2 then s.enterHoldover else s

/-- SYNCE_OUT carries the clock of port `k`. -/
def synceOf (s : State) (k : Nat) : Bool :=
  let w := (s.ctl.inForce Reg.TIME_SYNCE).toNat
  bits w 2 0 == k && (bits w 5 4 == 1 || bits w 5 4 == 2)

/-- SYNCE_OUT is squelched (R470). -/
def squelch (s : State) : State :=
  if s.time.synceLow then s else (s.onTime fun t => { t with synceLow := true }).event Reg.TIME_STATUS Ev.TIME_SYNCE_LOS

/-- The PTP port of the selected source is `k`. -/
def ptpPort (s : State) (k : Nat) : Bool := s.time.source == 1 && bits (s.ctl.inForce Reg.TIME_PTP_CFG).toNat 6 4 == k

/-- What the end of port `k`'s link takes from the timebase: SYNCE_OUT, and the PTP source (R464, R470). -/
def clocksLost (k : Nat) (s : State) : State :=
  let s := if s.synceOf k then s.squelch else s
  if s.ptpPort k then s.loseSource else s

/-- A difference of times in 2^-16 ns modulo 2^32 ns, signed. -/
def ns32Diff (a b : Int) : Int := sext 48 (wrapN 48 (a - b))

end State

end Sys2Proof.Machine
end

