-- ==== Sys2Proof/Machine/WeirOps.lean ====
section
/-! DEFINITION. The Weir quads (08_weir_decoder.md): segments to code blocks, HARQ records, engines, completions. -/
namespace Sys2Proof.Machine

/-- The requester code of quad q in ATU records (13, table). -/
@[reducible] def reqWeir (q : Nat) : Nat := 0x100 + q

/-- The LLR ring's base in a cluster's pool: bank 12 (02 R67). -/
@[reducible] def llrRing (q : Nat) : Nat := 0x100000000000 + q * 0x1000000 + 0x900000

/-- Reads a decode descriptor's fields (R274). -/
def decDescOf (bs : List Byte) : DecDesc where
  dest := fieldAt bs 0 8
  tbs := fieldAt bs 8 3
  carrier := fieldAt bs 11 1
  alloc := fieldAt bs 12 1
  qm := fieldAt bs 13 1
  rate := fieldAt bs 14 2
  rnti := fieldAt bs 16 2
  nid := bits (fieldAt bs 18 2) 9 0
  rv := bits (fieldAt bs 18 2) 12 11
  lbrm := bitOf (fieldAt bs 18 2) 13
  ndi := bitOf (fieldAt bs 18 2) 14
  capture := bitOf (fieldAt bs 18 2) 15
  hbuf := fieldAt bs 20 4
  slot := bits (fieldAt bs 24 3) 16 0
  layers := bits (fieldAt bs 27 1) 1 0 + 1
  quad := bits (fieldAt bs 27 1) 3 2
  ncbLim := fieldAt bs 28 2
  tag := fieldAt bs 30 2
  gAck := fieldAt bs 32 3
  gCsi1 := fieldAt bs 35 3
  gCsi2 := fieldAt bs 38 3
  punct := bitOf (fieldAt bs 41 1) 0
  uciDest := fieldAt bs 48 8
  reserved := bits (fieldAt bs 24 3) 23 17 ≠ 0 || bits (fieldAt bs 27 1) 7 4 ≠ 0 || bits (fieldAt bs 41 1) 7 1 ≠ 0
    || fieldAt bs 42 6 ≠ 0 || fieldAt bs 56 8 ≠ 0 || 15 < fieldAt bs 11 1

/-- The segmentation of a descriptor. -/
def DecDesc.segm (d : DecDesc) : Segm := segmentation d.tbs d.rate (if d.lbrm then d.ncbLim else 0)

/-- A descriptor that R275 refuses. -/
def DecDesc.bad (d : DecDesc) (top : Nat) : Bool :=
  d.reserved || !(d.qm ∈ [1, 2, 4, 6, 8]) || d.rate < 30 || 1023 < d.rate || 160 < d.segm.c || top ≤ d.hbuf * 64

/-- Bytes of a code block area of the HARQ record, its soft part, and the area's offset (R285). -/
def softSize (g : Segm) : Nat := (g.ncb + 63) / 64 * 64
def areaSize (g : Segm) : Nat := softSize g + (g.k + 511) / 512 * 64
def areaAt (d : DecDesc) (g : Segm) (c : Nat) : Nat := d.hbuf * 64 + 64 + c * areaSize g

/-! ## UCI (R277; TS 38.212, clause 6.2.7, without frequency hopping; PRESUMED, assumption 8) -/

/-- The descriptor names UCI (R277). -/
def DecDesc.hasUci (d : DecDesc) : Bool := d.gAck != 0 || d.gCsi1 != 0 || d.gCsi2 != 0

/-- Bits of a resource element of a codeword. -/
@[reducible] def DecDesc.unit (d : DecDesc) : Nat := d.layers * d.qm

/-- The resource elements of a codeword by data symbol, numbered in codeword order. -/
def reRuns (res : List (Fin 14 × List Nat)) : List (Nat × List Nat) :=
  (res.foldl (fun (a : Nat × List (Nat × List Nat)) e =>
    (a.1 + e.2.length, a.2 ++ [(e.1.val, (List.range e.2.length).map (a.1 + ·))])) (0, [])).2
def reCount (res : List (Fin 14 × List Nat)) : Nat := (res.map fun e => e.2.length).foldl (· + ·) 0

/-- Takes resource elements for `g` coded bits of `u` bits each, symbol by symbol: all of a symbol's free ones, or in the last
symbol evenly spaced ones. -/
def takeRes (u g : Nat) (free : List (List Nat)) : List Nat :=
  (free.foldl (fun (a : Nat × List Nat) ks =>
    let left := g - a.1
    if ks.isEmpty || left == 0 || u == 0 then a
    else
      let all := decide (ks.length * u ≤ left)
      let d := if all then 1 else ks.length * u / left
      let m := if all then ks.length else (left + u - 1) / u
      (a.1 + m * u, a.2 ++ (List.range m).map fun j => ks.getD (j * d) 0)) (0, [])).2

/-- Each symbol's list without some elements. -/
def without (l : List Nat) (free : List (List Nat)) : List (List Nat) := free.map fun ks => ks.filter fun k => !l.contains k

/-- The resource elements of HARQ-ACK, CSI part 1 and CSI part 2. UCI keeps off symbols with DMRS; HARQ-ACK begins behind the
first run of DMRS symbols. Under UCI_MODE bit 0 HARQ-ACK takes reserved elements, which CSI part 1 avoids; as many are reserved
as G_ACK needs, since the descriptor gives no other number (DESIGN CHOICE, assumption 80). -/
def uciRes (d : DecDesc) (sh : AllocShape) : List Nat × List Nat × List Nat :=
  let dm := sh.dmrs.map (·.val)
  let first := dm.foldl min 14
  let open_ := ((List.range 14).find? fun y => decide (first < y) && !dm.contains y).getD 14
  let runs := (reRuns sh.res).filter fun r => !dm.contains r.1
  let ack := takeRes d.unit d.gAck ((runs.filter fun r => decide (open_ ≤ r.1)).map (·.2))
  let free := runs.map (·.2)
  let csi1 := takeRes d.unit d.gCsi1 (without ack free)
  let csi2 := takeRes d.unit d.gCsi2 (without csi1 (if d.punct then free else without ack free))
  (ack, csi1, csi2)

/-- The codeword positions of resource elements. -/
def posOf (u : Nat) (res : List Nat) : List Nat := res.flatMap fun i => (List.range u).map (i * u + ·)

/-- Codeword positions of the UL-SCH, in order; punctured HARQ-ACK places are among them. -/
def ulPositions (d : DecDesc) (sh : AllocShape) : List Nat :=
  let r := uciRes d sh
  posOf d.unit ((List.range (reCount sh.res)).filter fun i =>
    !r.2.1.contains i && !r.2.2.contains i && (d.punct || !r.1.contains i))

/-- A UL-SCH position that HARQ-ACK punctures. -/
def punctured (d : DecDesc) (sh : AllocShape) (p : Nat) : Bool := d.punct && (uciRes d sh).1.contains (p / d.unit)

/-- Codeword positions of HARQ-ACK, CSI part 1 and CSI part 2, as many as each has coded bits. -/
def uciPositions (d : DecDesc) (sh : AllocShape) : List Nat :=
  let r := uciRes d sh
  (posOf d.unit r.1).take d.gAck ++ (posOf d.unit r.2.1).take d.gCsi1 ++ (posOf d.unit r.2.2).take d.gCsi2

/-- A transport block as its descriptor is taken: its code blocks with their share of the UL-SCH LLRs. -/
def mkBlocks (d : DecDesc) (g : Segm) (sh : AllocShape) : List CBlk :=
  let es := rateLengths g.c d.layers d.qm (ulPositions d sh).length
  es.zipIdx.map (fun x =>
    { e := x.1, off := (es.take x.2).foldl (· + ·) 0, st := .waiting, stamp := 0, soft := [], app := [], msg := [],
      iters := 0, dead := false, lost := false, pass := false, hard := [] })

/-- Key of a used count: kind, unit, activity. -/
def usedKey (kind unit a : Nat) : Nat := (kind * 256 + unit) * 8 + a

/-- Key of a budget: MIN at the key, MAX above it. -/
def budgetKey (kind a : Nat) : Nat := (kind * 8 + a) * 2

namespace State

/-! ## Allowances (14 R534 to R539) -/

/-- Used count of an activity on a unit. -/
def used (s : State) (kind unit a : Nat) : Nat := tget (fun _ => 0) s.sched.used (usedKey kind unit a)

/-- MIN and MAX in force. -/
def minOf (s : State) (kind a : Nat) : Nat := tget (fun _ => 0) s.sched.budget (budgetKey kind a)
def maxOf (s : State) (kind a : Nat) : Nat := tget (fun _ => 0) s.sched.budget (budgetKey kind a + 1)

/-- A background request of `n` unit-cycles is inside its allowance (R537, R539). -/
def allowed (s : State) (kind unit a n : Nat) : Bool := decide (s.used kind unit a + n ≤ s.maxOf kind a)

/-- A capture is skipped (01 R36; 09 R325, R326). -/
def capSkip (s : State) : State := (s.count Reg.BKW_CAP_SKIP_CNT 1).event Reg.BKW_STATUS Ev.BKW_CAP_SKIP

/-! ## Quads -/

/-- A quad. -/
def quad (s : State) (q : Nat) : Weir := tget (fun _ => Weir.reset) s.weir q

/-- Replaces a quad. -/
def setQuad (q : Nat) (w : Weir) (s : State) : State := { s with weir := tset s.weir q w }

/-- Updates a quad. -/
def onQuad (q : Nat) (f : Weir → Weir) (s : State) : State := s.setQuad q (f (s.quad q))

/-- Replaces a transport block in a quad. -/
def setTb (q : Nat) (t : DecTb) (s : State) : State :=
  s.onQuad q fun w => { w with tbs := w.tbs.map (fun u => if u.id = t.id then t else u) }

/-- Replaces a code block. -/
def setBlk (q : Nat) (t : DecTb) (i : Nat) (b : CBlk) (s : State) : State := s.setTb q { t with blocks := t.blocks.set i b }

/-- A transport block by its number. -/
def tbOf (s : State) (q id : Nat) : Option DecTb := (s.quad q).tbs.find? (fun t => t.id == id)

/-- DET.STRICT EFF (14 R547). -/
def eff (s : State) : Bool := bitOf (s.reg Reg.DET_STRICT).toNat 8

/-- Engine e of quad q is enabled and unfenced (R299, R311). -/
def engineOn (s : State) (q e : Nat) : Bool :=
  bitOf (s.reg (Reg.WEIR_ENGINE_EN q)).toNat e && s.fence 1 (q * 6 + e) == 0 && s.fence 5 q == 0

/-- The enabled engines of a quad. -/
def enginesOn (s : State) (q : Nat) : List Nat := (List.range 6).filter (s.engineOn q)

/-- Records an access of the quad that ended in error (R240; 17 R629: not one that CSR space refused). -/
def weirFault (q addr : Nat) (s : State) : State :=
  match (s.place addr).1 with
  | .csr _ => s
  | _ => (s.latchIf (s.quiet (Reg.WEIR_STATUS q)) (Reg.WEIR_FAULT_ADDR q) (BitVec.ofNat 32 addr)).event
      (Reg.WEIR_STATUS q) Ev.WEIR_HOLE

/-- Writes for the quad; on an error records it and answers false. -/
def weirWrite (q basin addr : Nat) (bs : List Byte) (s : State) : State × Bool :=
  let r := writeG (reqWeir q) (basin + 8) bs.length s addr bs
  if r.2 then r else (r.1.weirFault q addr, false)

/-- A global address of this device's local address. -/
def selfAddr (a : Nat) : Nat := 0x3FFFF * 2 ^ 46 + a

/-- Reads `n` granules of 64 bytes of a HARQ record: a poisoned one reads as zeros (R289). -/
def harqGranules (q a : Nat) : Nat → State → State × List Byte
  | 0, s => (s, [])
  | n + 1, s =>
    let r := s.readMem a 64
    let s := if r.2.2 then r.1 else r.1.event (Reg.WEIR_STATUS q) Ev.WEIR_HARQ_POISON
    let t := harqGranules q (a + 64) n s
    (t.1, (if r.2.2 then r.2.1 else List.replicate 64 0) ++ t.2)

/-- Reads from a HARQ record; none where it reaches past DRAM.TOP. -/
def harqRead (q a n : Nat) (s : State) : State × Option (List Byte) :=
  if a + n ≤ s.dramTop then
    let r := s.harqGranules q a ((n + 63) / 64) |> fun r => (r.1, r.2.take n)
    (r.1, some r.2)
  else ((s.hole (.dram a)).weirFault q (selfAddr a), none)

/-- Writes into a HARQ record. -/
def harqWrite (q a : Nat) (bs : List Byte) (s : State) : State × Bool := s.weirWrite q 0 (selfAddr a) bs

/-! ## Completions (R304, R305) -/

/-- The completion entry of a transport block. -/
def decEntry (t : DecTb) (result : Nat) : List Byte :=
  let ok := (t.blocks.filter (fun b => b.pass)).length
  let sum := t.blocks.foldl (fun n b => n + b.iters) 0
  let lost := t.blocks.any (fun b => b.lost)
  let flags := (if lost then 1 else 0) + (if t.mism then 2 else 0) + (if t.deadline then 4 else 0)
  completionBytes 2 result t.d.tag t.d.slot (leBytes 2 ok ++ leBytes 2 (t.blocks.length - ok) ++ leBytes 4 sum) flags t.basin

/-- A transport block of the same slot with a lower ALLOC has not completed. -/
def earlier (tbs : List DecTb) (t : DecTb) : Bool := tbs.any (fun u => u.d.slot == t.d.slot && decide (u.d.alloc < t.d.alloc))

/-- Posts the completions that wait for nothing any more, in ascending ALLOC order (R305). -/
def flushTbs (q : Nat) : Nat → State → State
  | 0, s => s
  | fuel + 1, s =>
    let tbs := (s.quad q).tbs
    match tbs.find? (fun t => t.entry.isSome && !earlier tbs t) with
    | some t =>
      let s := s.onQuad q fun w => { w with tbs := w.tbs.filter (fun u => u.id ≠ t.id) }
      flushTbs q fuel (s.complete t.basin (t.entry.getD []))
    | none => s

/-- Completes a transport block: at once, or with EFF set in ALLOC order within its slot (R305). -/
def finishTb (q : Nat) (t : DecTb) (result : Nat) (s : State) : State :=
  let e := decEntry t result
  if s.eff then
    let s := s.setTb q { t with entry := some e }
    s.flushTbs q (s.quad q).tbs.length
  else
    let early := earlier ((s.quad q).tbs.filter (fun u => u.id ≠ t.id)) t
    let s := s.onQuad q fun w => { w with tbs := w.tbs.filter (fun u => u.id ≠ t.id) }
    let s := if early then s.choice Ev.DET_CQ_ORDER else s
    s.complete t.basin e

/-- Ends a transport block with DEC_FAULT; nothing further is written (R304). -/
def faultTb (q : Nat) (t : DecTb) (s : State) : State :=
  let s := s.onQuad q fun w => { w with eng := w.eng.filter (fun e => decide (e.2 / 256 ≠ t.id)) }
  s.finishTb q t 4

/-- Header of the HARQ record (R285, R288). -/
def harqHeader (t : DecTb) (rounds : Nat) (pass : List Bool) : List Byte :=
  padTo 64 (leBytes 4 0x4F484851 ++ leBytes 3 t.d.tbs ++ leBytes 1 t.g.bg ++ leBytes 2 t.g.z ++ leBytes 2 t.g.c
    ++ leBytes 2 t.g.k ++ leBytes 2 (t.g.k - t.g.kp) ++ leBytes 3 t.g.ncb ++ leBytes 1 rounds ++ packLsb 20 pass)

/-- The transport block's end, when every block has passed or failed: CRC, header, payload, completion (R288, R304). -/
def endTb (q id : Nat) (s : State) : State :=
  match s.tbOf q id with
  | none => s
  | some t =>
    if t.entry.isSome || !(t.blocks.all (fun b => b.st == .ended)) || (t.d.hasUci && !t.uciDone) then s
    else
      let bs := assemble t.g (t.blocks.map (fun b => b.hard))
      let ok := t.blocks.all (fun b => b.pass) && tbCrcOk t.d.tbs bs
      let s := s.count (if ok then Reg.WEIR_TB_OK_CNT q else Reg.WEIR_TB_FAIL_CNT q) 1
      let rounds := if t.newData then 1 else min 255 (t.rounds + 1)
      let pass := t.blocks.map (fun b => b.pass && tbCrcOk t.d.tbs bs)
      let r := s.harqWrite q (t.d.hbuf * 64) (harqHeader t rounds pass)
      if !r.2 then r.1.faultTb q t
      else
        let n := (t.d.tbs + 7) / 8
        let w := r.1.weirWrite q t.basin t.d.dest (packMsb n (bs.take t.d.tbs))
        if !w.2 then w.1.faultTb q t else w.1.finishTb q t (if ok then 0 else 1)

/-- A code block's end: write-back, counts, offer to Backwater unless its budget is spent, transport block's end (R288, R298,
R306; 01 R36). -/
def endBlk (q id i : Nat) (pass : Bool) (hard : List Bool) (s : State) : State :=
  match s.tbOf q id with
  | none => s
  | some t =>
    match t.blocks[i]? with
    | none => s
    | some b =>
      let b' := { b with st := .ended, pass := pass, hard := if hard.isEmpty then List.replicate t.g.k false else hard }
      let t' := { t with blocks := t.blocks.set i b' }
      let s := s.setTb q t'
      let s := s.onQuad q fun w => { w with eng := w.eng.filter (fun e => decide (e.2 ≠ id * 256 + i)) }
      let s := (s.count (if pass then Reg.WEIR_CB_OK_CNT q else Reg.WEIR_CB_FAIL_CNT q) 1).count (Reg.WEIR_ITER_SUM q) b.iters
      let a := areaAt t.d t.g i
      let r := s.harqWrite q a (b.soft.map (fun v => BitVec.ofInt 8 v))
      if !r.2 then r.1.faultTb q t'
      else
        let s := r.1
        let r := if pass then
            let h := s.harqWrite q (a + softSize t.g) (packLsb ((t.g.k + 7) / 8) hard)
            if h.2 then h.1.harqWrite q (t.d.hbuf * 64 + 20) (packLsb 20 (t'.blocks.map (fun b => b.pass))) else h
          else (s, true)
        if !r.2 then r.1.faultTb q t'
        else
          let s := if pass && t.d.capture && !b.lost then
              if [2 * q, 2 * q + 1].any fun e => r.1.allowed 4 e 1 1 then
                r.1.onQuad q fun w => { w with offered := w.offered ++
                  [⟨t.d.slot, t.d.carrier, t.d.alloc, i, t.basin, t.d, t.sh, t.g, b.off, b.e, hard⟩] }
              else r.1.capSkip
            else r.1
          s.endTb q id

/-! ## Engines (R299) -/

/-- An entry of a quad's numbering is of the present round of the frame count: less than a second (245,760,000 ticks) old. -/
def recent (s : State) (x : Nat × Nat × Nat × Nat) : Bool := decide (s.time.ticks < x.2.2.2 + 245760000)

/-- Orders the blocks of a slot by ALLOC, then block index, over the transport blocks that the quad has taken: the static engine
of block `i` of transport block `t`. -/
def staticEngine (s : State) (q : Nat) (t : DecTb) (i : Nat) : Option Nat :=
  let same := (s.quad q).numbered.filter fun x => x.1 == t.d.slot && s.recent x
  let before := same.foldl (fun n x => if x.2.1 < t.d.alloc then n + x.2.2.1 else n) 0
  let on := s.enginesOn q
  on[(before + i) % max 1 on.length]?

/-- The blocks of a quad that are ready, with their stamps: transport block, block, stamp. -/
def readyBlks (s : State) (q : Nat) : List (Nat × Nat × Nat) :=
  (s.quad q).tbs.flatMap (fun t => t.blocks.zipIdx.filterMap (fun x =>
    if x.1.st == .ready then some (t.id, x.2, x.1.stamp) else none))

/-- The oldest of a list of ready blocks. -/
def oldest (l : List (Nat × Nat × Nat)) : Option (Nat × Nat × Nat) :=
  l.foldl (fun m x => match m with
    | none => some x
    | some y => if x.2.2 < y.2.2 then some x else some y) none

/-- Starts a block on engine e. -/
def startBlk (q e id i : Nat) (s : State) : State :=
  match s.tbOf q id with
  | none => s
  | some t =>
    match t.blocks[i]? with
    | none => s
    | some b =>
      let l := layersOf t.g b.soft
      (s.setBlk q t i { b with st := .decoding, app := initApp t.g l b.soft, msg := [], iters := 0 }).onQuad q
        fun w => { w with eng := tset w.eng e (id * 256 + i) }

/-- Free engines take blocks: the oldest ready one, or with EFF set the block's own engine takes it (R299). -/
def assignEngines (q : Nat) (s : State) : State :=
  (s.enginesOn q).foldl (fun s e =>
    if ((s.quad q).eng.any (fun x => x.1 == e)) then s
    else
      let ready := s.readyBlks q
      let mine := if s.eff then ready.filter (fun x =>
          match s.tbOf q x.1 with
          | some t => s.staticEngine q t x.2.1 == some e
          | none => false) else ready
      match oldest mine with
      | some x =>
        let s := s.startBlk q e x.1 x.2.1
        if s.eff then s else s.choice Ev.DET_WEIR_ASSIGN
      | none => s) s

/-! ## From segments to blocks (R276, R279 to R284) -/

/-- The soft input of a block that becomes ready: its LLRs in e's order, zeros where missing, added to what the HARQ
record holds (R284). -/
def softOf (q : Nat) (t : DecTb) (i : Nat) (b : CBlk) (s : State) : State × Option (List Int) :=
  let pos := ((ulPositions t.d t.sh).drop b.off).take b.e
  let fs := pos.map (fun p => if punctured t.d t.sh p then 0 else tget (fun _ => 0) t.got p)
  let es := (List.range b.e).map (fun m => fs.getD (interleaveIdx b.e t.d.qm m) 0)
  if t.newData then (s, some (combine t.g t.d.rv [] es))
  else
    let r := s.harqRead q (areaAt t.d t.g i) t.g.ncb
    (r.1, r.2.map (fun bs => combine t.g t.d.rv (bs.map (fun x => x.toInt)) es))

/-- Makes block `i` ready, `lost` where LLRs are missing (R279, R280). -/
def readyBlk (q id i : Nat) (lost : Bool) (s : State) : State :=
  match s.tbOf q id with
  | none => s
  | some t =>
    match t.blocks[i]? with
    | none => s
    | some b =>
      if b.st ≠ .waiting then s
      else
        let r := s.softOf q t i b
        match r.2 with
        | none => r.1.faultTb q t
        | some soft =>
          let w := r.1.quad q
          let s := r.1.setQuad q { w with nextStamp := w.nextStamp + 1 }
          let s := s.setBlk q t i { b with st := .ready, stamp := w.nextStamp, soft := soft, lost := lost }
          if lost then s.event (Reg.WEIR_STATUS q) Ev.WEIR_LLR_LOST else s

/-- Block `b` has all its LLRs. -/
def covered (t : DecTb) (b : CBlk) : Bool :=
  (((ulPositions t.d t.sh).drop b.off).take b.e).all (fun p => (tfind t.got p).isSome)

/-- Makes ready every block of a transport block that has all its LLRs. -/
def readyCovered (q id : Nat) (s : State) : State :=
  match s.tbOf q id with
  | none => s
  | some t => (List.range t.blocks.length).foldl (fun s i =>
      match s.tbOf q id with
      | some u =>
        match u.blocks[i]? with
        | some b => if b.st == .waiting && covered u b then s.readyBlk q id i false else s
        | none => s
      | none => s) s

/-- Writes the separated UCI once, when it is all there or `late` (R277). -/
def writeUci (q id : Nat) (late : Bool) (s : State) : State :=
  match s.tbOf q id with
  | none => s
  | some t =>
    let pos := uciPositions t.d t.sh
    if t.uciDone || !t.d.hasUci || !(late || pos.all (fun p => (tfind t.got p).isSome)) then s
    else
      let ls := pos.map (tget (fun _ => 0) t.got)
      let r := s.weirWrite q t.basin t.d.uciDest (packLlr ((ls.length + 15) / 16) ls)
      if r.2 then (r.1.setTb q { t with uciDone := true }).endTb q id else r.1.faultTb q t

/-- The numerology of a carrier (its applied record). -/
def muOf (s : State) (carrier : Nat) : Nat :=
  match tfind s.func.applied carrier with
  | some c => c.mu.val
  | none => 0

/-- The slot field before `slot` (SFN * 128 + slot) at numerology μ. -/
def prevSlot (mu slot : Nat) : Nat :=
  if slot % 128 = 0 then (slot / 128 + 1023) % 1024 * 128 + 10 * 2 ^ mu - 1 else slot - 1

/-- The ns after its end at the antenna at which a slot's data ends in the device (R281). -/
def dataEnd (s : State) (r : CarrierRec) : Nat :=
  if r.fronthaul then (s.reg Reg.FH_RX_WIN_CLOSE).toNat else bits (s.reg Reg.DFE_RX_OFFSET).toNat 15 0

/-- A time `ns` after the data end of a slot of a carrier has come, within half a round of the frame count (R280, R281, R302). -/
def afterData (s : State) (carrier slot ns : Nat) : Bool :=
  let mu := s.muOf carrier
  let round := 1024 * frameUnits
  let off := match tfind s.func.applied carrier with
    | some r => s.dataEnd r
    | none => 0
  let at_ := slot / 128 * frameUnits + (slot % 128 + 1) * (1000000 * 2 ^ 40 / 2 ^ mu) + (off + ns) * 2 ^ 40
  decide ((s.time.sfn * frameUnits + s.time.inFrame + 2 * round - at_ % round) % round < round / 2)

/-- The slot field of radio time. -/
def slotField' (s : State) (mu : Nat) : Nat := s.time.sfn * 128 + s.time.slotOf mu

/-- The slot that a segment of SYMBOL belongs to: the present slot once that symbol has ended, else the one before
(DEDUCED, assumption 15: a descriptor carries no slot). -/
def segSlot (s : State) (mu sym : Nat) : Nat :=
  if sym < s.time.symbolOf mu then s.slotField' mu else prevSlot mu (s.slotField' mu)

/-- The transport block that a segment's ALLOC and SYMBOL name. -/
def segTb (s : State) (q alloc sym : Nat) : Option DecTb :=
  (s.quad q).tbs.find? (fun t => t.entry.isNone && t.d.alloc == alloc && t.d.slot == s.segSlot (s.muOf t.d.carrier) sym)

/-- Discards a segment (R282). -/
def orphan (q : Nat) (s : State) : State := (s.count (Reg.WEIR_ORPHAN_CNT q) 1).event (Reg.WEIR_STATUS q) Ev.WEIR_ORPHAN

/-- A segment's LLRs reach the transport block: descrambled, kept for the blocks that still wait (R276, R279, R282). -/
def takeSegment (q : Nat) (t : DecTb) (first : Nat) (llrs : List Int) (s : State) : State :=
  let cinit := t.d.rnti * 2 ^ 15 + t.d.nid
  let ul := ulPositions t.d t.sh
  let touches (b : CBlk) : Bool := ((ul.drop b.off).take b.e).any (fun p => decide (first ≤ p ∧ p < first + llrs.length))
  let hit := t.blocks.filter (fun b => touches b && !(b.st == .ended && b.stamp == 0))
  if !hit.isEmpty && hit.all (fun b => b.st != .waiting) then s.orphan q
  else
    let got := llrs.zipIdx.foldl (fun g x =>
      let p := first + x.2
      tset g p (if Config.goldBit cinit p then -x.1 else x.1)) t.got
    ((s.setTb q { t with got := got }).writeUci q t.id false).readyCovered q t.id

/-- A basin reset drops the basin's work of a quad (R312). -/
def weirBasinDrop (q b : Nat) (s : State) : State :=
  let w := s.quad q
  let mine := w.tbs.filter (fun t => t.basin == b)
  let tag (x : Nat) : Bool := x % 8 == b && bitOf x 3
  let pend := w.polar.any (fun r => tag r.2) || w.polarWait.any (fun r => tag r.2.2)
  if mine.isEmpty && !pend then s
  else
    let ids := mine.map (fun t => t.id)
    let s := s.setQuad q { w with
      tbs := w.tbs.filter (fun t => t.basin ≠ b)
      eng := w.eng.filter (fun e => !(ids.contains (e.2 / 256)))
      polar := w.polar.filter (fun r => !tag r.2)
      polarWait := w.polarWait.filter (fun r => !tag r.2.2) }
    let s := mine.foldl (fun s t => s.complete b (decEntry t 5)) s
    let s := s.flushTbs q (s.quad q).tbs.length
    s.event (Reg.WEIR_STATUS q) Ev.WEIR_BASIN_DROP

/-- Code blocks and polar requests in progress that carry basin `b`'s tag (13 HOST.TAG_CNT). -/
def weirTags (s : State) (b : Nat) : Nat :=
  (List.range 4).foldl (fun n q =>
    let w := s.quad q
    let cbs := w.tbs.foldl (fun n t => if t.basin = b then n + (t.blocks.filter (fun c => c.st != .ended)).length else n) 0
    n + cbs + (w.polar.filter (fun r => r.2 == b + 8)).length) 0

/-- Fabric transfers in progress that carry basin `b`'s tag. -/
def fabricTags (s : State) (b : Nat) : Nat := (s.trib.remotes.filter (fun r => r.basin == b + 8)).length

/-- An engine leaves service: its block starts again from the input buffer on another engine (R311). -/
def dropEngine (q e : Nat) (s : State) : State :=
  let w := s.quad q
  match tfind w.eng e with
  | none => s
  | some k =>
    let s := s.setQuad q { w with eng := tdel w.eng e }
    match s.tbOf q (k / 256) with
    | some t =>
      match t.blocks[k % 256]? with
      | some b => (s.setBlk q t (k % 256) { b with st := .ready, app := [], msg := [], iters := 0 }).assignEngines q
      | none => s
    | none => s

/-- The parameter table latches at a device-wide slot boundary, `slot` at numerology μ (R295). -/
def latchTable (q mu slot : Nat) (s : State) : State :=
  let sel := (s.reg (Reg.WEIR_PARAM_SEL q)).toNat % 2
  let base := (s.reg (if sel = 0 then Reg.WEIR_PARAM_A q else Reg.WEIR_PARAM_B q)).toNat * 64
  let w := s.quad q
  let r := if base + 2240 ≤ s.dramTop then s.readMem base 2240 else (s, [], false)
  let t := r.2.1
  let ok := r.2.2 && fieldAt t 0 4 == 0x4F485750 && fieldAt t 4 2 == 1
    && fieldAt t 16 4 == (crc32c ((t.drop 64).take 2176)).toNat
  let table := if ok then t else w.table
  let s := if ok then
      r.1.setReg (Reg.WEIR_PARAM_ACTIVE q) (BitVec.ofNat 32 (sel + 2 + fieldAt t 8 3 * 256))
    else r.1.event (Reg.WEIR_STATUS q) Ev.WEIR_PARAM_INVALID
  let fresh (u : DecTb) : DecTb :=
    let m := s.muOf u.d.carrier
    if u.table.isNone && u.d.slot / 128 == slot / 128 && u.d.slot % 128 / 2 ^ (m - mu) == slot % 128
    then { u with table := some table } else u
  s.setQuad q { w with table := table, prev := w.table, latched := slot, latchedMu := mu, tbs := w.tbs.map fresh }

end State

end Sys2Proof.Machine
end

