-- ==== Sys2Proof/Machine/FaultOps.lean ====
section
/-! DEFINITION. What events and faults do beyond their bits: ends of jobs' leaves (14 R528, R529), suspect marks, fences
and remaps (15 R563 to R573), and the wrapper under which every command runs. -/
namespace Sys2Proof.Machine
namespace State

/-! ## Jobs (14 R525 to R533) -/

/-- Results of a job completion (13, table "Result codes"). -/
@[reducible] def jobOk : Nat := 0
@[reducible] def jobReset : Nat := 5
@[reducible] def jobCancelled : Nat := 6
@[reducible] def jobFault : Nat := 7

/-- Posts the completion of job `num` of basin `b` and counts it (R529, R533). The slot that the entry carries is
open (assumption 2). -/
def jobDone (b num result : Nat) (s : State) : State :=
  let f := s.free
  let x := f.2.basin b
  let x := if result = jobReset then { x with reset := (x.reset + 1) % 2 ^ 48 }
    else if result = jobCancelled then { x with cancelled := (x.cancelled + 1) % 2 ^ 48 }
    else { x with completed := (x.completed + 1) % 2 ^ 48 }
  (f.2.setBasin b x).complete b (completionBytes 3 result 0 (Config.jobSlot f.1 % 2 ^ 17) (leBytes 6 num) 0 b)

/-- Replaces the list of jobs. -/
def setJobs (js : List Job) (s : State) : State := { s with sched := { s.sched with jobs := js } }

/-- The next job number of basin `b` is taken, and the job counts as submitted (R525, R533). -/
def takeNumber (b : Nat) (s : State) : Nat × State :=
  let x := s.basin b
  (x.nextJob, s.setBasin b { x with nextJob := (x.nextJob + 1) % 2 ^ 48, submitted := (x.submitted + 1) % 2 ^ 48 })

/-- A job record. -/
def jobRec (s : State) (i : Nat) : Option JobRec := tfind s.sched.recs i

/-- Replaces a job record. -/
def setRec (i : Nat) (r : JobRec) (s : State) : State := { s with sched := { s.sched with recs := tset s.sched.recs i r } }

/-- An instance of record `i` takes its number and is FETCHED; instance k launches at LAUNCH + k × PERIOD (R527). -/
def newInstance (i : Nat) (r : JobRec) (s : State) : State :=
  let n := s.takeNumber r.basin
  let j : Job :=
    { basin := r.basin, num := n.1, rec_ := i, inst := r.taken, launch := (r.launch + r.taken * r.period) % 2 ^ 32,
      st := .fetched, leaves := [], preempted := false }
  (n.2.setRec i { r with taken := r.taken + 1 }).setJobs (s.sched.jobs ++ [j])

/-- The instance after job `j` takes its number once `j` runs, is missed or is skipped (R525, R527, R478; DEDUCED,
assumption 28). -/
def nextInstance (j : Job) (s : State) : State :=
  match s.jobRec j.rec_ with
  | some r =>
    if r.repeat_ && !r.ended && decide (r.taken = j.inst + 1 ∧ (r.count = 0 ∨ r.taken < r.count)) then s.newInstance j.rec_ r else s
  | none => s

/-- Completes a job all of whose leaves have ended or been discarded (R528, R529). -/
def closeJob (s : State) (j : Job) : State :=
  if j.leaves.all fun l => decide (2 ≤ l.2) then
    let s := s.setJobs (s.sched.jobs.filter fun k => !(k.basin == j.basin && k.num == j.num))
    (s.nextInstance j).jobDone j.basin j.num (if j.leaves.any fun l => l.2 == 3 then jobFault else jobOk)
  else s

/-- The leaf on core `p`, of the oldest job that has it in state `frm`, takes state `next`. -/
def leafTo (p frm next : Nat) (s : State) : State :=
  let js := s.sched.jobs
  let i := js.findIdx fun j => (j.st == .running || j.st == .armed) && !j.preempted && j.leaves.any fun l => l.1 == p && l.2 == frm
  match js[i]? with
  | none => s
  | some j =>
    let j := { j with
      leaves := j.leaves.map fun l => if l.1 == p && l.2 == frm then (p, next) else l
      st := if next = 1 then .running else j.st }
    let s := s.setJobs (js.set i j)
    (if next = 1 then s.nextInstance j else s).closeJob j

/-- The leaf running on a core ends, or its work is discarded. -/
def leafEnds (p : Nat) (s : State) : State := s.leafTo p 1 2
def leafDiscard (p : Nat) (s : State) : State := s.leafTo p 1 3
/-- The leaf armed on a core issues, or its launch is missed (12 R477, R478). -/
def leafIssues (p : Nat) (s : State) : State := s.leafTo p 0 1
def leafMisses (p : Nat) (s : State) : State := s.leafTo p 0 3

/-! ## Fences (15 R563 to R568) -/

/-- The fault word of the collector over a fenced unit. -/
def collectorWord (s : State) (kind num : Nat) : Word :=
  match kind with
  | 0 => (s.core num).reg cFAULTWORD
  | 1 => s.reg (Reg.WEIR_FAULTWORD (num / 6))
  | 2 => s.reg (Reg.WEIR_FAULTWORD (num / 2))
  | 3 => s.reg (Reg.WEIR_FAULTWORD num)
  | 4 => s.reg (Reg.PGRP_FAULTWORD (num / 4))
  | _ => s.reg (Reg.POOL_FAULTWORD num)

/-- UNIT of a log entry for a unit: physical core, quad, group or cluster. -/
def logUnitOf (kind num : Nat) : Nat :=
  match kind with
  | 1 => num / 6
  | 2 => num / 2
  | 4 => num / 4
  | _ => num

/-- Key of an event of core `p`, and of an entry that Wellhead writes of its own, which follows the events of its cycle (R561). -/
def coreKey (p b : Nat) : Nat := (0x200000 + p * 0x1000) * 32 + b
@[reducible] def ownKey : Nat := 2 ^ 40

/-- Writes a fault-log entry of `kind` for the event with key `key` (R560). -/
def logPut (key kind cls unit : Nat) (word info addr : Word) (basin : Nat) (s : State) : State :=
  { s with ctl := (s.ctl.logEntry (Ctl.entryWords kind cls unit word info addr basin s.ns32)).keyed key }

/-- The command's entries take their order (R561). -/
def sortLog (s : State) : State := { s with ctl := s.ctl.sortLog }

/-- A kind 0x09 entry: logical number, old and new physical core. -/
def logFence (kind num logical old new : Nat) (s : State) : State :=
  s.logPut ownKey 9 2 (logUnitOf kind num) (s.collectorWord kind num) (BitVec.ofNat 32 (logical + old * 256 + new * 65536)) 0 0

/-- A type-4 admin event (13; its DETAIL's layout is open, assumption 2). -/
def noticeEvent (code kind num logical new : Nat) (s : State) : State :=
  s.adminEvent 4 code 0 0 (Config.eventDetail 4 [kind, num, logical, new])

/-- The spare that a remap of logical core `k` would take (R564): the first one listed that is enabled, unfenced and
not taken. -/
def spareFor (s : State) (k : Nat) : Option (Nat × Nat) :=
  let listed := s.catchments.flatMap fun c => (c.leaves.filter fun l => s.leafHere l && l.core.val == k).flatMap (·.spares)
  listed.findSome? fun j =>
    match s.physOf j.val with
    | some q => if j.val < s.enabled ∧ !s.coreFenced q ∧ q ∉ s.flt.taken then some (j.val, q) else none
    | none => none

/-- A core is a leaf of a loaded catchment: its logical number. -/
def leafNumber (s : State) (p : Nat) : Option Nat :=
  match s.logOf p with
  | some k => if s.catchments.any fun c => (s.rankIn c k).isSome then some k else none
  | none => none

/-- A core stops for good: it halts, its units write no more, and its transfers are dropped at their next burst
boundary (R563; 04 R157). -/
def Core.fenced (c : Core) : Core :=
  { c with
    run := .fenced
    pass := none
    eddy := none
    ldprog := []
    flight := []
    si := c.si.map fun x => { x with dropped := true }
    so := c.so.map fun x => { x with dropped := true } }

/-- Marks a unit fenced: 1 by a fault, 2 by FENCE. -/
def setFence (kind num how : Nat) (s : State) : State :=
  { s with fences := tset s.fences (kind * 64 + num) (max how 1), flt := { s.flt with recheck := true } }

/-- The unit's fence event, and for FENCE its kind 0x09 entry (R568). -/
def fenceRecords (kind num how : Nat) (s : State) : State :=
  let s := s.event Reg.FAULT_STATUS Ev.FAULT_FENCE
  if how = 2 then
    let k := if kind = 0 then (s.logOf num).getD 255 else 255
    s.logFence kind num k (if kind = 0 then num else 255) 255
  else s

/-- No spare takes the unit's place: the event, and for a fault the type-4 notice (R567). -/
def noSpare (kind num how : Nat) (s : State) : State :=
  let s := s.event Reg.FAULT_STATUS Ev.FAULT_NO_SPARE
  if how = 2 then s
  else s.noticeEvent rcNoSpare kind num (if kind = 0 then (s.logOf num).getD 255 else 255) 255

/-- A training core fenced during a step discards the step's runs (09, R350). -/
def stepLost (p : Nat) (s : State) : State :=
  let f (r : Nat × Region) : Nat × Region := if r.2.window == some p then (r.1, { r.2 with window := none, runs := [] }) else r
  { s with bkw := { s.bkw with regions := s.bkw.regions.map f } }

/-- A core that goes out of service: halt, FENCED in its catchments, its running job's leaf discarded. -/
def stopCore (p : Nat) (s : State) : State :=
  (((s.setCore p (Core.fenced (s.core p))).catchPhys Ev.CATCHFW_FENCED p).leafDiscard p).stepLost p

/-- Fences a core (R563), and queues its remap where a spare qualifies (R564, R566). -/
def fenceCore (p how : Nat) (s : State) : State :=
  if s.coreFenced p then s
  else
    let s := ((s.stopCore p).setFence 0 p how).fenceRecords 0 p how
    match s.leafNumber p with
    | none => s
    | some k =>
      if (s.spareFor k).isSome then { s with flt := { s.flt with remaps := s.flt.remaps ++ [⟨p, k⟩] } }
      else s.noSpare 0 p how

/-- Encoder `e` takes work: enabled and unfenced (08 R310). -/
def encoderOn (s : State) (e : Nat) : Bool :=
  bitOf (s.reg (Reg.WEIR_ENGINE_EN (e / 2))).toNat (6 + e % 2) && s.fence 2 e == 0 && s.fence 5 (e / 2) == 0

/-- The encoder that takes the work of encoder `e`: itself, or the next enabled one with wrap-around. -/
def encoderFor (s : State) (e : Nat) : Option Nat := ((List.range 8).map fun i => (e + i) % 8).find? s.encoderOn

/-- The queue of code blocks at an encoder. -/
def encQueue (s : State) (e : Nat) : List (Nat × Nat) := tget (fun _ => []) s.tx.queues e

/-- The code blocks of an encoder out of service go to the next enabled one (08 R310). -/
def moveEncoder (e : Nat) (s : State) : State :=
  match s.encoderFor e with
  | none => s
  | some d =>
    if d = e then s
    else { s with tx := { s.tx with queues := tset (tset s.tx.queues d (s.encQueue d ++ s.encQueue e)) e [] } }

/-- Clears bits of WEIR.ENGINE_EN of quad `q`. -/
def disableUnits (q mask : Nat) (s : State) : State :=
  s.setReg (Reg.WEIR_ENGINE_EN q) (s.reg (Reg.WEIR_ENGINE_EN q) &&& ~~~(BitVec.ofNat 32 mask))

/-- A polar request ends (08 R307): status and payload at DEST; in a fenced decoder CRC_FAIL with bit 1 set (R311). -/
def polarFinish (q req tag : Nat) (fenced : Bool) (s : State) : State :=
  let src := bits req 63 0
  let dest := bits req 127 64
  let e := bits req 151 128
  let k := bits req 175 160
  let crc := bits req 183 176
  let s := s.count (Reg.WEIR_POLAR_CNT q) 1
  let r := readG (reqWeir q) tag (llrBytes e) s src (llrBytes e)
  if r.2.2 then
    let d := Config.polarDecode k crc (bits req 159 152) (bitOf req 184) (unpackLlr e r.2.1)
    let pass := d.1 && !fenced
    let n := (k - (if crc = 0 then 6 else 11) + 7) / 8
    let status := (if pass then 1 else 0) + (if fenced then 2 else 0) + d.2.1 % 256 * 256 + min d.2.2.1 65535 * 65536
    let out := leBytes 8 status ++ padTo n (packMsb n d.2.2.2)
    let w := writeG (reqWeir q) tag out.length r.1 dest out
    if w.2 then w.1 else w.1.weirFault q dest
  else r.1.weirFault q src

/-- The polar decoder of quad `q` is fenced: its requests complete with CRC_FAIL (08 R311). -/
def polarStops (q : Nat) (s : State) : State :=
  let reqs := (s.quad q).polar
  reqs.foldl (fun (s : State) (r : Nat × Nat) => s.polarFinish q r.1 r.2 true) (s.onQuad q fun w => { w with polar := [] })

/-- Fences one unit by kind and number (R563): 0 core, 1 Weir engine 6 q + e, 2 encoder, 3 polar decoder, 4 port,
5 cluster. -/
def fenceUnit (kind num how : Nat) (s : State) : State :=
  if s.fence kind num ≠ 0 then s
  else
    match kind with
    | 0 => s.fenceCore num how
    | 1 => (((s.setFence 1 num how).disableUnits (num / 6) (2 ^ (num % 6))).dropEngine (num / 6) (num % 6)).fenceRecords 1 num how
      |>.noSpare 1 num how
    | 2 => (((s.setFence 2 num how).disableUnits (num / 2) (2 ^ (6 + num % 2))).moveEncoder num).fenceRecords 2 num how
      |>.noSpare 2 num how
    | 3 => ((((s.setFence 3 num how).disableUnits num 256).polarStops num).fenceRecords 3 num how).noSpare 3 num how
    | 4 =>
      let s := (s.setFence 4 num how).setReg (Reg.CP_CFG num) (s.reg (Reg.CP_CFG num) &&& ~~~1)
      let s := if (s.port num).link then s.clocksLost num else s
      ((s.setPort num { s.port num with link := false, fwd := [] }).fenceRecords 4 num how).noSpare 4 num how
    | _ =>
      let s := s.setFence 5 num how
      let s := (List.range 13).foldl (fun (s : State) i => s.stopCore (13 * num + i)) s
      let s := s.disableUnits num 0x1FF
      let s := ((List.range 6).foldl (fun (s : State) e => s.dropEngine num e) s).polarStops num
      let s := (s.moveEncoder (2 * num)).moveEncoder (2 * num + 1)
      (s.fenceRecords 5 num how).noSpare 5 num how

/-! ## Suspect marks (15 R573) -/

/-- Timebase ticks in one second (00, 12: 245.76 MHz). -/
@[reducible] def ticksPerSecond : Nat := 245760000

/-- Core `p` receives a suspect mark: it is tested ahead of the rest, and fenced when its marks within the window reach
the limit. -/
def suspect (p : Nat) (s : State) : State :=
  let cfg := (s.ctl.inForce Reg.FAULT_SUSPECT_CFG).toNat
  let window := bits cfg 31 16 * ticksPerSecond
  let marks := (s.flt.marks ++ [(p, s.time.ticks)]).filter fun m => decide (s.time.ticks ≤ m.2 + window)
  let s := { s with flt := { s.flt with marks := marks, queue := if p ∈ s.flt.queue then s.flt.queue else s.flt.queue ++ [p] } }
  if max 1 (bits cfg 7 0) ≤ (marks.filter fun m => m.1 == p).length ∧ !s.coreFenced p then
    let c := s.core p
    let s := s.event Reg.FAULT_STATUS Ev.FAULT_SUSPECT
    let s := s.logPut (coreKey p 15) 2 2 p (c.reg cFAULTWORD) (c.reg cFAULT_INFO) (c.reg cFAULT_ADDR) (bits (c.reg cBASIN).toNat 3 0)
    s.fenceCore p 1
  else s

/-! ## What follows each event of a core's fault word (04 R157; 15 R557 to R560) -/

/-- Class of a bit of CORE.FAULTWORD: 0 advisory, 1 recoverable, 2 fencing (04, table "CORE.FAULTWORD fields"). -/
def coreClass (b : Nat) : Nat := if b = 0 then 0 else if b = 7 ∨ b = 8 ∨ b = 14 then 2 else 1

/-- Wellhead's and the catchments' share of an event bit that core `p` has set. -/
def coreEvent (p b : Nat) (s : State) : State :=
  let c := s.core p
  let cls := coreClass b
  let s := if cls = 2 then s else s.catchPhys (if cls = 0 then Ev.CATCHFW_ADVISORY else Ev.CATCHFW_RECOVERABLE) p
  let key := 0x200000 + p * 0x1000
  let s := if cls = 2 ∨ bitOf (c.reg cIRQ_EN).toNat b then
      { s with ctl := { s.ctl with irq := tput (fun _ => 0) s.ctl.irq key (tget (fun _ => 0) s.ctl.irq key + 1) } }
    else s
  let s := if cls ≠ 0 ∧ (cls = 2 ∨ bitOf (c.reg cIRQ_EN).toNat b) then
      s.logPut (coreKey p b) 2 cls p (c.reg cFAULTWORD) (c.reg cFAULT_INFO) (c.reg cFAULT_ADDR) (bits (c.reg cBASIN).toNat 3 0)
    else s
  let s := if b = 1 ∨ b = 2 ∨ b = 6 then s.suspect p else s
  if cls = 2 then s.fenceCore p 1 else s

/-- Takes the events that the command has left in the cores, in ascending core and bit order (15 R561). -/
def settleCores (s : State) : State :=
  (List.range 52).foldl (fun (s : State) p =>
    let c := s.core p
    if c.evs.isEmpty then s
    else
      let s := s.setCore p { c with evs := [] }
      ((List.range 15).flatMap fun b => c.evs.filter (· == b)).foldl (fun (s : State) b => s.coreEvent p b) s) s

/-- Fencing bits of the shared collectors set by the command fence their units at once (15 R563). -/
def settleUnits (s : State) : State :=
  let s := (List.range 4).foldl (fun (s : State) q =>
    let w := (s.reg (Reg.WEIR_FAULTWORD q)).toNat
    let s := (List.range 6).foldl (fun (s : State) e => if bitOf w (6 + e) then s.fenceUnit 1 (q * 6 + e) 1 else s) s
    let s := if bitOf w 5 then s.fenceUnit 3 q 1 else s
    let s := (List.range 2).foldl (fun (s : State) e => if bitOf w (3 + e) then s.fenceUnit 2 (q * 2 + e) 1 else s) s
    let p := (s.reg (Reg.POOL_FAULTWORD q)).toNat
    if bits p 23 8 ≠ 0 ∨ bits p 3 2 ≠ 0 then s.fenceUnit 5 q 1 else s) s
  (List.range 2).foldl (fun (s : State) g =>
    let w := (s.reg (Reg.PGRP_FAULTWORD g)).toNat
    (List.range 4).foldl (fun (s : State) i => if bitOf w (8 + i) then s.fenceUnit 4 (g * 4 + i) 1 else s) s) s

/-- Strict mode in force (14 R547): not before the first FUNC_START has completed, during a start, a change, a remap or
a basin reset, or while no function is started. -/
def strictEff (s : State) : Bool :=
  let busy := match s.func.proc with
    | some p => p.kind == 0 || p.kind == 2
    | none => false
  bitOf (s.reg Reg.DET_STRICT).toNat 0 && s.func.started != 0 && !busy && s.flt.remaps.isEmpty
    && !(s.basins.any fun b => b.2.st == 2)

/-- What every command leaves behind: events taken, DET.STRICT brought up to date. -/
def settle (s : State) : State :=
  let s := s.settleCores.settleUnits.sortLog
  if bitOf (s.reg Reg.DET_STRICT).toNat 8 = s.strictEff then s
  else s.setReg Reg.DET_STRICT (setBits (s.reg Reg.DET_STRICT) 8 8 (if s.strictEff then 1 else 0))


/-- The outputs of the last command are gone when a command begins. -/
def clearOuts (s : State) : State := { s with outs := [] }

/-- Puts a queue of waiting commands back: a command's effect is on everything but the queue. -/
def withPending (q : List Instr) (s : State) : State := { s with pending := q }

/-- A command of the booted device: its effect, then what the effect's events bring; in any other mode it does
nothing (15 R579, 16 R612). -/
def run (f : State → State) (s : State) : Host.Outcome State Fault Refusal :=
  .next ((if s.clearOuts.awake then (f s.clearOuts).settle else s.clearOuts).withPending s.pending)

/-- A command that acts in other modes too. -/
def runAny (f : State → State) (s : State) : Host.Outcome State Fault Refusal :=
  .next ((f s.clearOuts).sortLog.withPending s.pending)

/-- A command of the always-on domain: it acts while the timebase runs. -/
def runOn (f : State → State) (s : State) : Host.Outcome State Fault Refusal :=
  .next ((if s.clearOuts.timeRuns then (f s.clearOuts).sortLog else s.clearOuts).withPending s.pending)

end State

end Sys2Proof.Machine
end

