-- ==== Sys2Proof/Machine/CoreRun.lean ====
section
/-! DEFINITION. The core commands: one core cycle with its bundle, the launch gate, the ends of passes, runs, loads and
transfers, halts and scrubs (04_core.md R110 to R160, 05_instruction_set.md R163 to R202, 12_time.md R474 to R479,
16_power_reset_boot.md R593, R597, R600). -/
namespace Sys2Proof.Machine
namespace State

/-- Requester codes of the sluice engines of a core (13, table "ATU fault record"). -/
def reqSluice (s : State) (p : Nat) (so : Bool) : Nat := (s.logOf p).getD 0 + (if so then 0x80 else 0)

/-- What a core sees of the device. -/
def coreEnv (s : State) (p : Nat) : CoreEnv where
  ns32 := s.ns32
  lcore := (s.logOf p).getD (Config.noLogical p % 256)
  lateLimit := (s.ctl.inForce Reg.TIME_LATE_LIMIT).toNat

/-- Updates a core. -/
def onCore (p : Nat) (f : Core → Core) (s : State) : State := s.setCore p (f (s.core p))

/-! ## Transfers that reach another device (07 R270, R271; 11 R408, R409) -/

/-- What a transfer of an engine is called in the fabric's records. -/
def xferWho (p : Nat) (so : Bool) (num : Nat) : Nat := (p * 2 + (if so then 1 else 0)) * 65536 + num

/-- The far-side address of row `r`. -/
def Xfer.farAt (x : Xfer) (so : Bool) (r : Nat) : Nat := Xfer.glob (if so then x.dstAt r else x.srcAt r)

/-- Row `r` lies on another device. -/
def farRemote (s : State) (x : Xfer) (so : Bool) (r : Nat) : Option (Nat × Nat) :=
  match (s.place (Xfer.farAt x so r)).1 with
  | .remote d a => some (d, a)
  | _ => none

/-- Row `r`'s far side is a hole: the transfer will end there (R241). -/
def farHole (s : State) (x : Xfer) (so : Bool) (r : Nat) : Bool :=
  match (s.place (Xfer.farAt x so r)).1 with
  | .hole _ => true
  | _ => false

/-- Row `r`'s far side is on a device that no lease or route reaches (01 R17). -/
def farLost (s : State) (x : Xfer) (so : Bool) (r : Nat) : Bool := (s.place (Xfer.farAt x so r)).1 == .hole .trib

/-- Replaces a transfer of an engine, by its number. -/
def Core.setXfer (so : Bool) (x : Xfer) (c : Core) : Core :=
  let f (l : List Xfer) : List Xfer := l.map fun y => if y.num = x.num then x else y
  if so then { c with so := f c.so } else { c with si := f c.si }

/-- Sends the frames of the rows of a transfer that lie on another device, up to its first hole; one that no lease or route
reaches is recorded now, and the transfer will end there (01 R17). -/
def sendRows (p : Nat) (so : Bool) (x : Xfer) (s : State) : State :=
  let rows := (List.range x.rows).takeWhile fun r => !s.farHole x so r
  let stop := if rows.length < x.rows ∧ s.farLost x so rows.length = true then some rows.length else none
  let away := rows.filter fun r => (s.farRemote x so r).isSome
  let x := { x with stop := stop, away := away, remote := if away.isEmpty then .none else .frames }
  let s := s.onCore p (Core.setXfer so x)
  let s := if stop.isSome then s.hole .trib else s
  if away.isEmpty then s
  else
    let f := s.newXfer
    away.foldl (fun (s : State) r =>
      match s.farRemote x so r with
      | none => s
      | some (d, a) =>
        if so then s.issueWrite f.1 d a (readBytes (s.core p).lm (x.srcAt r).toNat x.rowBytes) x.basin (xferWho p so x.num) false
        else
          let dest := if x.target = 0 then 0x110000000000 + (s.logOf p).getD 0 * 0x100000 + (x.dstAt r).toNat else r * x.rowBytes
          s.issueRead f.1 d a x.rowBytes dest x.basin (xferWho p so x.num)) f.2

/-! ## Issue -/

/-- A core with no job left: RANK reads 0xFFF, unless Wellhead has armed the next launch (05 R166). -/
def noJob (p : Nat) (s : State) : State :=
  s.onCore p fun c => if c.gate.armed && c.gate.wh then c else { c with rank := 0xFFF }

/-- A bundle that may not issue: ILLEGAL, the core halts, its job is discarded; at a launch of Wellhead's the job is the one
that was to start (05 R165). -/
def illegal (p : Nat) (launch : Bool) (s : State) : State :=
  let c := s.core p
  let s := s.setCore p { c.raise 9 0 c.pc 0 with run := .halted .illegal }
  (if launch then s.leafMisses p else s.leafDiscard p).noJob p

/-- The gate of core `p` does not issue (12 R477): LAUNCH_MISSED, and RECOVERABLE for the job it discards (01 R28). -/
def gateMiss (p : Nat) (s : State) : State :=
  let c := s.core p
  let wh := c.gate.wh
  let s := s.setCore p { disarm c with run := .halted .missed }
  let s := ((s.catchPhys Ev.CATCHFW_LAUNCH_MISSED p).catchPhys Ev.CATCHFW_RECOVERABLE p).count Reg.TIME_GATE_MISS_CNT 1
  let s := s.event Reg.TIME_STATUS Ev.TIME_GATE_MISS
  (if wh then s.leafMisses p else s.leafDiscard p).noJob p

/-- A gate first evaluated after its time has come: late, or missed (12 R475 to R477). -/
def gateBehind (p : Nat) (s : State) : State :=
  let c := s.core p
  match evalGate s.ns32 c.gate.time (s.coreEnv p).lateLimit with
  | .waits => s
  | .late => s.setCore p { c with gate := { c.gate with late := true, past := false } }
  | .missed => s.gateMiss p

/-- Upsets that stop the bundle before it issues: in instruction memory or the sequencer's registers. -/
def atFetch (u : Upset) : Bool := u.store == .instrMem || u.store == .sequencer

/-- Upsets that an ST covering their word whole never meets (04 R144). -/
def coveredBySt (c : Core) (b : Bundle) (u : Upset) : Bool :=
  u.store == .localMem && bits b.m 23 20 == 2 && bits b.m 19 18 == 3 && (c.ar (bits b.m 11 8)).toNat == u.addr / 8 * 8

/-- The bundle at the core's pc issues, stalls, or is illegal; `gated` marks a launch that has come (05 R163, R165,
R191; 04 R145, R153). -/
def tryIssue (p : Nat) (gated : Bool) (ups : List Upset) (s : State) : State :=
  let c := s.core p
  let b := bundleOf (c.bundle c.pc)
  let wh := gated && c.gate.wh
  let held (ks : List Nat) (c : Core) : State :=
    let gate := if gated then { c.gate with opened := true } else c.gate
    s.setCore p { ks.foldl (fun c k => c.count k 1) c with stall := c.stall + 1, gate := gate, run := if gated then .waiting else c.run }
  if !b.decodeOk || !controlOk c b then s.illegal p wh
  else
    match waitOf c b with
    | k :: ks => held (k :: ks) c
    | [] =>
      if !copiedOk c b then s.illegal p wh
      else
        let bank := c.bankServe b
        if bank.1 < (bankReqs c b).length then held [cSTALL_BANK] { c with served := bank.1, taken := bank.2 }
        else
          let c := { c with taken := bank.2 }
          let r := issue (s.coreEnv p) b gated (c.upsets c.pc (ups.filter fun u => !coveredBySt c b u))
          let s := s.setCore p r.1
          let s := if wh then s.leafIssues p else s
          let s :=
            if r.1.xnum = c.xnum then s
            else
              let so := bitOf b.m 19
              match (if so then r.1.so else r.1.si).getLast? with
              | some x => s.sendRows p so x
              | none => s
          if r.2 then
            let s := (s.leafEnds p).noJob p
            let g := (s.core p).gate
            if g.armed && !g.late && decide (0 ≤ gateL s.ns32 g.time) then s.gateBehind p else s
          else s

/-- The launch time of the gate has come at this tick (01 R30; 12 R474, R475). -/
def launchNow (s : State) (g : Gate) : Bool :=
  g.armed && !g.past && !g.late && !g.opened && decide (0 ≤ gateL s.ns32 g.time ∧ gateL s.time.last g.time < 0)

/-- What holds the core off before its bundle: a halt, or a pre-emption before a bundle with CP set, outside delay slots and
repeats (05 R178, R179). -/
def heldOff (c : Core) : Option HaltWhy :=
  if !c.boundary then none
  else if c.haltReq then some .ctrl
  else if c.preempt && (bundleOf (c.bundle c.pc)).cp then some .preempted
  else none

/-- Stops a core that is held off. -/
def holdOff (p : Nat) (why : HaltWhy) (s : State) : State :=
  s.onCore p fun c => { c with run := .halted why, preempt := c.preempt && why != .preempted }

/-- A running core reaches its gate in the first core cycle of the tick at which the launch time comes: the gate acts on time
in that cycle (12 R475). -/
def reachesNow (s : State) (c : Core) : Bool :=
  let b := bundleOf (c.bundle c.pc)
  c.run == .running && c.tickSeen != s.time.ticks && b.g && b.decodeOk && controlOk c b && c.gate.tgt == c.pc && s.launchNow c.gate

/-- What a core that holds a running program does in a cycle; the cycle stays open where the core has reached its gate on
time. -/
def runCycle (p : Nat) (ups : List Upset) (s : State) : State × Bool :=
  let c := s.core p
  if c.haltReq && c.boundary then (s.holdOff p .ctrl, false)
  else
    let c := c.upsets c.pc (ups.filter atFetch)
    let s := s.setCore p c
    if (ups.filter atFetch).any (·.uncorr) then (s, false)
    else
      let rest := ups.filter fun u => !atFetch u
      let b := bundleOf (c.bundle c.pc)
      match heldOff c with
      | some why => (s.holdOff p why, false)
      | none =>
        if !b.g then (s.tryIssue p false rest, false)
        else if !(c.gate.armed && c.gate.tgt == c.pc) || !b.decodeOk || !controlOk c b then (s.illegal p false, false)
        else if c.gate.opened then (s.tryIssue p true rest, false)
        else
          let t := s.setCore p { c with run := .waiting }
          if gateL s.ns32 c.gate.time < 0 then (t, false)
          else if s.reachesNow c then (t, true)
          else (t.gateBehind p, false)

/-- The banks at the end of a cycle: a request that has waited 32 cycles displaces the pass or run that wanted its bank, which
counts and takes a cycle more; vectors due reach their lines (04 R139, R145). -/
def bankEnd (outside : List Nat) (c : Core) : Core :=
  let pass := c.passBanks
  let eddy := c.eddyBanks
  let urgent := c.overBanks
  let hit (l : List Nat) : Bool := l.any urgent.contains
  let c := c.bankTurn outside (pass ++ eddy ++ c.halfBank ++ c.taken)
  let c := if hit pass then { c.count cSTALL_BANK 1 with pass := c.pass.map fun x => { x with endsAt := x.endsAt + 1 } } else c
  let c := if hit eddy then { c.count cSTALL_BANK 1 with eddy := c.eddy.map fun r => if r.started then { r with endsAt := r.endsAt + 1 } else r }
    else eddyLines c
  { c with taken := [] }

/-- The end of a core cycle: the banks turn, CYCLE advances, a bubble holds the Lane Row, filler fills its idle cycles, and the
64-cycle window closes (16 R593, R597, R600). -/
def cycleEnd (p : Nat) (outside : List Nat) (s : State) : State :=
  let c := bankEnd outside (s.core p)
  let bubble := decide (c.cyc % 64 < s.pwr.bubble)
  let busy := c.pass.isSome && !bubble
  let f := tget (fun _ => 0) s.pwr.floor p / 16
  let w := tget (fun _ => 0) s.pwr.windowed p + (if busy then 1 else 0)
  let g := tget (fun _ => 0) s.pwr.filler p
  let g := if c.pass.isNone ∧ !bubble ∧ w + g < f then g + 1 else g
  let last := c.cyc % 64 = 63
  let c := { c with
    cyc := c.cyc + 1, raised := 0, tickSeen := s.time.ticks
    pass := if bubble then c.pass.map fun x => { x with endsAt := x.endsAt + 1 } else c.pass }
  let s := s.setCore p c
  let z (_ : Nat) : Nat := 0
  let s := { s with pwr := { s.pwr with
    windowed := tput z s.pwr.windowed p (if last then 0 else w)
    filler := tput z s.pwr.filler p (if last then 0 else g) } }
  if last ∧ f + 8 < w then (s.count Reg.PWR_RAMP_OVER_CNT 1).event Reg.PWR_STATUS Ev.PWR_RAMP_OVER else s

/-- One core cycle of core `p`, in which requests from SI, SO or outside come to the banks `outside`. -/
def coreCycle (p : Nat) (outside : List Nat) (ups : List Upset) (s : State) : State :=
  match (s.core p).run with
  | .unpowered => s
  | .running =>
    let r := (s.onCore p Core.arrive).runCycle p ups
    if r.2 then r.1 else r.1.cycleEnd p outside
  | .waiting =>
    let s := s.onCore p Core.arrive
    let c := s.core p
    (match heldOff c with
      | some why => s.holdOff p why
      | none => if c.gate.opened && c.gate.armed then s.tryIssue p true ups else s).cycleEnd p outside
  | _ => (s.onCore p Core.arrive).cycleEnd p outside

/-! ## Gates -/

/-- The gated bundle of a core issues in this core cycle. -/
def gateCycle (p : Nat) (s : State) : State := ((s.onCore p Core.arrive).tryIssue p true []).cycleEnd p []

/-- The gate's launch comes: an ordinary launch on a waiting core, or one that reaches its gate now, or a missed one on a core
out of service; whether the gated bundle's work begins. -/
def launchCore (p : Nat) (s : State) : State × Bool :=
  let s := if s.reachesNow (s.core p) then s.onCore p fun c => { c with run := .waiting } else s
  let c := s.core p
  if !s.launchNow c.gate then (s, false)
  else if s.coreFenced p then
    (((s.setCore p (disarm c)).catchPhys Ev.CATCHFW_LAUNCH_MISSED p).leafMisses p, false)
  else if waitsAtGate c then
    match heldOff c with
    | some why => (s.holdOff p why, false)
    | none => (s.gateCycle p, true)
  else (s, false)

/-- An abandoning gate cuts what the core was doing, and its bundle issues (04 R155; 05 R180, R192). -/
def cutCycle (p : Nat) (s : State) : State :=
  let f := s.free
  ({ f.2 with freeCtr := f.2.freeCtr + 2 }.onCore p fun c => abandonAll f.1 c.arrive).gateCycle p

/-- An abandoning gate's launch comes while the sequencer is elsewhere: whether it cut. -/
def abandonCore (p : Nat) (s : State) : State × Bool :=
  let c := s.core p
  let elsewhere := (c.run == .running && !s.reachesNow c) || (c.run == .waiting && !waitsAtGate c)
  if s.launchNow c.gate && c.gate.abn && elsewhere && !s.coreFenced p then (s.cutCycle p, true) else (s, false)

/-- A gate evaluated late acts on the first core cycle of the next tick (12 R476). -/
def lateCore (p : Nat) (s : State) : State :=
  let c := s.core p
  if !(c.gate.armed && c.gate.late && !c.gate.opened) then s
  else
    let t := (s.count Reg.TIME_GATE_LATE_CNT 1).event Reg.TIME_STATUS Ev.TIME_GATE_LATE
    if waitsAtGate c then
      match heldOff c with
      | some why => s.holdOff p why
      | none => t.gateCycle p
    else if c.gate.abn then t.cutCycle p
    else s

/-- At each tick: gates armed with a time already passed are evaluated, an abandoning one always, an ordinary one while
the sequencer waits at it (12 R475, R476). -/
def tickGates (s : State) : State :=
  (List.range 52).foldl (fun (s : State) p =>
    let c := s.core p
    if c.gate.armed && c.gate.past && !c.gate.late && (c.gate.abn || waitsAtGate c) && !s.coreFenced p then s.gateBehind p
    else s) s

/-! ## Completed transfers (04 R148, R151; 07 R241, R264) -/

/-- Writes the bytes of row `r` of a transfer into its local side. -/
def Xfer.put (x : Xfer) (r : Nat) (bs : List Byte) (c : Core) : Core :=
  match x.target with
  | 0 => c.writeLm (x.dstAt r).toNat x.bundle bs
  | 1 => { c with cb := writeBytes c.cb (x.dstAt r).toNat bs }
  | _ =>
    let wa := x.wa + r / 64 * (x.rowBytes / 4)
    (wordsOf (bs.length / 4) bs).zipIdx.foldl (fun (c : Core) (w : Word × Nat) =>
      c.writeLs (wa + w.2) x.fmt (2 ^ (r % 64)) (List.replicate 64 w.1)) c

/-- The codebook counts after a row of `n` bytes has been written at `off` (06 R227). -/
def raiseBooks (off n : Nat) (b : Nat × Nat) : Nat × Nat :=
  let e := off + n - 1
  (if n ≠ 0 ∧ off < 0x800 then max b.1 (min e 0x7FF / 0x20 + 1) else b.1,
   if n ≠ 0 ∧ 0x800 ≤ e then max b.2 ((e - 0x800) / 0x200 + 1) else b.2)

/-- Bytes of row `r` of another device that have come, from its start. -/
def Xfer.arrived (x : Xfer) (r : Nat) : Nat :=
  let a := r * x.rowBytes
  min x.rowBytes (x.came.foldl (fun (pos : Nat) c => if c.1 = pos then pos + c.2 else pos) a - a)

/-- Moves the rows of a transfer in order; ends at the first faulting access, whose address it answers (07 R241). -/
def moveRows (p : Nat) (so : Bool) (x : Xfer) : List Nat → State × (Nat × Nat) → State × (Nat × Nat) × Option Nat
  | [], a => (a.1, a.2, none)
  | r :: rest, (s, books) =>
    let far := Xfer.farAt x so r
    let req := s.reqSluice p so
    if x.stop = some r then (s, books, some far)
    else if so then
      if x.away.contains r then moveRows p so x rest (s, books)
      else
        let src := (x.srcAt r).toNat
        let s := s.onCore p (Core.lmReadFault src x.rowBytes x.bundle)
        let w := writeG req x.basin x.rowBytes s far (readBytes (s.core p).lm src x.rowBytes)
        if w.2 then moveRows p so x rest (w.1, books) else (w.1, books, some far)
    else
      let g : State × List Byte × Bool :=
        if x.away.contains r then
          let n := if x.remote = .answered true then x.rowBytes else Xfer.arrived x r
          (s, readBytes x.buf (r * x.rowBytes) (if x.target = 0 then 0 else n), n == x.rowBytes)
        else readG req x.basin x.rowBytes s far x.rowBytes
      let s := g.1.onCore p (Xfer.put x r g.2.1)
      let books := if x.target = 1 then raiseBooks (x.dstAt r).toNat g.2.1.length books else books
      if g.2.2 then moveRows p so x rest (s, books) else (s, books, some far)

/-- A transfer ends: it leaves its engine, its DONE bit is set, and on an error its ERR bit and SLUICE_FAULT (04 R151); one
dropped by a reset or a fence ends in error too (13 R514, 15 R563). -/
def endXfer (so : Bool) (x : Xfer) (err : Option Nat) (c : Core) : Core :=
  let f (l : List Xfer) : List Xfer := l.filter fun y => y.num ≠ x.num
  let c := if so then { c with so := f c.so } else { c with si := f c.si }
  let c := c.doneBits true (2 ^ x.done) err.isSome
  match err with
  | some a => c.raise 11 (if so then 4 else 3) x.bundle (BitVec.ofNat 32 a)
  | none => c

/-- SLUICE_TRANSFER_COMPLETE. A write of codebook memory takes the engine a cycle for every 64 bytes once no pass runs (R113; 06
R230): a first event starts it, a later one ends it. -/
def xferComplete (p : Nat) (so : Bool) (which : Nat) (ups : List Upset) (s : State) : State :=
  let c := s.core p
  match (if so then c.so else c.si)[which]? with
  | none => s
  | some x =>
    let book := x.target = 1 ∧ so = false
    if x.dropped then s.onCore p (endXfer so x (some (Xfer.farAt x so 0)))
    else if x.remote = .frames then s
    else if book ∧ x.writing = none then
      if c.pass.isSome || c.cbWriting then s
      else s.setCore p (Core.setXfer so { x with writing := some (c.cyc + (x.rows * x.rowBytes + 63) / 64) } c)
    else if book ∧ c.cyc < x.writing.getD 0 then s
    else
      let s := s.setCore p (c.upsets x.bundle ups)
      let m := moveRows p so x (List.range x.rows) (s, c.n16, c.n256)
      let err := match m.2.2, x.remote with
        | some a, _ => some a
        | none, .answered false => some (Xfer.farAt x so (x.away.headD 0))
        | none, _ => none
      m.1.onCore p fun c => endXfer so x err { c with n16 := m.2.1.1, n256 := m.2.1.2 }

end State

/-! ## The commands -/

/-- BUNDLE_ISSUE (05 R163): one core cycle of physical core `p`. -/
def execBundleIssue (p : Fin 52) (outside : List (Fin 24)) (ups : List Upset) (s : State) : Host.Outcome State Fault Refusal :=
  s.run fun s => s.coreCycle p.val (outside.map (·.val)) ups

/-- LDPROG_DONE (04 R141): the oldest load whose 16 cycles are over. -/
def execLdprogDone (p : Fin 52) (s : State) : Host.Outcome State Fault Refusal :=
  s.run fun s =>
    let c := s.core p.val
    match c.ldprog.head? with
    | some l => if l.endsAt ≤ c.cyc then s.setCore p.val (ldprogEnd l c) else s
    | none => s

/-- PASS_END (04 R117): the pass whose cycles are over writes its rows and is compared. -/
def execPassEnd (p : Fin 52) (errs : List LaneErr) (ups : List Upset) (s : State) : Host.Outcome State Fault Refusal :=
  s.run fun s =>
    let c := s.core p.val
    match c.pass with
    | some x => if x.endsAt ≤ c.cyc then 
      s.setCore p.val (passEnd { x with src := Core.flipSrc ups x.src c } errs (c.upsets x.bundle ups))
    else s
    | none => s

/-- EDDY_RUN_START (04 R142): a run whose source is the queue finds a tile there and its other tiles free, and no load
of its slot in progress. -/
def execEddyRunStart (p : Fin 52) (ups : List Upset) (s : State) : Host.Outcome State Fault Refusal :=
  s.run fun s =>
    let c := s.core p.val
    match c.eddy with
    | some r =>
      if runReady r c && !(c.ldprog.any fun l => l.slot == r.slot) then 
        let c := c.upsets r.bundle ups
        s.setCore p.val (startRun r c c)
      else s
    | none => s

/-- EDDY_RUN_END (04 R139). -/
def execEddyRunEnd (p : Fin 52) (s : State) : Host.Outcome State Fault Refusal :=
  s.run fun s =>
    let c := s.core p.val
    match c.eddy with
    | some r => if r.started ∧ r.endsAt ≤ c.cyc then s.setCore p.val (runEnd r c) else s
    | none => s

/-- SLUICE_TRANSFER_COMPLETE (04 R151): transfer `which` of the engine, oldest first. -/
def execSluiceTransferComplete (p : Fin 52) (so : Bool) (which : Fin 6) (ups : List Upset) (s : State) :
    Host.Outcome State Fault Refusal :=
  s.run fun s => s.xferComplete p.val so which.val ups

/-- STALL_TIMEOUT (04 R154): the bundle has been stalled for 1,048,576 cycles. -/
def execStallTimeout (p : Fin 52) (s : State) : Host.Outcome State Fault Refusal :=
  s.run fun s =>
    let c := s.core p.val
    if (c.run == .running || c.run == .waiting) && decide (1048576 ≤ c.stall) then
      let t := s.setCore p.val { c.raise 13 0 c.pc 0 with run := .halted .stall, stall := 0, served := 0 }
      (if c.run == .waiting && c.gate.wh then t.leafMisses p.val else t.leafDiscard p.val).noJob p.val
    else s

/-- HALT_AT_BOUNDARY (05 R178; 04 R160). -/
def execHaltAtBoundary (p : Fin 52) (s : State) : Host.Outcome State Fault Refusal :=
  s.run fun s =>
    let c := s.core p.val
    if c.haltReq && c.boundary && (c.run == .running || c.run == .waiting) then s.setCore p.val { c with run := .halted .ctrl } else s

/-- SCRUB_DONE (04, CORE.CTRL). -/
def execScrubDone (p : Fin 52) (s : State) : Host.Outcome State Fault Refusal :=
  s.run fun s => if (s.core p.val).scrub then s.onCore p.val scrubEnd else s

end Sys2Proof.Machine
end

