-- ==== Sys2Proof/Machine/Plan.lean ====
section
/-! DEFINITION. Where the reference flows keep their data (01 R39; 02 R45 to R47, R59 to R65, R67; 03 R90, R93): device ranks,
positions, the pool memory map, the schedule of stage slots. -/
namespace Sys2Proof.Machine

/-! ## Positions (01 R39; 02 R45) -/

/-- The subcarriers of an owner: first and count. In a group owner `r` has the r-th quarter, and the first `n % 4` owners one
more (01 R39). -/
def ownerSpan (group : Bool) (n r : Nat) : Nat × Nat :=
  if group then (r * (n / 4) + min r (n % 4), n / 4 + (if r < n % 4 then 1 else 0)) else (0, n)

/-- The subcarriers of position `p` of an owner: first and count, 256 but in the last (R45). -/
def posSpan (group : Bool) (n r p : Nat) : Nat × Nat :=
  let o := ownerSpan group n r
  (o.1 + p * 256, min 256 (o.2 - p * 256))

/-- The positions of a carrier in ascending frequency: owner and position (R45). -/
def positionsOf (group : Bool) (n : Nat) : List (Nat × Nat) :=
  (List.range (if group then 4 else 1)).flatMap fun r => (List.range (((ownerSpan group n r).2 + 255) / 256)).map fun p => (r, p)

/-! ## The pool memory map (R59) -/

/-- The symbol's number in its subframe. -/
def symInSubframe (mu : Nat) (y : SymId) : Nat := y.slot.val % 2 ^ mu * 14 + y.sym.val

/-- The running number of a symbol in its frame: n of R60 (DEDUCED, assumption 20). -/
def symNumber (y : SymId) : Nat := y.slot.val * 14 + y.sym.val

/-- The base of a cluster's pool. -/
@[reducible] def poolBase (c : Nat) : Nat := 0x100000000000 + c * 0x1000000

/-- Where grid block `p` of symbol `y` lies (R59, R60). -/
def gridAddr (c p : Nat) (y : SymId) : Nat := poolBase c + (symNumber y % 4 * 48 + p) * 0x4000

/-- The H record of a front position and the Gram record of a back position in the channel-state set of occasion `n` (R59, R62,
R63): 32 H records, then 32 Gram records (DESIGN CHOICE, assumption 73). -/
def hAddr (c n i : Nat) : Nat := poolBase c + 0x300000 + n % 2 * 0x180000 + i % 32 * 0x9000
def gramAddr (c n k : Nat) : Nat := poolBase c + 0x300000 + n % 2 * 0x180000 + 0x120000 + k % 32 * 0x3000

/-- The matched-filter buffer of reach k, and the Gram buffer of back position k, of a source rank (R64). -/
def mfBuf (c rank k : Nat) : Nat := poolBase c + 0x600000 + rank * 0x42000 + k % 4 * 0x8000
def gramBuf (c rank k : Nat) : Nat := poolBase c + 0x600000 + rank * 0x42000 + 0x20000 + k % 8 * 0x4400

/-- The landing flags of a source rank, 64 bytes each, behind the landing areas (DESIGN CHOICE, assumption 73): four of
matched-filter buffers, then eight of Gram buffers. -/
def mfFlag (c rank k : Nat) : Nat := poolBase c + 0x708000 + (rank * 16 + k % 4) * 64
def gramFlag (c rank k : Nat) : Nat := poolBase c + 0x708000 + (rank * 16 + 4 + k % 8) * 64

/-- The reach record of running number `n` (R59, R65): matched-filter vectors, then estimates and variances. -/
def reachRec (c n : Nat) : Nat := poolBase c + 0x780000 + n % 32 * 0xC000

/-- The block of place q of the transmit layer ring for a symbol (03 R90). -/
def layerBlock (c q : Nat) (y : SymId) : Nat := poolBase c + 0xBA0000 + (symNumber y % 2 * 32 + q) * 0x1000

/-- The landing flag of a source rank for a place and symbol of the layer ring (03 R93), in the flow scratch (DESIGN CHOICE,
assumption 73). -/
def layerFlag (c q rank : Nat) (y : SymId) : Nat := poolBase c + 0xBE0000 + ((symNumber y % 2 * 32 + q) * 4 + rank) * 64

/-- What a landing flag holds: its symbol, so that a contribution that comes too late is never taken for a later one (01 R42;
DESIGN CHOICE, assumption 73). -/
def symTag (mu : Nat) (y : SymId) : Nat := ((y.sfn.val * 80 + y.slot.val) * 14 + y.sym.val) * 4 + mu + 1

/-! ## The schedule (R54) -/

/-- The link allowance G in ns (R54). -/
def linkNs (r : CarrierRec) : Nat := if r.group then (if r.viaSwitch then 1500 else 1000) else 0

/-- The nominal launch of stage 1 to 4 (D1, D2, D3, M) of D1 launch index `i`, from T0 (R54). -/
def stageNs (r : CarrierRec) (t0 i stage : Nat) : Nat := (t0 + linkNs r + 1000 * (i + stage)) % 2 ^ 32

namespace State

/-- A carrier's applied record. -/
def carrierOf (s : State) (c : Nat) : Option CarrierRec := tfind s.func.applied c

/-- The devices of the group catchment in the order of their ranks (01 R20, R39). -/
def groupDevs (s : State) : List Nat :=
  match s.catchments.find? (·.group) with
  | some c => (c.leaves.map fun l => l.dev.toNat).eraseDups
  | none => []

/-- The device's rank in its group (01 R39); a device in no group has rank 0 (02 R67), and so has one that no leaf of the group
catchment names (DESIGN CHOICE, assumption 85). -/
def groupRank (s : State) : Nat :=
  let i := s.groupDevs.findIdx s.isSelf
  if i < s.groupDevs.length then i else 0

/-- The fabric part of the address of device rank `r`: all ones for the device itself (01 R15). -/
def rankDev (s : State) (r : Nat) : Nat := if r = s.groupRank then 0x3FFFF else s.groupDevs.getD r 0x3FFFF

/-- A local address of device rank `r` as a global one. -/
def rankAddr (s : State) (r a : Nat) : Nat := s.rankDev r * 2 ^ 46 + a

/-- Antennas of a carrier's grid on this device (R60). -/
def gridAnts (s : State) (r : CarrierRec) : Nat := r.rxAntennas.getD (if r.group then s.groupRank else 0) 1

/-- The logical cores of a cluster in ascending order: the rank order of the stages (R52; 03). -/
def clusterCores (s : State) (c : Nat) : List Nat :=
  (List.range 48).filterMap fun k => match s.physOf k with
    | some p => if clusterOf p = c then some p else none
    | none => none

/-- The place of a core among the logical cores of its cluster, from 0. -/
def roleOf (s : State) (p : Nat) : Nat := (s.clusterCores (clusterOf p)).findIdx (· == p)

/-- The receiver of a cluster. -/
def rxOf (s : State) (c : Nat) : Rx := tget (fun _ => Rx.reset) s.rx c

/-- Replaces the receiver of a cluster. -/
def setRx (c : Nat) (r : Rx) (s : State) : State := { s with rx := tset s.rx c r }
def onRx (c : Nat) (f : Rx → Rx) (s : State) : State := s.setRx c (f (s.rxOf c))

/-- Absolute number of a slot of numerology μ. -/
def slotNumber (mu sfn slot : Nat) : Nat := sfn * (10 * 2 ^ mu) + slot

/-- RXP.MONCFG as the slot of a symbol runs under it (R81): the setting from the last slot boundary of the numerology on for that
slot, the one before it for the slot that has ended. -/
def monFor (s : State) (c mu : Nat) (y : SymId) : Word :=
  match tfind (s.rxOf c).mon mu with
  | some m => if slotNumber mu y.sfn.val y.slot.val = m.slot then m.now else m.before
  | none => s.ctl.inForce (Reg.RXP_MONCFG c)

/-- The receive places of a carrier with their owners and positions (R47). -/
def rxSpots (r : CarrierRec) : List (Nat × Nat × RxPlace) :=
  r.rxPlaces.zipIdx.flatMap fun o => o.1.zipIdx.map fun x => (o.2, x.2, x.1)

/-- The position of an owner whose reach has index `k` in a cluster: carrier, its record, position, place (R47, R54). -/
def rxSpot (s : State) (c mu r k : Nat) : Option (Nat × CarrierRec × Nat × RxPlace) :=
  s.func.applied.findSome? fun e =>
    if e.2.uplink && e.2.mu.val == mu then
      ((rxSpots e.2).find? fun x => x.1 == r && x.2.2.cluster.val == c && x.2.2.reach == k).map fun x => (e.1, e.2, x.2.1, x.2.2)
    else none

/-- Learned reaches of a cluster in a data symbol of a numerology (R54): its own positions there. -/
def learnedReaches (s : State) (c mu : Nat) : Nat :=
  ((s.func.applied.filter fun e => e.2.uplink && e.2.mu.val == mu).map fun e =>
    ((rxSpots e.2).filter fun x => x.1 == (if e.2.group then s.groupRank else 0) && x.2.2.cluster.val == c).length).foldl (· + ·) 0

/-- The place of subcarrier `i` of a carrier in the receive grid: cluster, block, place in the block; none for a subcarrier that
no position holds. -/
def gridPlace (r : CarrierRec) (i : Nat) : Option (Nat × Nat × Nat) :=
  (rxSpots r).findSome? fun x =>
    let sp := posSpan r.group (12 * r.nrb) x.1 x.2.1
    if sp.1 ≤ i ∧ i < sp.1 + sp.2 then some (x.2.2.cluster.val, x.2.2.block.val, i - sp.1) else none

/-- The place of subcarrier `i` in the transmit grid: index of the position, place in it. -/
def txPos (r : CarrierRec) (i : Nat) : Option (Nat × Nat) :=
  (positionsOf r.group (12 * r.nrb)).zipIdx.findSome? fun x =>
    let sp := posSpan r.group (12 * r.nrb) x.1.1 x.1.2
    if sp.1 ≤ i ∧ i < sp.1 + sp.2 then some (x.2, i - sp.1) else none

/-- The pool address of a transmit position's grid block for a symbol. -/
def txBlock (r : CarrierRec) (p : Nat) (y : SymId) : Nat :=
  match r.txPlaces[p]? with
  | some x => if symNumber y % 2 = 0 then x.even else x.odd
  | none => 0

/-- The address of the samples of subcarrier `i` and stream `a` in the transmit grid, if a position holds the subcarrier. -/
def txSample (r : CarrierRec) (y : SymId) (i a : Nat) : Option Nat :=
  (txPos r i).map fun x => txBlock r x.1 y + (x.2 * r.txStreams + a) * 4

end State

end Sys2Proof.Machine
end

