-- ==== Sys2Proof/Machine/Caps.lean ====
section
/-! DEFINITION. What Backwater's capture keeps in DRAM (02 R61; 09 R322 to R326): the rings that mirror grids, matched-filter
sections and Gram records, the label staging, the reaches that wait for capture, and their deadline. -/
namespace Sys2Proof.Machine

/-- The key and hash of R322: SFN, slot, symbol, position. -/
def captureHash (y : SymId) (position : Nat) : Nat :=
  (((y.sfn.val * 160 + y.slot.val) * 16 + y.sym.val) * 64 + position) * 0x9E3779B1 % 2 ^ 32

/-- Slots of numerology μ from absolute slot `n` on to slot `m`. -/
def slotsAfter (mu m n : Nat) : Nat :=
  let round := 10240 * 2 ^ mu
  (m + round - n % round) % round

namespace State

/-- GRID_MIRROR is set for the slot of a symbol (02 R61, R81). -/
def mirrorOn (s : State) (c mu : Nat) (y : SymId) : Bool := bitOf (s.monFor c mu y).toNat 2

/-- The place of a cluster's block of a symbol in a ring that is two slots deep (DESIGN CHOICE, assumption 21). -/
def ringPlace (c p : Nat) (y : SymId) : Nat := (symNumber y % 28 * 4 + c) * 48 + p

/-- Where an area of the image's DRAM begins. -/
def fileArea (s : State) (f : ImageFile → Nat) : Nat := match s.img.file with
  | some x => f x
  | none => 0

/-- Where a grid block is mirrored, and a position's matched-filter section, Gram record and labels are kept. -/
def mirrorAddr (s : State) (c p : Nat) (y : SymId) : Nat := s.fileArea (·.gridRing) + ringPlace c p y * 0x4000
def reachMirror (s : State) (c p : Nat) (y : SymId) : Nat := s.fileArea (·.reachRing) + ringPlace c p y * 0x4000
def gramMirror (s : State) (c p : Nat) (y : SymId) : Nat := s.fileArea (·.gramRing) + ringPlace c p y * 0x3000
def labelAddr (c p : Nat) (y : SymId) : Nat := ringPlace c p y * 0x4000

/-- What tells the labels of a slot from those of another (assumption 81): it stands in bits 31:8 of a label, the constellation
index in bits 7:0. -/
def labelTag (mu slot : Nat) : Nat := slot * 4 + mu + 1

/-- The deadline of R325 has passed for slot `n` of numerology μ: a grid of slot n + 2 has reached the rings. -/
def capLate (s : State) (mu n : Nat) : Bool := match tfind s.bkw.gridSlot mu with
  | some m => let d := slotsAfter mu m n; decide (2 ≤ d ∧ d < 5120 * 2 ^ mu)
  | none => false

/-- Slot of a symbol, absolute. -/
def slotOfSym (mu : Nat) (y : SymId) : Nat := slotNumber mu y.sfn.val y.slot.val

/-- An allocation that may be captured (R322, R328). -/
def capAlloc (s : State) (a : UlAlloc) : Bool := a.cpOfdm && a.capture && (s.basin a.basin.val).st != 2

/-- A reach is eligible (R322): it is not zeroed (02 R79), and its key is sampled. -/
def eligible (s : State) (r : CapReach) : Bool :=
  let log2 := bits (s.ctl.inForce Reg.BKW_CAPCFG).toNat 4 0
  r.allocs.any s.capAlloc && !bitOf r.flags 1 && bitOf (s.reg Reg.BKW_CTRL).toNat 0
    && (log2 == 0 || captureHash r.sym r.position / 2 ^ (32 - log2) == 0)

/-- A grid word of a symbol reaches the DRAM ring: with the first of its slot, the reaches of slots two and more before it can
no longer be captured, and the eligible ones are counted (R325). -/
def gridMirrored (mu : Nat) (y : SymId) (s : State) : State :=
  let m := slotOfSym mu y
  if tfind s.bkw.gridSlot mu = some m then s
  else
    let s := { s with bkw := { s.bkw with gridSlot := tset s.bkw.gridSlot mu m } }
    let out := s.bkw.caps.filter fun r => r.mu == mu && s.capLate mu (slotOfSym mu r.sym)
    let s := { s with bkw := { s.bkw with caps := s.bkw.caps.filter fun r => !(r.mu == mu && s.capLate mu (slotOfSym mu r.sym)) } }
    out.foldl (fun (s : State) r => if s.eligible r then s.capSkip else s) s

/-- Label bytes land in the label staging: after the deadline of their slot they are dropped and counted (R326). -/
def labelsLate (s : State) (a : Nat) (bs : List Byte) : Bool :=
  let base := s.fileArea (·.staging)
  let tag := fieldAt bs 1 3
  let mu := (tag - 1) % 4
  s.img.file.isSome && decide (base ≤ a ∧ a < base + 28 * 4 * 48 * 0x4000) && tag != 0 && s.capLate mu ((tag - 1) / 4)

end State

end Sys2Proof.Machine
end

