-- ==== Sys2Proof/Machine/Weir.lean ====
section
/-! DEFINITION. The commands of the Weir quads (08_weir_decoder.md R274 to R314). -/
namespace Sys2Proof.Machine
namespace State

/-- Takes the next fetched entry of a submission ring of basin `b`: ring 0 SQ0, 1 SQ1, 2 SQ2 (13 R508). -/
def takeEntry (b ring : Nat) (s : State) : State × Option (List Byte) :=
  let x := s.basin b
  match ring with
  | 0 =>
    match x.f0 with
    | [] => (s, none)
    | e :: t => (s.setBasin b { x with f0 := t }, some e)
  | 1 =>
    match x.f1 with
    | [] => (s, none)
    | e :: t => (s.setBasin b { x with f1 := t }, some e)
  | _ =>
    match x.f2 with
    | [] => (s, none)
    | e :: t => (s.setBasin b { x with f2 := t }, some e)

/-- A descriptor that is completed at once (R275, R278). -/
def refuseDesc (b : Nat) (d : DecDesc) (result : Nat) (s : State) : State :=
  s.complete b (completionBytes 2 result d.tag d.slot [] 0 b)

/-- The header of a HARQ record agrees with the descriptor (R286). -/
def harqAgrees (d : DecDesc) (g : Segm) (h : List Byte) : Bool :=
  fieldAt h 0 4 == 0x4F484851 && fieldAt h 4 3 == d.tbs && fieldAt h 7 1 == g.bg && fieldAt h 8 2 == g.z
    && fieldAt h 10 2 == g.c && fieldAt h 12 2 == g.k && fieldAt h 16 3 == g.ncb

/-- The parameter table of a slot that has begun: the latched one, or for the slot before it the one before (R295). -/
def tableFor (s : State) (q : Nat) (d : DecDesc) : Option (List Byte) :=
  let w := s.quad q
  let mu := s.muOf d.carrier
  let now := s.slotField' mu
  if d.slot = now then some w.table
  else if d.slot = prevSlot mu now then some w.prev else none

/-- Puts a transport block in progress, with its stored hard bits where it is not new data (R287). -/
def addTb (b : Nat) (d : DecDesc) (sh : AllocShape) (newData mism : Bool) (h : List Byte) (s : State) : State :=
  let q := d.quad
  let g := d.segm
  let w := s.quad q
  let kept (c : Nat) : Bool := !newData && bitOf (fieldAt h 20 20) c
  let r := (mkBlocks d g sh).zipIdx.foldl (fun (a : State × List CBlk × Bool) (x : CBlk × Nat) =>
    if kept x.2 then
      let h := a.1.harqRead q (areaAt d g x.2 + softSize g) ((g.k + 7) / 8)
      (h.1, a.2.1 ++ [{ x.1 with st := .ended, pass := true, hard := unpackLsb g.k (h.2.getD []) }], a.2.2 && h.2.isSome)
    else (a.1, a.2.1 ++ [x.1], a.2.2)) (s, [], true)
  let t : DecTb :=
    { id := w.nextId, basin := b, d := d, sh := sh, g := g, newData := newData, mism := mism, rounds := fieldAt h 19 1,
      got := [], blocks := r.2.1, uciDone := false, table := s.tableFor q d, deadline := false, entry := none }
  let s := r.1.onQuad q fun w => { w with
    nextId := w.nextId + 1, tbs := w.tbs ++ [t]
    numbered := w.numbered.filter s.recent ++ [(d.slot, d.alloc, t.blocks.length, s.time.ticks)] }
  if r.2.2 then (s.readyCovered q t.id).endTb q t.id |>.assignEngines q else s.faultTb q t

/-- Takes a decode descriptor (R274 to R278, R286). -/
def decode (b : Nat) (e : List Byte) (sh : AllocShape) (s : State) : State :=
  let d := decDescOf e
  let q := d.quad
  if d.bad s.dramTop then (s.event (Reg.WEIR_STATUS q) Ev.WEIR_DESC_BAD).refuseDesc b d 2
  else if (s.quad q).tbs.any fun t => t.d.hbuf == d.hbuf then s.refuseDesc b d 3
  else if d.ndi then s.addTb b d sh true false (List.replicate 64 0)
  else
    let r := s.harqRead q (d.hbuf * 64) 64
    match r.2 with
    | none => r.1.refuseDesc b d 4
    | some h =>
      if harqAgrees d d.segm h then r.1.addTb b d sh false false h
      else
        let s := (r.1.count (Reg.WEIR_HARQ_MISM_CNT q) 1).event (Reg.WEIR_STATUS q) Ev.WEIR_HARQ_MISMATCH
        s.addTb b d sh true true (List.replicate 64 0)

/-- A segment descriptor reaches the input stage of quad `q` (R279, R282, R283; 02 R67, R69). -/
def segment (q part descOff : Nat) (s : State) : State :=
  let r := s.readMem (llrRing q + descOff) 16
  let d := r.2.1
  let off := fieldAt d 0 4
  let n := fieldAt d 4 3
  let seq := fieldAt d 14 2
  let w := r.1.quad q
  let gap := decide (tget (fun _ => 0) w.seqs part ≠ seq)
  let s := r.1.setQuad q { w with seqs := tset w.seqs part ((seq + 1) % 65536), unread := w.unread.filter fun u => u.1 ≠ off }
  let s := if gap then s.event (Reg.WEIR_STATUS q) Ev.WEIR_LLR_GAP else s
  let l := s.readMem (llrRing q + off) (llrBytes n)
  if !r.2.2 || !l.2.2 then l.1.weirFault q (selfAddr (llrRing q + off))
  else
    match l.1.segTb q (fieldAt d 11 1) (fieldAt d 12 1) with
    | none => l.1.orphan q
    | some t => (l.1.takeSegment q t (fieldAt d 8 3) (unpackLlr n l.2.1)).assignEngines q

/-- The transport blocks of a slot of a carrier in a quad. -/
def slotTbs (s : State) (q : Nat) (slot : SlotId) (carrier : Nat) : List Nat :=
  ((s.quad q).tbs.filter fun t => t.entry.isNone && t.d.slot == slotField slot && t.d.carrier == carrier).map (·.id)

/-- Acts on every block of a transport block. -/
def eachBlk (q id : Nat) (f : Nat → CBlk → State → State) (s : State) : State :=
  match s.tbOf q id with
  | none => s
  | some t => (List.range t.blocks.length).foldl (fun (s : State) i =>
    match s.tbOf q id with
    | some u =>
      match u.blocks[i]? with
      | some b => f i b s
      | none => s
    | none => s) s

/-- A code block is counted at the deadline (R302). -/
def deadlineBlk (q id : Nat) (s : State) : State :=
  let s := (s.count (Reg.WEIR_DEADLINE_CNT q) 1).event (Reg.WEIR_STATUS q) Ev.WEIR_DEADLINE
  match s.tbOf q id with
  | some t => s.setTb q { t with deadline := true }
  | none => s

/-- A field of WEIR.CFG in force, from 1 to 16 (R313). -/
def weirCfg (s : State) (q hi lo : Nat) : Nat :=
  min 16 (max 1 (bits (s.ctl.inForce (Reg.WEIR_CFG q)).toNat hi lo))

/-- An iteration of a block ends: the stop decision and its outcome (R291 to R298, R302). Iterations are numbered t from
0, as the parameter table numbers them (R293), so R294's network runs from the second one on (assumption 36). -/
def iterEnd (q e : Nat) (s : State) : State :=
  match tfind (s.quad q).eng e with
  | none => s
  | some k =>
    match s.tbOf q (k / 256) with
    | none => s
    | some t =>
      match t.blocks[k % 256]? with
      | none => s
      | some b =>
        let table := t.table.getD (s.quad q).table
        let l := layersOf t.g b.soft
        let st := iterate t.g table l b.iters (b.app, b.msg)
        let n := b.iters + 1
        let unsat := unsatisfied t.g l st.1
        let imax := s.weirCfg q 12 8
        let imin := min imax (s.weirCfg q 4 0)
        let et := bitOf (s.ctl.inForce (Reg.WEIR_CFG q)).toNat 24
        let abandon := !s.eff && unsat != 0 && et && decide (imin ≤ b.iters) && earlyStop t.g table l b.iters unsat b.app st.1
        let stop := b.dead || abandon
          || (if s.eff then decide (s.weirCfg q 20 16 ≤ n) else unsat == 0 || decide (imax ≤ n))
        let b := { b with app := st.1, msg := st.2, iters := n }
        let s := s.setBlk q t (k % 256) b
        if stop then
          let hard := hardBits t.g st.1
          let pass := !abandon && blockCrcOk t.g t.d.tbs hard && (t.g.c != 1 || unsat == 0)
          let s := if abandon then s.count (Reg.WEIR_ABANDON_CNT q) 1 else s
          (s.endBlk q t.id (k % 256) pass hard).assignEngines q
        else s

/-- The code block on an engine fails. -/
def failBlk (q e : Nat) (s : State) : State :=
  match tfind (s.quad q).eng e with
  | some k => s.endBlk q (k / 256) (k % 256) false []
  | none => s

/-- A polar request is taken where the queue has room; else its write waits at the bank (R308, R643). -/
def polarTake (q place req tag : Nat) (s : State) : State :=
  let w := s.quad q
  if w.polar.length < 16 then
    let s := s.writeMem (0x100000000000 + q * 0x1000000 + 0xBFFC00 + place * 32) (leBytes 32 req)
    if s.fence 3 q ≠ 0 then s.polarFinish q req tag true
    else s.onQuad q fun w => { w with polar := w.polar ++ [(req, tag)] }
  else s.setQuad q { w with polarWait := w.polarWait ++ [(place, req, tag)] }

/-- The requests whose writes waited enter as places free. -/
def polarRefill (q : Nat) (s : State) : State :=
  match (s.quad q).polarWait with
  | [] => s
  | (place, req, tag) :: rest =>
    if (s.quad q).polar.length < 16 then (s.onQuad q fun w => { w with polarWait := rest }).polarTake q place req tag else s

/-- The oldest polar request has been decoded (R307); a decoder that is not enabled decodes none. -/
def polarEnd (q : Nat) (s : State) : State :=
  match (s.quad q).polar with
  | [] => s
  | (req, tag) :: rest =>
    if bitOf (s.reg (Reg.WEIR_ENGINE_EN q)).toNat 8 then
      ((s.onQuad q fun w => { w with polar := rest }).polarFinish q req tag false).polarRefill q
    else s

end State

/-- DECODE_DESCRIPTOR (R274 to R278): the next entry of SQ1 of basin `b`, with its allocation's shape. -/
def execDecodeDescriptor (b : Fin 8) (alloc : AllocShape) (s : State) : Host.Outcome State Fault Refusal :=
  s.run fun s =>
    match s.takeEntry b.val 1 with
    | (s, some e) => s.decode b.val e alloc
    | (s, none) => s

/-- LLR_SEGMENT_ARRIVAL (R279). -/
def execLlrSegmentArrival (q : Fin 4) (part : Fin 16) (descOff : Nat) (s : State) : Host.Outcome State Fault Refusal :=
  s.run fun s => s.segment q.val part.val descOff

/-- LLR_WAIT_EXPIRY (R280): WEIR.LLR_WAIT has passed since the slot's data end. -/
def execLlrWaitExpiry (q : Fin 4) (slot : SlotId) (carrier : Fin 16) (s : State) : Host.Outcome State Fault Refusal :=
  s.run fun s =>
    if !s.afterData carrier.val (State.slotField slot) (s.ctl.inForce (Reg.WEIR_LLR_WAIT q.val)).toNat then s
    else ((s.slotTbs q.val slot carrier.val).foldl (fun (s : State) id =>
      (s.writeUci q.val id true).eachBlk q.val id fun i b s => if b.st == .waiting then s.readyBlk q.val id i true else s) s).assignEngines q.val

/-- DECODE_DEADLINE (R302): WEIR.DEADLINE has passed since the slot's data end; blocks that decode stop at the end of their iteration, ready ones fail. -/
def execDecodeDeadline (q : Fin 4) (slot : SlotId) (carrier : Fin 16) (s : State) : Host.Outcome State Fault Refusal :=
  s.run fun s =>
    if !s.afterData carrier.val (State.slotField slot) (s.ctl.inForce (Reg.WEIR_DEADLINE q.val)).toNat then s
    else (s.slotTbs q.val slot carrier.val).foldl (fun (s : State) id =>
      s.eachBlk q.val id fun i b s =>
        match b.st with
        | .decoding =>
          if b.dead then s else
          let s := s.deadlineBlk q.val id
          match s.tbOf q.val id with
          | some t => s.setBlk q.val t i { b with dead := true }
          | none => s
        | .ready => (s.deadlineBlk q.val id).endBlk q.val id i false []
        | _ => s) s

/-- DECODE_ITERATION_END (R296 to R298), with what the quad met: an uncorrectable error of the engine fences it (R311), one of
the input buffer fails the code block, and parity of the parameter store lasts to the next latch (table "WEIR.FAULTWORD
fields"). -/
def execDecodeIterationEnd (q : Fin 4) (e : Fin 6) (upset : WeirUpset) (s : State) : Host.Outcome State Fault Refusal :=
  s.run fun s =>
    let fw (b : Nat) : State := s.event (Reg.WEIR_FAULTWORD q.val) b
    match upset with
    | .none => s.iterEnd q.val e.val
    | .corrected => (fw Ev.WEIRFW_CORR).iterEnd q.val e.val
    | .engine => fw (Ev.WEIRFW_ENGINE_UNCORR + e.val)
    | .inputBuffer => ((fw Ev.WEIRFW_INBUF_UNCORR).failBlk q.val e.val).assignEngines q.val
    | .paramStore => (fw Ev.WEIRFW_PARAM_PARITY).iterEnd q.val e.val

/-- POLAR_REQUEST (17 R643): the bank grants a 32-byte write of place `place` of the window. -/
def execPolarRequest (q : Fin 4) (place : Fin 32) (req : BitVec 256) (basin : Option (Fin 8)) (s : State) :
    Host.Outcome State Fault Refusal :=
  s.run fun s =>
    let tag := match basin with
      | some b => b.val + 8
      | none => 0
    s.polarTake q.val place.val req.toNat tag

/-- POLAR_DONE (R307); `uncorr`: the decoder met an uncorrectable error (R311). -/
def execPolarDone (q : Fin 4) (uncorr : Bool) (s : State) : Host.Outcome State Fault Refusal :=
  s.run fun s => if uncorr then s.event (Reg.WEIR_FAULTWORD q.val) Ev.WEIRFW_POLAR_UNCORR else s.polarEnd q.val

end Sys2Proof.Machine
end

