-- ==== Sys2Proof/Machine/Tx.lean ====
section
/-! DEFINITION. The transmit path (03_transmit_path.md; 08 R309, R310; 10 R385; 15 R569, R572). -/
namespace Sys2Proof.Machine

/-! ## Codewords (R82) -/

/-- A downlink codeword descriptor's fields (R82). A CARRIER above 15 is refused like a reserved field: the table gives 0 to 15
and states no answer for it (DESIGN CHOICE, assumption 76). -/
def dlDescOf (bs : List Byte) : DlDesc :=
  let scr := fieldAt bs 18 2
  let lay := fieldAt bs 22 1
  let harq := fieldAt bs 23 1
  let slot := fieldAt bs 24 4
  { source := fieldAt bs 0 8, tbs := fieldAt bs 8 3, carrier := fieldAt bs 11 1, alloc := fieldAt bs 12 1,
    qm := fieldAt bs 13 1, rate := fieldAt bs 14 2, rnti := fieldAt bs 16 2, nid := bits scr 9 0, q := bits scr 10 10,
    rv := bits scr 12 11, lbrm := bitOf scr 13, amp := fieldAt bs 20 2, layerBase := bits lay 7 4, encRank := bits lay 3 2,
    layers := bits lay 1 0 + 1, harq := bits harq 4 0, slot := bits slot 16 0, tag := fieldAt bs 28 2,
    bad := bits scr 15 14 ≠ 0 || bits harq 7 5 ≠ 0 || bits slot 31 17 ≠ 0 || fieldAt bs 30 2 ≠ 0
      || 15 < fieldAt bs 11 1 || !(fieldAt bs 13 1 ∈ [2, 4, 6, 8]) || 16 < bits lay 7 4 + bits lay 1 0 + 1 }

/-- The segmentation of a downlink codeword. Its descriptor carries no limit of the circular buffer, so LBRM takes the
TS 38.212 reference (open: assumption 7). -/
def DlDesc.segm (d : DlDesc) : Segm := segmentation d.tbs d.rate (if d.lbrm then Config.lbrmLimit d.tbs d.rate else 0)

/-- Inserts a key and value in ascending key order, after equal keys. -/
def insertKey {α : Type} (k : Nat) (a : α) : List (Nat × α) → List (Nat × α)
  | [] => [(k, a)]
  | (j, b) :: t => if k < j then (k, a) :: (j, b) :: t else (j, b) :: insertKey k a t

/-- Subcarriers of a codeword in a symbol, and its resource elements before the symbol in codeword order. -/
def dlSubs (a : DlAlloc) (y : Nat) : List Nat := match a.res.find? fun e => e.1.val == y with
  | some e => e.2
  | none => []
def dlBefore (a : DlAlloc) (y : Nat) : Nat := ((a.res.filter fun e => decide (e.1.val < y)).map fun e => e.2.length).foldl (· + ·) 0
/-- Resource elements of a codeword, and its last symbol. -/
def dlTotal (a : DlAlloc) : Nat := (a.res.map fun e => e.2.length).foldl (· + ·) 0
def dlLast (a : DlAlloc) : Nat := (a.res.map fun e => e.1.val).foldl max 0
/-- The symbol of a resource element. -/
def dlSymOf (a : DlAlloc) (i : Nat) : Nat :=
  ((a.res.map fun e => e.1.val).find? fun y => decide (i < dlBefore a y + (dlSubs a y).length)).getD 0

/-- The code blocks of a codeword: rate-matched lengths, and the first symbol that each maps to (R85). -/
def txBlocks (d : DlDesc) (a : DlAlloc) : List TxBlk :=
  let u := d.layers * d.qm
  let es := rateLengths d.segm.c d.layers d.qm (dlTotal a * u)
  es.zipIdx.map fun x => ⟨dlSymOf a ((es.take x.2).foldl (· + ·) 0 / u), x.1, none⟩

/-- Coded bit `b` of a codeword, if its block has been encoded. -/
def codedBit (blocks : List TxBlk) (b : Nat) : Option Bool :=
  match blocks with
  | [] => none
  | k :: rest => if b < k.e then k.coded.bind fun x => x[b]? else codedBit rest (b - k.e)

/-! ## Modulation (R91, R92) -/

/-- A constellation index: the first bit in codeword order is the most significant (R91). -/
def indexOf (bs : List Bool) : Nat := bs.foldl (fun n b => 2 * n + if b then 1 else 0) 0

/-- The two coordinates of point `i` of a TS 38.211 constellation, as odd integers over √D, and D (clause 5.1; PRESUMED,
assumption 8). -/
def pointOf (qm i : Nat) : Int × Int × Nat :=
  let b (j : Nat) : Int := if bitOf i (qm - 1 - j) then -1 else 1
  match qm with
  | 1 => (b 0, b 0, 2)
  | 2 => (b 0, b 1, 2)
  | 4 => (b 0 * (2 - b 2), b 1 * (2 - b 3), 10)
  | 6 => (b 0 * (4 - b 2 * (2 - b 4)), b 1 * (4 - b 3 * (2 - b 5)), 42)
  | _ => (b 0 * (8 - b 2 * (4 - b 4 * (2 - b 6))), b 1 * (8 - b 3 * (4 - b 5 * (2 - b 7))), 170)

/-- floor (n / √d), exactly. -/
def floorRoot (n : Int) (d : Nat) : Int :=
  let r := isqrt 24 (n.natAbs * n.natAbs / d)
  if 0 ≤ n then r else if r * r * d = n.natAbs * n.natAbs then -r else -(r : Int) - 1

/-- Entry `i` of an expand table: floor (x_i × AMP × 32,768) in each half, saturated to CQ16 (R92). -/
def expandEntry (qm amp i : Nat) : Cplx :=
  let p := pointOf qm i
  let a := sext 16 amp
  ⟨(clampS 16 (floorRoot (p.1 * a) p.2.2)).1, (clampS 16 (floorRoot (p.2.1 * a) p.2.2)).1⟩

/-! ## Polar coding of control payloads (R89; TS 38.212) -/

/-- The sub-block interleaver pattern (TS 38.212, Table 5.4.1.1-1; PRESUMED, assumption 8). -/
def subBlock : List Nat :=
  [0, 1, 2, 4, 3, 5, 6, 7, 8, 16, 9, 17, 10, 18, 11, 19, 12, 20, 13, 21, 14, 22, 15, 23, 24, 25, 26, 28, 27, 29, 30, 31]

/-- Place `i` of the interleaved code word of length 2^n. -/
def subPlace (n i : Nat) : Nat := let w := 2 ^ n / 32; subBlock.getD (i / w) 0 * w + i % w

/-- CRC24C of TS 38.212. -/
def crc24c (bs : List Bool) : Nat := crcBits 0xB2B117 24 bs

/-- The least power of two, as its exponent, that is not below a number. -/
def ceilLog2 (n : Nat) : Nat := if n ≤ 1 then 0 else Nat.log2 (n - 1) + 1

/-- The exponent of the mother code's length (clause 5.3.1, downlink). -/
def polarN (k e : Nat) : Nat :=
  let c := ceilLog2 e
  let n1 := if 8 * e ≤ 9 * 2 ^ (c - 1) ∧ 16 * k < 9 * e then c - 1 else c
  max 5 (min (min n1 (ceilLog2 (8 * k))) 9)

/-- The positions that carry bits (clause 5.4.1.1): frozen by rate matching first, then the most reliable `k`. -/
def polarInfo (n k e : Nat) : List Nat :=
  let len := 2 ^ n
  let frozen : List Nat :=
    if e < len then
      if 16 * k ≤ 7 * e then
        ((List.range (len - e)).map (subPlace n)) ++ List.range (if 3 * len ≤ 4 * e then (3 * len - 2 * e + 3) / 4 else (9 * len - 4 * e + 15) / 16)
      else ((List.range (len - e)).map fun i => subPlace n (e + i))
    else []
  let free := (Config.polarOrder n).filter fun i => !frozen.contains i
  free.drop (free.length - k)

/-- The polar transform. -/
def polarTransform : Nat → List Bool → List Bool
  | 0, u => u
  | n + 1, u =>
    let h := 2 ^ n
    let a := polarTransform n (u.take h)
    let b := polarTransform n (u.drop h)
    (a.zip b).map (fun x => xor x.1 x.2) ++ b

/-- Rate matching to `e` bits (clause 5.4.1.2). -/
def polarMatch (n k e : Nat) (d : List Bool) : List Bool :=
  let len := 2 ^ n
  let y (i : Nat) : Bool := d.getD (subPlace n i) false
  (List.range e).map fun i =>
    if len ≤ e then y (i % len) else if 16 * k ≤ 7 * e then y (i + len - e) else y i

/-- A DCI or PBCH payload encoded (clauses 7.1.3 to 7.1.5, 7.3.2 to 7.3.4). -/
def polarCoded (x : PolarItem) : List Bool :=
  let crc := bitsOf 24 (crc24c (if x.dci then List.replicate 24 true ++ x.payload else x.payload))
  let crc := if x.dci then crc.take 8 ++ ((crc.drop 8).zip (bitsOf 16 x.rnti.toNat)).map fun b => xor b.1 b.2 else crc
  let a := x.payload ++ crc
  let k := a.length
  let c := (Config.polarInterleave k).map fun i => a.getD i false
  let n := polarN k x.e
  let info := (polarInfo n k x.e)
  let u := (List.range (2 ^ n)).map fun i =>
    if info.contains i then c.getD ((info.filter fun j => decide (j < i)).length) false else false
  polarMatch n k x.e (polarTransform n u)

/-! ## Fills (R94 to R96) -/

/-- Fills of a symbol in closing order (R94): layer count and lanes. -/
def buildFills (lanes : List TxLane) : List (Nat × List TxLane) :=
  let r := lanes.foldl (fun (a : Tab (List TxLane) × List (Nat × List TxLane)) x =>
    let nu := x.layers.length
    if nu = 0 then a
    else
      let open_ := tget (fun _ => []) a.1 nu ++ [x]
      if open_.length = 64 then (tdel a.1 nu, a.2 ++ [(nu, open_)]) else (tset a.1 nu open_, a.2)) ([], [])
  r.2 ++ r.1

/-- Places fills in number order (R95, R96): on a P core until the next would take it past 1,200 cycles, then on the next core in
rank order, then on the next P slot. With `twice`, a fill also costs the next core its cycles (15 R569; how the copies share a
core's cycles is open: assumption 77). -/
def placeFills (costs : List Nat) (twice : Bool) (slots : Nat) : List (Option (Nat × Nat)) :=
  let fits (load : Tab Nat) (slot core cost : Nat) : Bool :=
    let l (c : Nat) : Nat := tget (fun _ => 0) load (slot * 8 + c)
    decide (l core + cost ≤ 1200) && (!twice || decide (l ((core + 1) % 8) + cost ≤ 1200))
  (costs.foldl (fun (a : Nat × Tab Nat × List (Option (Nat × Nat))) cost =>
    match (List.range (slots * 8 - a.1)).find? fun i => fits a.2.1 ((a.1 + i) / 8) ((a.1 + i) % 8) cost with
    | none => (slots * 8, a.2.1, a.2.2 ++ [none])
    | some i =>
      let at_ := a.1 + i
      let core := at_ % 8
      let slot := at_ / 8
      let add (t : Tab Nat) (c : Nat) : Tab Nat := tset t (slot * 8 + c) (tget (fun _ => 0) t (slot * 8 + c) + cost)
      let load := add a.2.1 core
      (at_, if twice then add load ((core + 1) % 8) else load, a.2.2 ++ [some (core, slot)])) (0, [], [])).2.2

/-- Consecutive bytes as runs. -/
def byteRuns (l : List (Nat × Byte)) : List (Nat × List Byte) :=
  l.foldr (fun x acc => match acc with
    | (a, bs) :: rest => if x.1 + 1 = a then (x.1, x.2 :: bs) :: rest else (x.1, [x.2]) :: acc
    | [] => [(x.1, [x.2])]) []

namespace State

/-- Updates the transmit path. -/
def onTx (f : Tx → Tx) (s : State) : State := { s with tx := f s.tx }

/-- A codeword by its number. -/
def cwOf (s : State) (id : Nat) : Option TxCw := s.tx.cws.find? fun c => c.id == id

/-- Replaces a codeword. -/
def setCw (c : TxCw) (s : State) : State := s.onTx fun t => { t with cws := t.cws.map fun x => if x.id = c.id then c else x }

/-- The completion of a downlink codeword. -/
def postCw (c : TxCw) (result : Nat) (s : State) : State :=
  s.complete c.basin (completionBytes 1 result c.d.tag c.d.slot [] 0 c.basin)

/-- A codeword leaves the list, and completes if it has not. -/
def endCw (c : TxCw) (result : Nat) (s : State) : State :=
  let s := s.onTx fun t => { t with
    cws := t.cws.filter fun x => x.id ≠ c.id
    queues := t.queues.map fun q => (q.1, q.2.filter fun b => b.1 ≠ c.id) }
  if c.posted then s else s.postCw c result

/-- The symbol of a slot that is being built: the first with no stage X yet. -/
def builtSym (s : State) (carrier slot : Nat) : Nat :=
  ((s.tx.syms.filter fun x => x.carriers.contains carrier && x.sym.sfn.val * 128 + x.sym.slot.val == slot).map
    fun x => x.sym.sym.val + 1).foldl max 0

/-- The encode launch takes one codeword: its payload is read, CRC and code blocks are formed on the device of ENC_RANK (R83,
R84, R86, R276); outside a group ENC_RANK is compared with rank 0 (DESIGN CHOICE, assumption 85). A payload read that faults
sends the allocation as zero symbols from the symbol being built on. -/
def takeCw (c : TxCw) (s : State) : State :=
  let c : TxCw := { c with st := .taken }
  if c.d.encRank ≠ s.groupRank then s.setCw c
  else
    let tbs := c.d.tbs
    let n := (tbs + 7) / 8
    let r := readG (reqWeir 0) (c.basin + 8) n s c.d.source n
    if r.2.2 then
      let pl := unpackMsb tbs r.2.1
      let crc : List Bool := if 3824 < tbs then bitsOf 24 (crc24a pl) else bitsOf 16 (crc16 pl)
      r.1.setCw { c with bits := pl ++ crc, blocks := txBlocks c.d c.alloc }
    else
      let s := r.1.event Reg.TXP_STATUS Ev.TXP_TX_FAULT
      (s.setCw { c with zeroFrom := some (s.builtSym c.d.carrier c.d.slot), posted := true }).postCw c 2

/-- Gives the slot's code blocks to the encoders: by first symbol, post order and block index, the k-th to encoder
k mod 8 or the next enabled one (R85; 08 R310). -/
def queueBlocks (ids : List Nat) (s : State) : State :=
  let keys := ids.zipIdx.foldl (fun (l : List (Nat × (Nat × Nat))) (x : Nat × Nat) =>
    match s.cwOf x.1 with
    | some c => c.blocks.zipIdx.foldl (fun (l : List (Nat × (Nat × Nat))) (b : TxBlk × Nat) =>
        insertKey (b.1.first * 2 ^ 32 + x.2 * 2 ^ 16 + b.2) (x.1, b.2) l) l
    | none => l) []
  keys.zipIdx.foldl (fun (s : State) (x : (Nat × (Nat × Nat)) × Nat) =>
    match s.encoderFor (x.2 % 8) with
    | some e => s.onTx fun t => { t with queues := tset t.queues e (tget (fun _ => []) t.queues e ++ [x.1.2]) }
    | none => s) s

/-- The encode launch that has come for a codeword's slot, if any. -/
def launchOf (s : State) (carrier slot : Nat) : Option TxLaunch :=
  s.tx.launched.find? fun l => l.slot == slot && l.mu == s.muOf carrier

/-- Takes a downlink codeword descriptor, entry `index` of submission ring 0 (R82, R84): one that the host posted after the
slot's encode launch is late, its allocation zero for the whole slot; one posted before it and fetched after it is taken at once. A
slot counts as launched while it is among the last 160 launches (DESIGN CHOICE, assumption 78). -/
def takeDl (b index : Nat) (e : List Byte) (alloc : DlAlloc) (s : State) : State :=
  let d := dlDescOf e
  let c : TxCw :=
    { id := s.tx.nextId, basin := b, d := d, alloc := alloc, st := .posted, blocks := [], bits := [], zeroFrom := none, late := []
      posted := false }
  let add (c : TxCw) : State := s.onTx fun t => { t with cws := t.cws ++ [c], nextId := t.nextId + 1 }
  if d.bad then s.postCw c 3
  else match s.launchOf d.carrier d.slot with
    | none => add c
    | some l =>
      if (l.prods.getD b 0 + 65535 - index) % 65536 < 32768 then ((add c).takeCw c).queueBlocks [c.id]
      else
        let s := add { c with st := .taken, zeroFrom := some 0, posted := true }
        ((s.count Reg.TXP_TB_LATE_CNT 1).event Reg.TXP_STATUS Ev.TXP_TB_LATE).postCw c 1

/-- The encode launch E = A_0 − TXP.LEAD of a slot falls on the present tick: A_0 is the slot's boundary (12 R473), LEAD at least
20,000 ns (R84, table "TXP registers"). -/
def encodeDue (s : State) (mu : Nat) (slot : SlotId) : Bool :=
  s.leadDue (slot.sfn.val * frameUnits + slot.slot.val * (1000000 * 2 ^ 40 / 2 ^ mu))
    (max 20000 (s.ctl.inForce Reg.TXP_LEAD).toNat * 2 ^ 40)

/-- The encode launch of a slot of numerology μ (R84, R85): it takes what the host has posted until now. -/
def encodeSlot (mu : Nat) (slot : SlotId) (s : State) : State :=
  let f := slotField slot
  if !s.encodeDue mu slot then s
  else
    let cws := s.tx.cws.filter fun c => c.d.slot == f && s.muOf c.d.carrier == mu && c.st == .posted
    let l : TxLaunch := ⟨mu, f, (List.range 8).map fun b => (s.basin b).sq0.prod⟩
    let s := s.onTx fun t => { t with launched := (l :: t.launched.filter fun x => !(x.mu == mu && x.slot == f)).take 160 }
    (cws.foldl (fun (s : State) c => s.takeCw c) s).queueBlocks (cws.map (·.id))

/-- An encoder finishes the block at the head of its queue (08 R309). -/
def encodeDone (e : Nat) (s : State) : State :=
  match s.encQueue e with
  | [] => s
  | (id, i) :: rest =>
    let s := s.onTx fun t => { t with queues := tset t.queues e rest }
    match s.cwOf id with
    | none => s
    | some c =>
      match c.blocks[i]? with
      | none => s
      | some b =>
        let off := (c.blocks.take i).foldl (fun n x => n + x.e) 0
        let cinit := c.d.rnti * 2 ^ 15 + c.d.q * 2 ^ 14 + c.d.nid
        let coded := encodeBlk c.d.segm c.d.rv c.d.qm b.e cinit (fun x => off + x) ((cutBlocks c.d.segm c.bits).getD i [])
        s.setCw { c with blocks := c.blocks.set i { b with coded := some coded } }

/-- The control program, on the 1st logical core of cluster 0, encodes a slot's control payloads of a carrier: at most 32 DCIs
(R89; a DCI beyond them is not encoded: assumption 77). -/
def controlEncode (p carrier : Nat) (slot : SlotId) (items : List PolarItem) (s : State) : State :=
  if clusterOf p ≠ 0 ∨ s.roleOf p ≠ 0 then s
  else
    let f := slotField slot
    let dcis := (items.filter (·.dci)).take 32
    let new := (dcis ++ items.filter fun x => !x.dci).map fun x => (⟨carrier, f, x.n, polarCoded x⟩ : TxCtl)
    s.onTx fun t => { t with ctl := ((t.ctl.filter fun x => !(x.carrier == carrier && x.slot == f)) ++ new).take 4096 }

/-! ## Stage X (R87, R90 to R94, R101 to R103) -/

/-- The entry of a symbol on a cluster. -/
def txSym (s : State) (c mu : Nat) (y : SymId) : Option TxSym := s.tx.syms.find? fun x => x.cluster == c && x.mu == mu && x.sym == y

/-- Replaces the entry of a symbol, the last four of its cluster and numerology kept. -/
def setTxSym (x : TxSym) (s : State) : State :=
  let same (y : TxSym) : Bool := y.cluster == x.cluster && y.mu == x.mu
  s.onTx fun t =>
    if t.syms.any fun y => same y && y.sym == x.sym then { t with syms := t.syms.map fun y => if same y && y.sym == x.sym then x else y }
    else
      let kept := t.syms.filter same
      { t with syms := (t.syms.filter fun y => !(same y && kept.head? == some y && decide (4 ≤ kept.length))) ++ [x] }

/-- Downlink carriers of numerology μ with positions on a cluster. -/
def txCarriers (s : State) (c mu : Nat) : List (Nat × CarrierRec) :=
  s.func.applied.filter fun e => e.2.downlink && e.2.mu.val == mu && e.2.txPlaces.any fun x => x.cluster.val == c

/-- The address of the beam-weight table of a carrier that `sel` names (R101). -/
def tableAddr (r : CarrierRec) (sel : Nat) : Nat := if sel = 0 then r.tableA else r.tableB

/-- Latches the beam-weight table that TXP.BEAM_SEL names for the carrier (R101 to R103). PRG_COUNT must be the number of groups
of PRG_RB resource blocks that the carrier has, 1 for wideband, and PRG_RB one of 0, 2 and 4 (DESIGN CHOICE, assumption 79). -/
def latchBeam (carrier : Nat) (r : CarrierRec) (s : State) : State :=
  let sel := bits (s.reg Reg.TXP_BEAM_SEL).toNat carrier carrier
  let addr := tableAddr r sel
  let head := s.readMem addr 64
  let h := head.2.1
  let rb := fieldAt h 6 1
  let want := if rb = 0 then 1 else (r.nrb + rb - 1) / rb
  let n := fieldAt h 8 2
  let inDram := decide (addr + 64 + n * r.txStreams * 64 ≤ s.dramTop)
  let recs := if inDram && n == want then head.1.readMem (addr + 64) (n * r.txStreams * 64) else (head.1, [], false)
  let ok := head.2.2 && recs.2.2 && fieldAt h 0 4 == 0x4F484257 && fieldAt h 4 1 == carrier && fieldAt h 5 1 == r.txStreams
    && (rb == 0 || rb == 2 || rb == 4) && fieldAt h 24 4 == (crc32c recs.2.1).toNat
  let s := recs.1
  if ok then
    let w := setBits (s.reg Reg.TXP_BEAM_ACTIVE) carrier carrier sel
    s.setReg Reg.TXP_BEAM_ACTIVE (setBits w (16 + carrier) (16 + carrier) 1)
  else s.event Reg.TXP_STATUS Ev.TXP_BEAM_INVALID

/-- A code block of a codeword lies in symbol `y`: its rate-matched bits meet the symbol's. -/
def blockIn (c : TxCw) (i y : Nat) : Bool :=
  let u := c.d.layers * c.d.qm
  let lo := dlBefore c.alloc y * u
  let off := (c.blocks.take i).foldl (fun n x => n + x.e) 0
  match c.blocks[i]? with
  | some b => decide (off < lo + (dlSubs c.alloc y).length * u ∧ lo < off + b.e)
  | none => false

/-- Code blocks that a symbol needs and that are not in the coded-bit area: each counted once, and the allocation is zero from this
symbol on (R87). -/
def needBlocks (y : Nat) (c : TxCw) (s : State) : State :=
  let missed := (List.range c.blocks.length).filter fun i =>
    blockIn c i y && (match c.blocks[i]? with
      | some b => b.coded.isNone
      | none => false) && !c.late.contains i
  if missed.isEmpty then s
  else
    let s := s.setCw { c with late := c.late ++ missed, zeroFrom := some (min (c.zeroFrom.getD 14) y) }
    missed.foldl (fun (s : State) _ => (s.count Reg.TXP_CB_LATE_CNT 1).event Reg.TXP_STATUS Ev.TXP_CB_LATE) s

/-- A codeword carries zero symbols in symbol `y`. -/
def zeroIn (c : TxCw) (y : Nat) : Bool := match c.zeroFrom with
  | some z => decide (z ≤ y)
  | none => false

/-- What a codeword puts on subcarrier `sc` in symbol `y`: each of its layers with its index (R82, R91). -/
def cwLayers (c : TxCw) (y sc : Nat) : List (TxLayer × Nat) :=
  let subs := dlSubs c.alloc y
  if !subs.contains sc then []
  else
    let re := dlBefore c.alloc y + subs.findIdx (· == sc)
    (List.range c.d.layers).map fun l =>
      let m := re * c.d.layers + l
      (⟨c.d.layerBase + l, c.d.amp, c.d.qm, c.d.encRank, zeroIn c y⟩,
       indexOf ((List.range c.d.qm).map fun b => (codedBit c.blocks (m * c.d.qm + b)).getD false))

/-- What an allocation entry of reference signals or control channels puts on a subcarrier (R92); coded bits that are not in the
coded-bit area are sent as zero symbols. -/
def ctlLayers (s : State) (slot carrier sc : Nat) (a : CtlAlloc) : List (TxLayer × Nat) :=
  if a.carrier.val ≠ carrier ∨ !a.res.contains sc then []
  else
    let re := a.res.findIdx (· == sc)
    let qm := max 1 a.qm.val
    let bits? : Option (List Bool) := match a.bits with
      | .signal bs => some bs
      | .coded n => (s.tx.ctl.find? fun x => x.carrier == carrier && x.slot == slot && x.n == n).map (·.bits)
    let bs := (bits?.getD []).drop (a.first + re * a.layers * qm)
    (List.range a.layers).map fun l =>
      (⟨a.layerBase.val + l, a.amp.toNat, qm, a.rank.val, bits?.isNone⟩, indexOf (((bs.drop (l * qm)).take qm)))

/-- The lanes of a carrier on a cluster in ascending subcarrier, each with its layers in ascending layer place, and the indices of
the layers. -/
def lanesOf (s : State) (c : Nat) (y : SymId) (ctl : List CtlAlloc) (e : Nat × CarrierRec) : List (TxLane × List (TxLayer × Nat)) :=
  let slot := y.sfn.val * 128 + y.slot.val
  let cws := s.tx.cws.filter fun k => k.d.carrier == e.1 && k.d.slot == slot && k.st == .taken
  ((positionsOf e.2.group (12 * e.2.nrb)).zip e.2.txPlaces).flatMap fun x =>
    if x.2.cluster.val ≠ c then []
    else
      let span := posSpan e.2.group (12 * e.2.nrb) x.1.1 x.1.2
      (List.range span.2).map fun k =>
        let sc := span.1 + k
        let ls := cws.flatMap (fun w => cwLayers w y.sym.val sc) ++ ctl.flatMap (s.ctlLayers slot e.1 sc)
        let ls := (ls.foldl (fun l z => insertKey z.1.layer z l) []).map (·.2)
        (⟨e.1, sc, k, x.2.q.val, ls.map (·.1)⟩, ls)

/-- The devices that stage X writes indices to: all four of a group, or this one (R93). -/
def indexDevs (s : State) (group : Bool) : List Nat := if group then (List.range 4).map s.rankDev else [0x3FFFF]

/-- Writes the indices of this device's layers into the layer ring, and then sets its landing flag for each position (R90, R93). -/
def putIndices (p c mu : Nat) (y : SymId) (group : Bool) (lanes : List (TxLane × List (TxLayer × Nat))) (s : State) : State :=
  let own := s.groupRank
  let req := s.reqSluice p true
  let bytes := lanes.flatMap fun x => (x.2.filter fun z => z.1.rank == own).map fun z =>
    (layerBlock c x.1.q y + x.1.k * 16 + z.1.layer, BitVec.ofNat 8 z.2)
  let qs := (lanes.map fun x => x.1.q).eraseDups
  (s.indexDevs group).foldl (fun (s : State) d =>
    let s := (byteRuns bytes).foldl (fun (s : State) x => (writeG req 0 x.2.length s (d * 2 ^ 46 + x.1) x.2).1) s
    qs.foldl (fun (s : State) q => (writeG req 0 4 s (d * 2 ^ 46 + layerFlag c q own y) (leBytes 4 (symTag mu y))).1) s) s

/-- Stage X of a symbol on a cluster, by the first of its cores that launches (R87, R92 to R94, R102). -/
def stageX (p c mu : Nat) (y : SymId) (ctl : List CtlAlloc) (s : State) : State :=
  if clusterOf p ≠ c ∨ 2 ≤ s.roleOf p ∨ (s.txSym c mu y).isSome then s
  else
    let es := s.txCarriers c mu
    let slot := y.sfn.val * 128 + y.slot.val
    let fresh (e : Nat × CarrierRec) : Bool := y.sym.val == 0 && !s.tx.syms.any fun x => x.carriers.contains e.1 && x.sym == y
    let s := (es.filter fresh).foldl (fun (s : State) e => s.latchBeam e.1 e.2) s
    let mine := s.tx.cws.filter fun k => k.d.slot == slot && k.st == .taken && es.any fun e => e.1 == k.d.carrier
    let s := mine.foldl (fun (s : State) k => s.needBlocks y.sym.val k) s
    let lanes := es.flatMap (s.lanesOf c y ctl)
    let s := s.putIndices p c mu y (es.any fun e => e.2.group) lanes
    let noTable := (es.filter fun e => !bitOf (s.reg Reg.TXP_BEAM_ACTIVE).toNat (16 + e.1)).map (·.1)
    s.setTxSym
      { cluster := c, mu := mu, sym := y, carriers := es.map (·.1), noTable := noTable
        fills := (buildFills (lanes.map (·.1))).map fun f => ⟨f.1, f.2, none, 0⟩, placed := false, rerun := false, handed := false }

/-! ## Stage P (R93, R95 to R99; 15 R569, R572) -/

/-- A fill is sent as zero samples (R99; 15 R572): the leaf on core `p` discards it (15 R559). -/
def zeroFill (p : Nat) (s : State) : State :=
  ((s.count Reg.TXP_ZEROED_CNT 1).event Reg.TXP_STATUS Ev.TXP_FILL_ZEROED).catchPhys Ev.CATCHFW_RECOVERABLE p

/-- The weight of a stream and layer place on a subcarrier, from the table that the slot latched (R101). -/
def weightOf (s : State) (carrier : Nat) (r : CarrierRec) (sc a l : Nat) : Cplx :=
  let base := tableAddr r (bits (s.reg Reg.TXP_BEAM_ACTIVE).toNat carrier carrier)
  let rb := (tget zeroByte s.mem (base + 6)).toNat
  let prg := if rb = 0 then 0 else sc / 12 / rb
  let w := fieldAt (readBytes s.mem (base + 64 + prg * r.txStreams * 64 + (a * 16 + l) * 4) 4) 0 4
  ⟨sext 16 w, sext 16 (w / 65536)⟩

/-- The expanded symbol of a layer on a lane: its index in the layer ring through its allocation's table, or zero (R92, R93). -/
def layerSymbol (s : State) (c : Nat) (y : SymId) (x : TxLane) (l : TxLayer) : Cplx :=
  if l.zero then ⟨0, 0⟩ else expandEntry l.qm l.amp (tget zeroByte s.mem (layerBlock c x.q y + x.k * 16 + l.layer)).toNat

/-- The INT32 sums of a stream on a lane: one complex CQ16 product a cycle, saturating (04 R121). -/
def precode (s : State) (c : Nat) (y : SymId) (r : CarrierRec) (x : TxLane) (a : Nat) : Cplx :=
  x.layers.foldl (fun acc l =>
    let w := s.weightOf x.carrier r x.sc a l.layer
    let v := s.layerSymbol c y x l
    ⟨(clampS 32 (acc.re + w.re * v.re - w.im * v.im)).1, (clampS 32 (acc.im + w.re * v.im + w.im * v.re)).1⟩) ⟨0, 0⟩

/-- A precoded sample: the sums shifted right by OUT_SHIFT, truncated toward −∞ and saturated (R98), and whether it saturated. -/
def outSample (shift : Nat) (v : Cplx) : List Byte × Bool :=
  let a := clampS 16 (v.re / (2 ^ shift : Nat))
  let b := clampS 16 (v.im / (2 ^ shift : Nat))
  (leBytes 2 (wrapN 16 a.1) ++ leBytes 2 (wrapN 16 b.1), a.2 || b.2)

/-- Writes a lane's samples, or zero samples, into the transmit grid. -/
def putLane (p c : Nat) (y : SymId) (zero : List Nat) (s : State) (x : TxLane) : State :=
  match s.carrierOf x.carrier with
  | none => s
  | some r =>
    let outs := (List.range r.txStreams).map fun a =>
      if zero.contains x.carrier then (leBytes 4 0, false) else outSample r.outShift.val (s.precode c y r x a)
    let sats := (outs.filter (·.2)).length
    let s := if sats = 0 then s else (s.count Reg.TXP_SAT_CNT sats).event Reg.TXP_STATUS Ev.TXP_SAT
    match txSample r y x.sc 0 with
    | some a => (writeG (s.reqSluice p true) 0 (4 * r.txStreams) s (selfAddr a) (outs.flatMap (·.1))).1
    | none => s

/-- Computes a fill on core `p`. -/
def runFill (p : Nat) (x : TxSym) (s : State) (f : TxFill) : State := f.lanes.foldl (putLane p x.cluster x.sym x.noTable) s

/-- Zero samples on every subcarrier of the symbol's positions of a cluster: what no fill computes stays so (R97, R103). -/
def blankSym (p : Nat) (x : TxSym) (s : State) : State :=
  x.carriers.foldl (fun (s : State) e => match s.carrierOf e with
    | none => s
    | some r => r.txPlaces.foldl (fun (s : State) k =>
        if k.cluster.val ≠ x.cluster then s
        else
          let a := if symNumber x.sym % 2 = 0 then k.even else k.odd
          (writeG (s.reqSluice p true) 0 (1024 * r.txStreams) s (selfAddr a) (List.replicate (1024 * r.txStreams) 0)).1) s) s

/-- The P core of a cluster by its place 0 to 7: the 3rd to 10th logical cores. -/
def pCore (s : State) (c i : Nat) : Nat := (s.clusterCores c).getD (2 + i) 255

/-- Layers of source ranks whose landing flag is missing for their position become zero symbols, each rank and position counted once
(R93). -/
def missRanks (p : Nat) (x : TxSym) (s : State) : State × TxSym :=
  let own := s.groupRank
  let lanes := x.fills.flatMap (·.lanes)
  let keys := (lanes.flatMap fun l => (l.layers.filter fun z => z.rank ≠ own).map fun z => (l.q, z.rank)).eraseDups
  let grouped := x.carriers.any fun e => match s.carrierOf e with
    | some r => r.group
    | none => false
  let missing := if grouped then keys.filter fun k =>
      fieldAt (readBytes s.mem (layerFlag x.cluster k.1 k.2 x.sym) 4) 0 4 ≠ symTag x.mu x.sym else []
  let cut (l : TxLane) : TxLane := { l with layers := l.layers.map fun z => if missing.contains (l.q, z.rank) then { z with zero := true } else z }
  let s := missing.foldl (fun (s : State) _ =>
    ((s.count Reg.TXP_REMOTE_MISS_CNT 1).event Reg.TXP_STATUS Ev.TXP_REMOTE_MISSING).catchPhys Ev.CATCHFW_REMOTE_MISSING p) s
  (s, { x with fills := x.fills.map fun f => { f with lanes := f.lanes.map cut } })

/-- P slots and streams of a symbol: the most of its carriers. -/
def symSlots (s : State) (x : TxSym) : Nat := (x.carriers.map fun e => match s.carrierOf e with
  | some r => r.pSlots
  | none => 0).foldl max 0
def fillCost (s : State) (f : TxFill) : Nat := (f.lanes.map fun l => match s.carrierOf l.carrier with
  | some r => r.txStreams
  | none => 0).foldl max 0 * f.nu + 32

/-- The launch of a symbol's first P slot: missing indices, the places of all fills, and those that find none (R93, R96, R97). -/
def placeSym (p : Nat) (x : TxSym) (s : State) : State × TxSym :=
  let m := s.missRanks p x
  let s := m.1.blankSym p x
  let x := m.2
  let at_ := placeFills (x.fills.map s.fillCost) (s.flt.check == 50) (s.symSlots x)
  let fills := (x.fills.zip at_).map fun f => { f.1 with place := f.2 }
  let extra := (fills.filter fun f => f.place.isNone).length
  let s := if extra = 0 then s else 
    ((s.count Reg.TXP_OVERFLOW_CNT extra).event Reg.TXP_STATUS Ev.TXP_FILL_OVERFLOW).catchPhys Ev.CATCHFW_RECOVERABLE p
  (s, { x with fills := fills, placed := true })

/-- P slot `slot` of a symbol on core `p`: the fills placed there; `bad` numbers those whose checksum mismatches, or at level 50
whose two results differ (R96, R98, R99; 15 R569, R572). -/
def stageP (p c mu : Nat) (y : SymId) (slot : Nat) (bad : List Nat) (s : State) : State :=
  let role := s.roleOf p
  match s.txSym c mu y with
  | none => s
  | some x =>
    if clusterOf p ≠ c ∨ role < 2 ∨ 10 ≤ role then s
    else
      let r := if x.placed then (s, x) else s.placeSym p x
      let s := r.1
      let x := r.2
      let lvl := s.flt.check
      let here (f : TxFill) : Bool := f.place == some (role - 2, slot) && f.st == 0
      let wrong (i : Nat) : Bool := lvl != 0 && bad.contains i
      let s := (x.fills.filter here).foldl (runFill p x) s
      let hit := (x.fills.zipIdx.filter fun f => here f.1 && wrong f.2).map (·.1)
      let st (f : TxFill × Nat) : TxFill :=
        if !here f.1 then f.1 else { f.1 with st := if wrong f.2 then (if lvl = 50 then 3 else 2) else 1 }
      let s := s.setTxSym { x with fills := x.fills.zipIdx.map st }
      if lvl = 50 then
        hit.foldl (fun (s : State) f =>
          let s := runFill p { x with noTable := x.carriers } s f
          let s := (s.zeroFill p).event Reg.FAULT_STATUS Ev.FAULT_REPLAY_DIFF
          (s.suspect p).suspect (s.pCore c ((role - 2 + 1) % 8))) s
      else s

/-- The rerun places of a symbol (P slot 255): the next P core in rank order takes at most four fills; the others are sent as zero
samples (R99). -/
def rerunPlaces (p : Nat) (x : TxSym) (s : State) : State × TxSym :=
  let r := x.fills.foldl (fun (a : State × Tab Nat × List TxFill) f =>
    if f.st ≠ 2 then (a.1, a.2.1, a.2.2 ++ [f])
    else
      let core := ((f.place.getD (0, 0)).1 + 1) % 8
      let n := tget (fun _ => 0) a.2.1 core
      if n < 4 then (a.1, tset a.2.1 core (n + 1), a.2.2 ++ [{ f with place := some (core, 255) }])
      else ((runFill p { x with noTable := x.carriers } a.1 f).zeroFill p, a.2.1, a.2.2 ++ [{ f with st := 3 }])) (s, [], [])
  (r.1, { x with fills := r.2.2, rerun := true })

/-- Every position of a carrier has handed its symbol over (10 R385). -/
def symHanded (s : State) (carrier : Nat) (y : SymId) : Bool :=
  match s.carrierOf carrier with
  | none => false
  | some r => !r.txPlaces.isEmpty && r.txPlaces.all fun k =>
      s.tx.syms.any fun x => x.cluster == k.cluster.val && x.sym == y && x.carriers.contains carrier && x.handed

/-- Codewords of a carrier whose last symbol has been handed over complete (13 R512). -/
def doneCws (carrier : Nat) (y : SymId) (s : State) : State :=
  if s.symHanded carrier y then
    let slot := y.sfn.val * 128 + y.slot.val
    (s.tx.cws.filter fun c => c.st == .taken && c.d.carrier == carrier && c.d.slot == slot && dlLast c.alloc == y.sym.val).foldl
      (fun (s : State) c => s.endCw c 0) s
  else s

/-- The rerun slot of a symbol on core `p` (R99, R104): its fills are recomputed; once no fill of the symbol is open, the cluster's
samples are handed over. -/
def rerunP (p c mu : Nat) (y : SymId) (s : State) : State :=
  let role := s.roleOf p
  match s.txSym c mu y with
  | none => s
  | some x =>
    if clusterOf p ≠ c ∨ role < 2 ∨ 10 ≤ role ∨ !x.placed then s
    else
      let r := if x.rerun then (s, x) else s.rerunPlaces p x
      let x := r.2
      let here (f : TxFill) : Bool := f.st == 2 && (f.place.map (·.1)) == some (role - 2)
      let s := (x.fills.filter here).foldl (fun (s : State) f =>
        (((runFill p x s f).count Reg.TXP_RERUN_CNT 1).event Reg.TXP_STATUS Ev.TXP_RERUN)) r.1
      let fills := x.fills.map fun f => if here f then { f with st := 1 } else f
      let handed := fills.all fun f => f.place.isNone || f.st == 1 || f.st == 3
      let s := s.setTxSym { x with fills := fills, handed := handed }
      if handed then x.carriers.foldl (fun (s : State) e => s.doneCws e y) s else s

/-- The symbol goes out as zero samples and counts as late (01 R38). -/
def symLate (carrier : Nat) (sym : SymId) (s : State) : State :=
  let s := s.onTx fun t => { t with lateSyms := t.lateSyms ++ [(carrier, sym)] }
  (s.count Reg.TXP_SYM_LATE_CNT 1).event Reg.TXP_STATUS Ev.TXP_SYM_LATE

/-- The downlink is on the air `lead` ns from now: not from S of a procedure that stops or changes it until R (16 R620, R622), nor
before a start's R (R619). -/
def downOn (s : State) (lead : Nat) : Bool :=
  let t : Int := s.ns32.toNat + lead
  let before (ns : Nat) : Bool := decide (sext 32 (wrapN 32 (t - ns)) < 0)
  match s.func.proc with
  | some p =>
    if bitOf p.mask 1 then (p.kind != 0 && p.phase == 0 && before p.s) || (p.kind != 1 && p.phase == 2 && !before p.r)
    else bitOf s.func.started 1
  | none => bitOf s.func.started 1

/-- The carrier's applied record says fronthaul. -/
def isFronthaul (s : State) (carrier : Nat) : Bool :=
  match s.carrierOf carrier with
  | some c => c.fronthaul
  | none => false

/-- A basin reset drops the basin's downlink codewords (13 R513). -/
def txBasinReset (b : Nat) (s : State) : State :=
  (s.tx.cws.filter fun c => c.basin == b).foldl (fun (s : State) c => s.endCw c 5) s

end State

/-- DL_CODEWORD_DESCRIPTOR (R82): the next entry of SQ0 of basin `b`, with its entry of the slot's allocation list. -/
def execDlCodewordDescriptor (b : Fin 8) (alloc : DlAlloc) (s : State) : Host.Outcome State Fault Refusal :=
  s.run fun s =>
    let x := s.basin b.val
    match s.takeEntry b.val 0 with
    | (s, some e) => s.takeDl b.val ((x.sq0.cons + 65536 - x.f0.length % 65536) % 65536) e alloc
    | (s, none) => s

/-- ENCODE_LAUNCH (R84). -/
def execEncodeLaunch (mu : Fin 4) (slot : SlotId) (s : State) : Host.Outcome State Fault Refusal :=
  s.run fun s => s.encodeSlot mu.val slot

/-- ENCODER_CODE_BLOCK_DONE (08 R309); `uncorr`: the encoder met an uncorrectable error (R311). -/
def execEncoderCodeBlockDone (e : Fin 8) (uncorr : Bool) (s : State) : Host.Outcome State Fault Refusal :=
  s.run fun s =>
    if uncorr then s.event (Reg.WEIR_FAULTWORD (e.val / 2)) (Ev.WEIRFW_ENC_UNCORR + e.val % 2) else s.encodeDone e.val

end Sys2Proof.Machine
end

