-- ==== Sys2Proof/Machine/Chain.lean ====
section
/-! DEFINITION. The sample chains of the Delta front end (10_delta_front_end.md R371 to R376, R386, R394): records, symbol times in
Tc, NCO, halfbands and FIR stages of a channel, decimating and interpolating. -/
namespace Sys2Proof.Machine

/-! ## Arithmetic (R374, R377; 06 R234) -/

/-- A complex product narrowed by 15 bits. -/
def cmul15 (a w : Cplx) : Cplx := ⟨(a.re * w.re - a.im * w.im) / 32768, (a.re * w.im + a.im * w.re) / 32768⟩
def cplus (a b : Cplx) : Cplx := ⟨a.re + b.re, a.im + b.im⟩
def cminus (a b : Cplx) : Cplx := ⟨a.re - b.re, a.im - b.im⟩
/-- Product with -j, and with +j where `inv`. -/
def crot (inv : Bool) (a : Cplx) : Cplx := if inv then ⟨-a.im, a.re⟩ else ⟨a.im, -a.re⟩

/-- The twiddle factor of exponent `k` of a transform of size 2^l; conjugated where `inv`. -/
def twid (inv : Bool) (l k : Nat) : Cplx :=
  let w := Config.twiddle l (k % 2 ^ l)
  ⟨w.1, if inv then -w.2 else w.2⟩

/-- The twiddle products of one of the four parts of a radix-2² stage. -/
def twidPart (inv : Bool) (l part : Nat) (xs : List Cplx) : List Cplx :=
  if part = 0 then xs else xs.zipIdx.map fun x => cmul15 x.1 (twid inv l (x.2 * part))

/-- Interleaves four lists. -/
def weave : List Cplx → List Cplx → List Cplx → List Cplx → List Cplx
  | a :: as, b :: bs, c :: cs, d :: ds => a :: b :: c :: d :: weave as bs cs ds
  | _, _, _, _ => []

/-- The radix-2² decimation-in-frequency transform of 2^l samples, in natural order (R377); its inverse (R386). -/
def fft (inv : Bool) : Nat → List Cplx → List Cplx
  | 0, xs => xs
  | 1, xs =>
    match xs with
    | [a, b] => [cplus a b, cminus a b]
    | _ => xs
  | l + 2, xs =>
    let q := 2 ^ l
    let a := xs.take q
    let b := (xs.drop q).take q
    let c := (xs.drop (2 * q)).take q
    let d := (xs.drop (3 * q)).take q
    let ac := List.zipWith cplus a c
    let ac' := List.zipWith cminus a c
    let bd := List.zipWith cplus b d
    let bd' := (List.zipWith cminus b d).map (crot inv)
    weave (fft inv l (List.zipWith cplus ac bd))
      (fft inv l (twidPart inv (l + 2) 1 (List.zipWith cplus ac' bd')))
      (fft inv l (twidPart inv (l + 2) 2 (List.zipWith cminus ac bd)))
      (fft inv l (twidPart inv (l + 2) 3 (List.zipWith cminus ac' bd')))

/-- A CQ16 word of a pair of integers, and whether a half saturated (06 R235). -/
def cqWord (c : Cplx) : Word × Bool :=
  let re := clampS 16 c.re
  let im := clampS 16 c.im
  (BitVec.ofNat 32 (wrapN 16 re.1 + wrapN 16 im.1 * 65536), re.2 || im.2)

/-- The pair that a CQ16 word holds. -/
def cqPair (w : Word) : Cplx := ⟨sext 16 w.toNat, sext 16 (w.toNat / 65536)⟩

/-! ## Records -/

/-- A link record (R364, R369). -/
structure LinkRec where
  valid : Bool
  half : Bool
  n24 : Bool
  e : Nat
  streams : Nat
  lane0 : Nat
  rbd : Nat
  lanes : List Nat
  mask : Nat
  deriving DecidableEq, Repr

/-- The fields of a link record. -/
def linkRecOf (bs : List Byte) : LinkRec :=
  let c := fieldAt bs 0 1
  ⟨bitOf c 0, bitOf c 1, bitOf c 2, bits c 7 6, fieldAt bs 1 1, fieldAt bs 2 1, fieldAt bs 3 1,
    (List.range 12).map fun k => bits (fieldAt bs 4 6) (4 * k + 3) (4 * k), fieldAt bs 13 1⟩

/-- Lanes of a link times 64 (R364): an integer number of lanes is a multiple of 64. -/
def LinkRec.lanes64 (r : LinkRec) : Nat := r.streams * (if r.n24 then 24 else 16) * (if r.half then 1 else 2)
def LinkRec.laneCount (r : LinkRec) : Nat := r.lanes64 / 64

/-- A carrier channel record (R371). -/
structure ChanRec where
  valid : Bool
  tx : Bool
  carrier : Nat
  stream : Nat
  ant : Nat
  /-- the NCO's phase step, modulo 2^32 (R373) -/
  nco : Nat
  hb : Nat
  t1 : Nat
  d1 : Nat
  t2 : Nat
  d2 : Nat
  mu : Nat
  coef1 : Nat
  coef2 : Nat
  nfft : Nat
  cut : Nat
  nrb : Nat
  k0 : Nat
  shift : Nat
  f0 : Nat
  zero : Bool
  deriving DecidableEq, Repr

/-- The fields of a carrier channel record. -/
def chanRecOf (bs : List Byte) : ChanRec :=
  let c := fieldAt bs 0 1
  let f1 := fieldAt bs 9 1
  let f2 := fieldAt bs 10 1
  ⟨bitOf c 0, bitOf c 1, fieldAt bs 1 1, fieldAt bs 2 1, fieldAt bs 3 1, fieldAt bs 4 4, fieldAt bs 8 1, bits f1 6 0 + 1, bits f1 7 7,
    bits f2 6 0 + 1, bits f2 7 7, fieldAt bs 11 1, fieldAt bs 12 2, fieldAt bs 14 2, fieldAt bs 16 1, fieldAt bs 17 1,
    fieldAt bs 18 2, fieldAt bs 20 2, fieldAt bs 22 1, fieldAt bs 24 4,
    bits c 7 2 == 0 && fieldAt bs 23 1 == 0 && fieldAt bs 28 4 == 0⟩

/-- The filter delay of a channel on a stream in half periods of 491.52 MSPS (R375). -/
def ChanRec.delay (r : ChanRec) (half : Bool) : Nat :=
  let h := if half then 1 else 0
  22 * 2 ^ h * (2 ^ r.hb - 1) + (r.t1 - 1) * 2 ^ (h + r.hb + r.d1) + (r.t2 - 1) * 2 ^ (h + r.hb + r.d1 + r.d2)

/-- A channel record inside R371, R372 and R645 on a stream of the rate given. -/
def ChanRec.ok (r : ChanRec) (tx half : Bool) : Bool :=
  r.tx == tx && r.zero && decide (r.carrier ≤ 15 ∧ r.ant ≤ 15 ∧ r.hb ≤ 5 ∧ r.t1 ≤ 96 ∧ r.t2 ≤ 96 ∧ r.mu ≤ 3)
    && decide (8 ≤ r.nfft ∧ r.nfft ≤ 12 ∧ 1 ≤ r.nrb ∧ r.nrb ≤ 275 ∧ r.shift ≤ 31)
    && r.hb + r.d1 + r.d2 + r.nfft + r.mu == (if half then 14 else 15)
    && decide (r.cut * 2 * 2048 ≤ 144 * 2 ^ r.nfft) && (!tx || r.cut == 0)
    && decide (r.coef1 + r.t1 ≤ 8192 ∧ r.coef2 + r.t2 ≤ 8192 ∧ r.f0 + 14 * 2 ^ r.mu ≤ 4096)

/-- A chirp channel record. -/
structure ChirpRec where
  valid : Bool
  bw : Nat
  source : Nat
  sfMask : Nat
  preMin : Nat
  thresh : Nat
  holdoff : Nat
  nco : Nat
  ring : Nat
  size : Nat
  desc : Nat
  descN : Nat
  deriving DecidableEq, Repr

/-- The fields of a chirp channel record. -/
def chirpRecOf (bs : List Byte) : ChirpRec :=
  let c := fieldAt bs 0 1
  ⟨bitOf c 0, bits c 2 1, fieldAt bs 1 1, fieldAt bs 2 1, fieldAt bs 3 1, fieldAt bs 4 1, fieldAt bs 5 1,
    fieldAt bs 8 4, fieldAt bs 12 4, fieldAt bs 16 4, fieldAt bs 20 8, fieldAt bs 28 2⟩

/-- The samples of the cyclic prefix of symbol `l` of a subframe (R376). -/
def cpLen (mu nfft l : Nat) : Nat := (144 + (if l = 0 ∨ l = 7 * 2 ^ mu then 16 else 0)) * 2 ^ nfft / 2048

/-! ## Sample times (R376, R387; 12 R471, R472) -/

/-- Tc units of a radio frame, and of the 1,024 frames that SFN counts. -/
@[reducible] def frameTc : Nat := 19660800
@[reducible] def roundTc : Nat := 1024 * frameTc

/-- The start of a symbol in Tc since the start of SFN 0. -/
def symTc (mu : Nat) (y : SymId) : Nat :=
  let i := y.slot.val * 14 + y.sym.val
  let l := i % (7 * 2 ^ mu)
  y.sfn.val * frameTc + i / (7 * 2 ^ mu) * 983040 + (if l = 0 then 0 else 1024 + l * (140288 / 2 ^ mu))

/-- The start and the end of a symbol in 2^-40 ns since the start of SFN 0, rounded up: a tick is at or after one exactly if it is
at or after the other. -/
def symStart (mu : Nat) (y : SymId) : Nat := (symTc mu y * frameUnits + frameTc - 1) / frameTc
def symEnd (mu : Nat) (y : SymId) : Nat :=
  ((symTc mu y + 140288 / 2 ^ mu + (if (y.slot.val * 14 + y.sym.val) % (7 * 2 ^ mu) = 0 then 1024 else 0)) * frameUnits + frameTc - 1) / frameTc

/-- The symbol of the frame in which a time in Tc falls. -/
def symAtTc (mu t : Nat) : Nat :=
  let r := t % frameTc % 983040
  let w := 140288 / 2 ^ mu
  t % frameTc / 983040 * (7 * 2 ^ mu) + (if r < 1024 + w then 0 else (r - 1024) / w)

/-- Tc units of a sample of a stream, and of a channel's carrier sample (R372). -/
def streamTc (half : Bool) : Nat := if half then 8 else 4
def ChanRec.tc (r : ChanRec) : Nat := 2 ^ (17 - r.nfft - r.mu)

/-! ## NCO and filters (R373, R374) -/

/-- A pair narrowed to CQ16, and how many halves saturate (06 R234, R235). -/
def cqSat (c : Cplx) : Cplx × Nat :=
  let re := clampS 16 c.re
  let im := clampS 16 c.im
  (⟨re.1, im.1⟩, (if re.2 then 1 else 0) + if im.2 then 1 else 0)

/-- A sample times e^(jθ) or, where `neg`, e^(-jθ); θ is the top 16 bits of the phase (R373). -/
def ncoMix (neg : Bool) (phase : Nat) (x : Cplx) : Cplx × Nat :=
  let w := Config.ncoTable (phase % 2 ^ 32 / 2 ^ 16)
  cqSat (cmul15 x ⟨w.1, if neg then -w.2 else w.2⟩)

/-- Mixes samples, the phase advancing by `freq` for each: samples, phase after them, saturations. -/
def mixAll (neg : Bool) (freq : Nat) (phase : Nat) (xs : List Cplx) : List Cplx × Nat × Nat :=
  xs.foldl (fun (a : List Cplx × Nat × Nat) x =>
    let m := ncoMix neg a.2.1 x
    (a.1 ++ [m.1], (a.2.1 + freq) % 2 ^ 32, a.2.2 + m.2)) ([], phase, 0)

/-- A filter of taps `h` takes a sample into its line (newest first): its exact sum of products, narrowed by 15 bits. -/
def firStep (h : List Int) (line : List Cplx) (x : Cplx) : List Cplx × Cplx × Nat :=
  let l := (x :: line).take h.length
  let sum := (h.zip l).foldl (fun (a : Cplx) p => ⟨a.re + p.1 * p.2.re, a.im + p.1 * p.2.im⟩) ⟨0, 0⟩
  let y := cqSat ⟨sum.re / 32768, sum.im / 32768⟩
  (l, y)

/-- A stage that gives one output for `d` inputs, the first with its first input: stage, outputs, saturations. -/
def decimate (h : List Int) (d : Nat) (st : FirSt) (xs : List Cplx) : FirSt × List Cplx × Nat :=
  xs.foldl (fun (a : FirSt × List Cplx × Nat) x =>
    let r := firStep h a.1.line x
    if a.1.ph = 0 then (⟨r.1, d - 1⟩, a.2.1 ++ [r.2.1], a.2.2 + r.2.2) else (⟨r.1, a.1.ph - 1⟩, a.2.1, a.2.2)) (st, [], 0)

/-- A stage that gives `d` outputs for an input: the samples between are zero (R386). -/
def interpolate (h : List Int) (d : Nat) (st : FirSt) (xs : List Cplx) : FirSt × List Cplx × Nat :=
  decimate h 1 st (xs.flatMap fun x => x :: List.replicate (d - 1) ⟨0, 0⟩)

/-- Stages in turn: taps and factor of each. -/
def runStages (f : List Int → Nat → FirSt → List Cplx → FirSt × List Cplx × Nat) :
    List (List Int × Nat) → List FirSt → List Cplx → List FirSt × List Cplx × Nat
  | [], _, xs => ([], xs, 0)
  | h :: hs, sts, xs =>
    let r := f h.1 h.2 (sts.headD FirSt.reset) xs
    let t := runStages f hs (sts.drop 1) r.2.1
    (r.1 :: t.1, t.2.1, r.2.2 + t.2.2)

/-- Samples as plain pairs, for the free values of Config. -/
def pairsOf (xs : List Cplx) : List (Int × Int) := xs.map fun x => (x.re, x.im)

/-- The last `n` elements of a list. -/
def lastN {α : Type} (n : Nat) (l : List α) : List α := l.drop (l.length - n)

/-- The halfband filter's taps. -/
def halfTaps : List Int := (List.range 23).map Config.halfband

end Sys2Proof.Machine
end

