-- ==== Sys2Proof/Machine/Dfe.lean ====
section
/-! DEFINITION. The Delta front end (10_delta_front_end.md; 17 R644, R645): configuration memory, start checks, LEMC and
links, AGC, receive and transmit channels, FFT and grid blocks, iFFT, crest-factor reduction, mask checker, chirp receiver. -/
namespace Sys2Proof.Machine

/-- The front end's requester code (13, table "ATU fault record"). -/
@[reducible] def reqDfe : Nat := 0x200

namespace State

/-- Updates the front end. -/
def onDfe (f : Dfe → Dfe) (s : State) : State := { s with dfe := f s.dfe }

/-- `n` bytes of the configuration memory at an offset from 0x50_0000: as written, or of the records in use (`kind` 15 or
16). -/
def cfgBytes (s : State) (kind off : Nat) : Nat → List Byte
  | 0 => []
  | n + 1 => BitVec.ofNat 8 ((s.ctl.arr kind (off / 4)).toNat / 2 ^ (8 * (off % 4))) :: cfgBytes s kind (off + 1) n

/-- A field of the configuration memory as written: `n` bytes at an offset. -/
def cfgField (s : State) (off n : Nat) : Nat := leNat (s.cfgBytes bankCfg off n)

/-- Link, channel and chirp records of the direction, as written (`kind` 15) or in use (16). -/
def linkRec (s : State) (kind : Nat) (tx : Bool) (i : Nat) : LinkRec :=
  linkRecOf (s.cfgBytes kind ((if tx then 0x1040 else 0x1000) + i * 16) 16)
def chanRec (s : State) (kind : Nat) (tx : Bool) (i : Nat) : ChanRec :=
  chanRecOf (s.cfgBytes kind ((if tx then 0x2800 else 0x2000) + i * 32) 32)
def chirpRec (s : State) (i : Nat) : ChirpRec := chirpRecOf (s.cfgBytes bankCfgEff (0x1100 + i * 32) 32)

/-- The valid links of a direction with their numbers. -/
def links (s : State) (kind : Nat) (tx : Bool) : List (Nat × LinkRec) :=
  ((List.range 4).map fun i => (i, s.linkRec kind tx i)).filter fun r => r.2.valid

/-- The valid channels of a direction with their numbers. -/
def chans (s : State) (kind : Nat) (tx : Bool) : List (Nat × ChanRec) :=
  ((List.range 64).map fun i => (i, s.chanRec kind tx i)).filter fun r => r.2.valid

/-- The streams of a direction in order, each with its link and whether it runs at 245.76 MSPS (R365). -/
def streamsOf (s : State) (kind : Nat) (tx : Bool) : List (Nat × Bool) :=
  (s.links kind tx).flatMap fun r => List.replicate r.2.streams (r.1, r.2.half)

/-- Pipelines of the streams in order (R378): a pair of 245.76 MSPS streams shares one. -/
def pipelines : List (Nat × Bool) → Nat → Bool → List Nat
  | [], _, _ => []
  | (_, half) :: t, n, open_ =>
    if half then (if open_ then n :: pipelines t (n + 1) false else n :: pipelines t n true)
    else (if open_ then (n + 1) :: pipelines t (n + 2) false else n :: pipelines t (n + 1) false)

/-- Links inside R364 and R365: lane counts, consecutive lanes that do not overlap, distinct physical lanes, rates. -/
def linksOk (s : State) (tx : Bool) : Bool :=
  let ls := s.links bankCfg tx
  let lanes : List Nat := ls.flatMap fun r => (List.range r.2.laneCount).map fun k => r.2.lane0 + k
  let phys : List Nat := ls.flatMap fun r => (List.range r.2.laneCount).map fun k => r.2.lanes.getD (r.2.lane0 + k) 15
  ls.all (fun r => decide (1 ≤ r.2.streams ∧ r.2.streams ≤ 32 ∧ r.2.lanes64 % 64 = 0 ∧ 1 ≤ r.2.laneCount ∧ r.2.e ≤ 2))
    && decide (lanes.Nodup) && lanes.all (· < 12) && decide (phys.Nodup) && phys.all (· < 12)
    && decide ((s.streamsOf bankCfg tx).length ≤ 32)
    && decide ((ls.map fun r => r.2.streams * (if r.2.half then 1 else 2)).foldl (· + ·) 0 ≤ 32)
    && ls.all (fun r => !tx || decide (r.2.mask ≤ 3))

/-- Why a direction may not start: DFE_CONFIG_BAD or DFE_LATENCY (R393, R645). -/
def dirCheck (s : State) (tx : Bool) : Option Nat :=
  let cs := s.chans bankCfg tx
  let ss := s.streamsOf bankCfg tx
  let pipes := pipelines ss 0 false
  let load (p : Nat) : Nat := (cs.map fun c => if pipes.getD c.2.stream 99 = p then 2 ^ c.2.nfft else 0).foldl (· + ·) 0
  let ok := s.linksOk tx
    && cs.all (fun c => match ss[c.2.stream]? with
        | some x => c.2.ok tx x.2
        | none => false)
    && (List.range 32).all (fun i => decide ((cs.filter fun c => c.2.stream == i).length ≤ 4))
    && pipes.all (fun p => decide (p < 16 ∧ load p ≤ 8192))
  let halfRate (c : ChanRec) : Bool := match ss[c.stream]? with
    | some x => x.2
    | none => false
  let late :=
    if tx then cs.any fun c =>
      decide (6000 < (c.2.delay (halfRate c.2) * 100000 + 98303) / 98304
        + ((load (pipes.getD c.2.stream 99) / 8 + 16) * 100000 + 98303) / 98304 + Config.txFixedPath)
    else (cs.any fun c => decide (600 * 98304 < c.2.delay (halfRate c.2) * 100000))
      || (s.links bankCfg false).any fun r => decide (250 < Config.rxLatency r.2.rbd)
  if !ok then some rcDfeConfig else if late then some rcDfeLatency else none

/-- The records of a direction are taken into use: link, channel and chirp records by their words (R393, R644). -/
def takeRecords (tx : Bool) (s : State) : State :=
  let ranges := if tx then [(0x1040, 16), (0x2800, 512)] else [(0x1000, 16), (0x1100, 64), (0x2000, 512)]
  ranges.foldl (fun (s : State) r => (List.range r.2).foldl (fun (s : State) i =>
    { s with ctl := s.ctl.setArr bankCfgEff (r.1 / 4 + i) (s.ctl.arr bankCfg (r.1 / 4 + i)) }) s) s

/-- A direction starts and waits for SYSREF (R366, R393, R394): its NCO phases are 0 and its filters empty (R373); a transmit start
ends the muting of R391. -/
def startDir (tx : Bool) (s : State) : State :=
  let s := s.takeRecords tx
  let d : DirSt := { DirSt.reset with on := true }
  if tx then
    let s := s.onDfe fun x => { x with tx := d, streams := [], txChans := [] }
    (s.setReg Reg.DFE_TX_MUTED 0).setReg Reg.DFE_LINK_STATUS (s.reg Reg.DFE_LINK_STATUS &&& 0xF)
  else
    let s := s.onDfe fun x => { x with
      rx := d, chirp := [], count := [], place := [], seq := [], rxChans := [], chirpChans := []
      agc := x.agc.map fun a => (a.1, { a.2 with n := 0 }) }
    let lat := ((s.links bankCfgEff false).map fun r => Config.rxLatency r.2.rbd).foldl max 0
    (s.setReg Reg.DFE_RX_LAT (BitVec.ofNat 32 (lat % 65536))).setReg Reg.DFE_LINK_STATUS (s.reg Reg.DFE_LINK_STATUS &&& 0xF00)

/-- A direction stops. -/
def stopDir (tx : Bool) (s : State) : State :=
  if tx then
    (s.onDfe fun x => { x with tx := DirSt.reset }).setReg Reg.DFE_LINK_STATUS (s.reg Reg.DFE_LINK_STATUS &&& 0xF)
  else
    (s.onDfe fun x => { x with rx := DirSt.reset }).setReg Reg.DFE_LINK_STATUS (s.reg Reg.DFE_LINK_STATUS &&& 0xF00)

/-! ## LEMC and links (R366 to R370) -/

/-- DFE.LINK_STATUS shows the links that are up. -/
def showLinks (s : State) : State :=
  let m (l : List Nat) : Nat := (l.map fun i => 2 ^ i).foldl (· + ·) 0
  s.setReg Reg.DFE_LINK_STATUS (BitVec.ofNat 32 (m s.dfe.rx.links + m s.dfe.tx.links * 256))

/-- The multiblocks of the extended multiblock: the largest of the direction's links, whose LEMC grid holds in all. -/
def lemcE (s : State) (tx : Bool) : Nat := ((s.links bankCfgEff tx).map fun r => 2 ^ r.2.e).foldl max 1

/-- The timebase stands within 4 ns of a whole second on the LEMC grid (R367). -/
def onLemc (s : State) (tx : Bool) : Bool :=
  let grid := s.lemcE tx * 3125 * 2 ^ 40
  let x := s.time.sub * 48 % grid
  let tol := 4 * 48 * 2 ^ 40
  decide (x ≤ tol ∨ grid ≤ x + tol)

/-- Radio time in Tc since the start of SFN 0, to the nearest. -/
def radioTc (s : State) : Nat :=
  ((s.time.sfn * frameUnits + s.time.inFrame) * frameTc + frameUnits / 2) / frameUnits % roundTc

/-- A SYSREF edge for a direction. -/
def sysref (tx : Bool) (off : Nat) (s : State) : State :=
  let d := if tx then s.dfe.tx else s.dfe.rx
  let put (d : DirSt) (s : State) : State := s.onDfe fun x => if tx then { x with tx := d } else { x with rx := d }
  let all := (s.links bankCfgEff tx).map (·.1)
  if !d.on then s
  else if !d.aligned then
    let s := s.setReg Reg.DFE_SYSREF_TIME s.ns32
    if s.onLemc tx then (put { d with aligned := true, links := all, edge := s.ns32, t0 := s.radioTc } s).showLinks
    else (put DirSt.reset s).event Reg.DFE_STATUS Ev.DFE_SYSREF_SLIP
  else
    let s := if 1 < off then (s.count Reg.DFE_SYSREF_SLIP_CNT 1).event Reg.DFE_STATUS Ev.DFE_SYSREF_SLIP else s
    if tx then s else (put { d with links := all } s).showLinks

/-- The receive link that a physical lane belongs to. -/
def laneLink (s : State) (lane : Nat) : Option Nat :=
  ((s.links bankCfgEff false).find? fun r =>
    (List.range r.2.laneCount).any fun k => r.2.lanes.getD (r.2.lane0 + k) 15 == lane).map (·.1)

/-- A lane loses lock: its link goes down (R370). -/
def laneLost (lane : Nat) (s : State) : State :=
  match s.laneLink lane with
  | none => s
  | some i =>
    if i ∈ s.dfe.rx.links then
      let s := s.onDfe fun x => { x with rx := { x.rx with links := x.rx.links.filter (· ≠ i) } }
      (s.showLinks.count Reg.DFE_LINK_DROP_CNT 1).event Reg.DFE_STATUS Ev.DFE_LINK_DOWN
    else s

/-! ## Writes of the front end -/

/-- A write of the front end at a local address; one that ends in error sets HOLE (R380; 07 R240). -/
def dfeWrite (a : Nat) (bs : List Byte) (s : State) : State :=
  let w := writeG reqDfe 0 bs.length s (selfAddr a) bs
  if w.2 then w.1 else w.1.event Reg.DFE_STATUS Ev.DFE_HOLE

/-- Receive saturations (R374, R382). -/
def rxSat (n : Nat) (s : State) : State :=
  if n = 0 then s else (s.count Reg.DFE_RX_SAT_CNT n).event Reg.DFE_STATUS Ev.DFE_RX_SAT
def txSat (n : Nat) (s : State) : State :=
  if n = 0 then s else (s.count Reg.DFE_TX_SAT_CNT n).event Reg.DFE_STATUS Ev.DFE_TX_SAT

/-- A multiblock of a lane (R370). -/
def multiblock (lane : Nat) (crcOk : Bool) (s : State) : State :=
  if !s.dfe.rx.aligned || crcOk then s
  else
    let c := s.ctl.arr bankLaneCrc lane
    { s with ctl := s.ctl.setArr bankLaneCrc lane (c + 1) }.event Reg.DFE_STATUS Ev.DFE_LANE_CRC

/-! ## Receive channels and chirp channels (R373, R374, R394) -/

/-- The filter stages of a channel in receive order, with their coefficients. -/
def chanTaps (s : State) (r : ChanRec) : List (List Int × Nat) :=
  let fir (at_ t : Nat) : List Int := (List.range t).map fun m => sext 16 (s.cfgField (0x3000 + (at_ + m) * 2) 2)
  List.replicate r.hb (halfTaps, 2) ++ [(fir r.coef1 r.t1, 2 ^ r.d1), (fir r.coef2 r.t2, 2 ^ r.d2)]

/-- Stream samples pass a receive channel: mixed down, decimated, kept for the FFT windows of two symbols. -/
def feedChan (xs : List Cplx) (s : State) (c : Nat × ChanRec) : State :=
  let t := tget (fun _ => ChanSt.reset) s.dfe.rxChans c.1
  let m := mixAll true c.2.nco t.phase xs
  let f := runStages decimate (s.chanTaps c.2) t.stages m.1
  let t' : ChanSt := ⟨m.2.1, f.1, t.n + f.2.1.length, lastN (2 * 2 ^ c.2.nfft) (t.out ++ f.2.1), []⟩
  (s.rxSat (m.2.2 + f.2.2)).onDfe fun d => { d with rxChans := tset d.rxChans c.1 t' }

/-- A sample of a chirp channel enters its ring, and every fourth one its search (R394, R395). -/
def chirpSample (ch : Nat) (r : ChirpRec) (s : State) (x : Cplx) : State :=
  let c := tget (fun _ => ChirpChan.reset) s.dfe.chirpChans ch
  let line := (x :: c.line).take 64
  let y := Config.chirpFinal (pairsOf line)
  let z := cqSat ⟨y.1, y.2⟩
  let n := tget (fun _ => 0) s.dfe.count ch
  let s := (s.rxSat z.2).dfeWrite (r.ring * 4096 + n % (max 1 r.size * 1024) * 4) (leBytes 4 (cqWord z.1).1.toNat)
  let c := { c with line := line }
  let c := if n % 4 = 0 then { c with m := c.m + 1, fourth := lastN 4096 (c.fourth ++ [z.1]) } else c
  s.onDfe fun d => { d with count := tset d.count ch ((n + 1) % 2 ^ 48), chirpChans := tset d.chirpChans ch c }

/-- Stream samples pass a chirp channel: mixed down, then decimated by 2 in each halfband stage (how the stages share the factor:
DESIGN CHOICE, assumption 89). -/
def feedChirp (half : Bool) (xs : List Cplx) (s : State) (ch : Nat) : State :=
  let r := s.chirpRec ch
  let c := tget (fun _ => ChirpChan.reset) s.dfe.chirpChans ch
  let m := mixAll true r.nco c.phase xs
  let f := runStages decimate (List.replicate (10 - r.bw - if half then 1 else 0) (halfTaps, 2)) c.stages m.1
  let s := (s.rxSat (m.2.2 + f.2.2)).onDfe fun d =>
    { d with chirpChans := tset d.chirpChans ch { c with phase := m.2.1, stages := f.1 } }
  f.2.1.foldl (chirpSample ch r) s

/-- Compensated samples of a stream go to its channels. -/
def feedStream (stream : Nat) (half : Bool) (xs : List Cplx) (s : State) : State :=
  let s := ((s.chans bankCfgEff false).filter fun c => c.2.stream == stream).foldl (feedChan xs) s
  ((List.range 8).filter fun ch => (s.chirpRec ch).valid && (s.chirpRec ch).source == stream).foldl (feedChirp half xs) s

/-! ## AGC (R381 to R384, R397, R398) -/

/-- The AGC of a stream. -/
def agcOf (s : State) (i : Nat) : AgcSt := tget (fun _ => AgcSt.reset) s.dfe.agc i

/-- A chirp channel that the stream feeds is in hold-off (R383). -/
def inHoldoff (s : State) (stream : Nat) : Bool :=
  (List.range 8).any fun ch => let r := s.chirpRec ch
    r.valid && r.source == stream
      && (List.range 8).any fun f => decide (0 < (tget (fun _ => ChirpSt.reset) s.dfe.chirp (ch * 8 + f)).hold)

/-- Multiplies a block's samples by their compensation: the index and changes left, the samples, and the saturations (R382). -/
def compensate (comp : Nat → Nat) : List (Int × Int × Bool) → Nat × List (Nat × Nat) → List Cplx × Nat →
    (Nat × List (Nat × Nat)) × List Cplx × Nat
  | [], a, r => (a, r)
  | x :: t, (att, q), r =>
    let due := q.filter fun c => c.1 == 0
    let att := match due.getLast? with
      | some c => c.2
      | none => att
    let q := (q.filter fun c => c.1 != 0).map fun c => (c.1 - 1, c.2)
    let y := cqSat ⟨x.1 * comp att / 1024, x.2.1 * comp att / 1024⟩
    compensate comp t (att, q) (r.1 ++ [y.1], r.2 + y.2)

/-- The decision of a block (R381): the index and the quiet blocks after it. -/
def agcDecide (cfg high low : Nat) (block : List (Int × Int × Bool)) (att below : Nat) : Nat × Nat :=
  let p := ((block.map fun (x : Int × Int × Bool) => x.1 * x.1 + x.2.1 * x.2.1).foldl (· + ·) 0 / 64).toNat
  let clips := (block.filter fun x => x.2.2 || decide (32512 ≤ x.1.natAbs ∨ 32512 ≤ x.2.1.natAbs)).length
  let attMax := bits cfg 27 22
  let attMin := min attMax (bits cfg 21 16)
  if max 1 (bits cfg 3 0) ≤ clips then (min (att + max 1 (bits cfg 7 4)) attMax, 0)
  else if high < p then (min (att + 1) attMax, 0)
  else if p < low then
    (if max 1 (bits cfg 15 8) ≤ below + 1 then (max (att - 1) attMin, 0) else (att, below + 1))
  else (att, 0)

/-- Stream samples of the receive direction before sample `n` as radio time at the antenna, in Tc (R370). -/
def antennaTc (s : State) (half : Bool) (n : Nat) : Nat :=
  (s.dfe.rx.t0 + n * streamTc half + roundTc - (s.reg Reg.DFE_RX_OFFSET).toNat % 65536 * 196608 / 100000) % roundTc

/-- The block after that of sample `n` is the first one at or after the start of a cyclic prefix of the stream's lowest-numbered
carrier channel (R384); without such a channel nothing is waited for (DESIGN CHOICE, assumption 89). -/
def cpStarts (s : State) (stream : Nat) (half : Bool) (n : Nat) : Bool :=
  match (s.chans bankCfgEff false).find? fun c => c.2.stream == stream with
  | some c => symAtTc c.2.mu (s.antennaTc half n) != symAtTc c.2.mu (s.antennaTc half (n + 64))
  | none => true

/-- A block of 64 samples of a receive stream: the AGC decides on the raw samples, and the compensated ones pass the channels; a
link that is down delivers zero samples (R370). -/
def agc (stream : Nat) (block : List (Int × Int × Bool)) (s : State) : State :=
  if !s.dfe.rx.aligned then s
  else
    let a := s.agcOf stream
    let x := (s.streamsOf bankCfgEff false).getD stream (9, false)
    let up := decide (x.1 ∈ s.dfe.rx.links)
    let block := if up then block else block.map fun _ => (0, 0, false)
    let c := compensate (fun att => s.cfgField (0xB000 + (stream * 64 + att) * 2) 2) block (a.comp, a.queue) ([], 0)
    let s := s.rxSat c.2.2
    let cfg := a.cfg.toNat
    let en := bitOf cfg 31
    let frozen := a.freeze || !up || (bitOf cfg 30 && s.inHoldoff stream)
    let d := agcDecide cfg a.high.toNat a.low.toNat block a.att a.below
    let d := if !en then (a.att, a.below) else if frozen then (a.att, 0) else d
    let strobe := en && !frozen && d.1 != a.sent && (!bitOf cfg 29 || s.cpStarts stream x.2 a.n)
    let wait := stream / 4 * (if x.2 then 8 else 16) + a.delay
    let s := if strobe then s.emit (.agc (stream % 4) d.1 (stream / 4)) else s
    let fz := bitOf (s.reg Reg.DFE_AGC_FREEZE).toNat stream
    let a' : AgcSt :=
      { att := d.1, below := d.2, sent := if strobe then d.1 else a.sent, comp := c.1.1,
        queue := if strobe then c.1.2 ++ [(wait, d.1)] else c.1.2, n := a.n + block.length, cfg := s.reg Reg.DFE_AGC_CFG,
        high := s.reg Reg.DFE_AGC_HIGH, low := s.reg Reg.DFE_AGC_LOW, freeze := fz,
        delay := bits (s.reg Reg.DFE_AGC_DELAY).toNat 7 0 }
    (s.onDfe fun y => { y with agc := tset y.agc stream a' }).feedStream stream x.2 c.2.1

/-! ## FFT and iFFT (R376 to R380, R385, R386) -/

/-- The F0 factor of a symbol of a channel. -/
def f0Of (s : State) (r : ChanRec) (y : SymId) : Cplx :=
  cqPair (BitVec.ofNat 32 (s.cfgField (0x7000 + (r.f0 + symInSubframe r.mu y) * 4) 4))

/-- Writes one word of a grid block, and of its mirror while GRID_MIRROR is set (R60, R61, R380). -/
def gridWord (mu cluster p off : Nat) (y : SymId) (w : Word) (s : State) : State :=
  let bs := leBytes 4 w.toNat
  let s := s.dfeWrite (gridAddr cluster p y + off) bs
  if s.mirrorOn cluster mu y then (s.gridMirrored mu y).dfeWrite (s.mirrorAddr cluster p y + off) bs else s

/-- The FFT window of a symbol among a receive channel's samples, once the last has come (R376): the sample times of R370, less the
antenna delay and the channel's filter delay (assumption 89). -/
def fftWindow (s : State) (ch : Nat) (r : ChanRec) (y : SymId) : Option (List Cplx) :=
  let half := ((s.streamsOf bankCfgEff false).getD r.stream (9, false)).2
  let t := tget (fun _ => ChanSt.reset) s.dfe.rxChans ch
  let off := (s.reg Reg.DFE_RX_OFFSET).toNat % 65536 * 196608 / 100000 + 2 * r.delay half
  let round := roundTc / r.tc
  let first := (symTc r.mu y + off + roundTc - s.dfe.rx.t0) % roundTc / r.tc + cpLen r.mu r.nfft (symInSubframe r.mu y) - r.cut
  let at_ := (first + round - (t.n - t.out.length) % round) % round
  if at_ + 2 ^ r.nfft ≤ t.out.length then some ((t.out.drop at_).take (2 ^ r.nfft)) else none

/-- A pipeline drains a symbol of a receive channel into the grid blocks of its positions, padding places as zero (R60; 02
R46). -/
def drain (ch : Nat) (y : SymId) (s : State) : State :=
  let r := s.chanRec bankCfgEff false ch
  match s.carrierOf r.carrier, s.fftWindow ch r y with
  | none, _ => s
  | _, none => s
  | some c, some window =>
    if !(s.dfe.rx.aligned && r.valid) then s
    else
      let n := 2 ^ r.nfft
      let bins := fft false r.nfft window
      let bins : List Cplx := if r.cut = 0 then bins else bins.zipIdx.map fun b => cmul15 b.1 (twid true r.nfft (b.2 * r.cut))
      let f := s.f0Of r y
      let ants := s.gridAnts c
      let value (k : Nat) : Cplx × Nat :=
        let b : Cplx := bins.getD ((k + r.k0) % n) ⟨0, 0⟩
        let d : Int := (2 ^ (15 + r.shift) : Nat)
        cqSat ⟨(b.re * f.re - b.im * f.im) / d, (b.re * f.im + b.im * f.re) / d⟩
      (rxSpots c).foldl (fun (s : State) p =>
        let sp := posSpan c.group (12 * c.nrb) p.1 p.2.1
        (List.range 256).foldl (fun (s : State) i =>
          let v := if i < sp.2 then value (sp.1 + i) else (⟨0, 0⟩, 0)
          (s.rxSat v.2).gridWord c.mu.val p.2.2.cluster.val p.2.2.block.val ((i * ants + r.ant) * 4) y (cqWord v.1).1) s) s

/-- A word of the transmit grid as a reader of the front end or the compressor meets it, by its global address (01 R18): what
does not answer reads as zero. -/
def txWord (s : State) (a : Nat) : Word :=
  match (s.place (selfAddr a)).1 with
  | .mem x => BitVec.ofNat 32 (leNat (readBytes s.mem x 4))
  | _ => 0

/-- The samples of a symbol on a transmit channel: cyclic prefix and body, and the saturations (R386). -/
def bodyOf (s : State) (r : ChanRec) (y : SymId) (c : CarrierRec) : List Cplx × Nat :=
  let n := 2 ^ r.nfft
  let f := s.f0Of r y
  let bin (k : Nat) : Cplx :=
    let i := (k + n - r.k0 % n) % n
    if i < 12 * r.nrb then
      match txSample c y i r.ant with
      | some a => cmul15 (cqPair (s.txWord a)) f
      | none => ⟨0, 0⟩
    else ⟨0, 0⟩
  let d : Int := (2 ^ r.shift : Nat)
  let body := (fft true r.nfft ((List.range n).map bin)).map fun x => cqSat ⟨x.re / d, x.im / d⟩
  let xs := body.map (·.1)
  (xs.drop (n - cpLen r.mu r.nfft (symInSubframe r.mu y)) ++ xs, (body.map (·.2)).foldl (· + ·) 0)

/-- A transmit stream. -/
def txStream (s : State) (i : Nat) : TxStream := tget (fun _ => TxStream.reset) s.dfe.streams i

/-- Replaces a transmit stream. -/
def setTxStream (i : Nat) (x : TxStream) (s : State) : State := s.onDfe fun d => { d with streams := tset d.streams i x }

/-- The place of a symbol's first sample in a transmit stream that has summed `n` samples: A_s, which repeats every 1,024 frames, at
its occurrence next to the present. -/
def symPlace (s : State) (half : Bool) (mu n : Nat) (y : SymId) : Nat :=
  let round := roundTc / streamTc half
  let d := ((symTc mu y + roundTc - s.dfe.tx.t0) % roundTc / streamTc half + round - n % round) % round
  if d < round / 2 then n + d else n + d - round

/-- The samples of a symbol pass a transmit channel: interpolated in FIR2, FIR1 and the halfbands, mixed up, and due at the pins from
A_s on (R386, R387). A symbol that does not follow the one before finds empty filters; the filters' delay is taken off
(DESIGN CHOICE, assumption 89). -/
def sendChan (xs : List Cplx) (y : SymId) (s : State) (c : Nat × ChanRec) : State :=
  let half := ((s.streamsOf bankCfgEff true).getD c.2.stream (9, false)).2
  let t := tget (fun _ => ChanSt.reset) s.dfe.txChans c.1
  let delay := 2 * c.2.delay half / streamTc half
  let at_ := s.symPlace half c.2.mu (s.txStream c.2.stream).n y
  let f := runStages interpolate (s.chanTaps c.2).reverse (if t.n = at_ then t.stages else []) xs
  let m := mixAll false c.2.nco (at_ * c.2.nco % 2 ^ 32) f.2.1
  let t' : ChanSt := ⟨m.2.1, f.1, at_ + f.2.1.length, [], t.bursts ++ [(at_ - delay, m.1)]⟩
  (s.txSat (f.2.2 + m.2.2)).onDfe fun d => { d with txChans := tset d.txChans c.1 t' }

/-- The last tick has passed A_s - 6,000 ns of a symbol (R385). -/
def ifftDue (s : State) (mu : Nat) (y : SymId) : Bool := s.leadDue (symStart mu y) (6000 * 2 ^ 40)

/-- The iFFTs of a carrier's transmit channels start (R385, R386; 01 R38). -/
def ifft (carrier : Nat) (y : SymId) (s : State) : State :=
  match s.carrierOf carrier with
  | none => s
  | some r =>
    if !s.dfe.tx.aligned || !s.ifftDue r.mu.val y || !s.downOn 6000 then s else
    let handed := s.symHanded carrier y
    let s := if handed then s else s.symLate carrier y
    let s := ((s.chans bankCfgEff true).filter fun c => c.2.carrier == carrier).foldl (fun (s : State) c =>
      let b := s.bodyOf c.2 y r
      let xs := if handed then b.1 else b.1.map fun _ => ⟨0, 0⟩
      (((if handed then s.txSat b.2 else s).emit (.burst c.1 y xs)).sendChan xs y c)) s
    s

/-! ## Crest-factor reduction and mask checker (R388 to R391) -/

/-- |x|². -/
def power (c : Cplx) : Nat := (c.re * c.re + c.im * c.im).toNat

/-- Inserts a peak in descending |x|², after equal ones. -/
def insertPeak (i p : Nat) : List (Nat × Nat) → List (Nat × Nat)
  | [] => [(i, p)]
  | (j, q) :: t => if q < p then (i, p) :: (j, q) :: t else (j, q) :: insertPeak i p t

/-- The peaks of the middle block of three (R388): up to four local maxima of |x|² above T². A sample is a maximum where
it exceeds the one before and is not below the one after (DEDUCED, assumption 22). -/
def peaks (t : Nat) (xs : List Cplx) : List Nat :=
  let at_ (i : Nat) : Nat := power (xs.getD i ⟨0, 0⟩)
  (((List.range 64).foldl (fun (l : List (Nat × Nat)) i =>
    let n := 64 + i
    let p := at_ n
    if t * t < p ∧ at_ (n - 1) < p ∧ at_ (n + 1) ≤ p then insertPeak n p l else l) []).take 4).map (·.1)

/-- The gain g = 1 - T / |x| of a peak with |x|² = `p`, narrowed once to FP32 (R388, R234): g ≥ d is T² ≤ (1 - d)² p. -/
def cfrGain (t p : Nat) : Word :=
  let ge (d : Dy) : Bool :=
    let r := (⟨1, 0⟩ : Dy).add d.neg
    decide (0 ≤ r.m) && (⟨(t * t : Nat), 0⟩ : Dy).le ((r.mul r).mul ⟨p, 0⟩)
  BitVec.ofNat 32 ((truncReal ge).getD 0)

/-- Subtracts g x[n0] p[n - n0] around a peak; the saturations. -/
def cancel (tap : Nat → Int) (t : Nat) (xs : List Cplx) (a : List Cplx × Nat) (n0 : Nat) : List Cplx × Nat :=
  let x := xs.getD n0 ⟨0, 0⟩
  let g := (laneFp (cfrGain t (power x))).1
  let sub (v c : Int) (m : Nat) : Int := v - Dy.toInt false ((g.mul ⟨c * tap m, 0⟩).mul ⟨1, -15⟩)
  let ys : List (Cplx × Nat) := a.1.zipIdx.map fun (y : Cplx × Nat) =>
    if n0 ≤ y.2 + 47 ∧ y.2 < n0 + 49 then
      cqSat ⟨sub y.1.re x.re (y.2 + 47 - n0), sub y.1.im x.im (y.2 + 47 - n0)⟩
    else (y.1, 0)
  (ys.map (·.1), a.2 + (ys.map (·.2)).foldl (· + ·) 0)

/-- One stage takes a block and gives the block before last: output, stage, peaks cancelled, saturations. -/
def cfrStage (tap : Nat → Int) (t : Nat) (c : CfrSt) (b : List Cplx) : List Cplx × CfrSt × Nat × Nat :=
  let xs := c.xs ++ b
  let ps := if t = 0 then [] else peaks t xs
  let r := ps.foldl (cancel tap t xs) (c.ys ++ b, 0)
  (r.1.take 64, ⟨xs.drop 64, r.1.drop 64⟩, ps.length, r.2)

/-- A stream is muted (DFE.TX_MUTED). -/
def muted (s : State) (i : Nat) : Bool := bitOf (s.reg Reg.DFE_TX_MUTED).toNat i

/-- Sample `i` of a channel's stream samples: zero where no symbol is sent. -/
def burstAt (c : ChanSt) (i : Nat) : Cplx := match c.bursts.find? fun b => decide (b.1 ≤ i ∧ i < b.1 + b.2.length) with
  | some b => b.2.getD (i - b.1) ⟨0, 0⟩
  | none => ⟨0, 0⟩

/-- The next 64 samples of a stream: its channels summed in ascending order, saturating (R386); the saturations. -/
def streamBlock (s : State) (stream : Nat) : List Cplx × Nat :=
  let x := s.txStream stream
  let cs := ((s.chans bankCfgEff true).filter fun c => c.2.stream == stream).map fun c =>
    tget (fun _ => ChanSt.reset) s.dfe.txChans c.1
  (List.range 64).foldl (fun (a : List Cplx × Nat) i =>
    let y := cs.foldl (fun (v : Cplx × Nat) c => let w := cqSat (cplus v.1 (burstAt c (x.n + i))); (w.1, v.2 + w.2)) (⟨0, 0⟩, 0)
    (a.1 ++ [y.1], a.2 + y.2)) ([], 0)

/-- Stream samples that have been summed leave their channels' bursts. -/
def dropBursts (stream : Nat) (s : State) : State :=
  let n := (s.txStream stream).n
  ((s.chans bankCfgEff true).filter fun c => c.2.stream == stream).foldl (fun (s : State) c =>
    let t := tget (fun _ => ChanSt.reset) s.dfe.txChans c.1
    s.onDfe fun d => { d with
      txChans := tset d.txChans c.1 { t with bursts := t.bursts.filter fun b => decide (n < b.1 + b.2.length) } }) s

/-- The mask checker takes samples at the pins' order into its window of 256, whose bin powers it sums in FP32 until an average is
complete (R389). -/
def maskTake (avg : Nat) (x : TxStream) (out : List Cplx) : TxStream :=
  let win := x.win ++ out
  if win.length < 256 then { x with win := win }
  else
    let p := Config.maskPower (pairsOf (win.take 256))
    let sum (k : Nat) : Word := BitVec.ofNat 32 (fp32Of false false ((laneFp (x.sums.getD k 0)).1.add (laneFp (p.getD k 0)).1)).1.toNat
    if avg < x.wins + 1 then { x with win := win.drop 256 }
    else { x with win := win.drop 256, sums := (List.range 256).map sum, wins := x.wins + 1 }

/-- The next block of 64 samples of a transmit stream passes both stages; a muted stream sends zero codes. -/
def cfr (stream : Nat) (s : State) : State :=
  if !s.dfe.tx.aligned then s else
  let x := s.txStream stream
  let block := s.streamBlock stream
  let tap (m : Nat) : Int := sext 16 (s.cfgField (0x1200 + m * 2) 2)
  let a := cfrStage tap x.t x.s1 block.1
  let b := cfrStage tap x.t x.s2 a.1
  let out := if s.muted stream then List.replicate 64 ⟨0, 0⟩ else b.1
  let avg := bits (s.reg Reg.DFE_MASK_CFG).toNat 5 0 + 1
  let s := (s.setTxStream stream (maskTake avg { x with s1 := a.2.1, s2 := b.2.1, n := x.n + 64 } out)).dropBursts stream
  let n := a.2.2.1 + b.2.2.1
  let s := (if n = 0 then s else s.count Reg.DFE_CFR_CNT n).txSat (block.2 + a.2.2.2 + b.2.2.2)
  s.emit (.samples stream out)

/-- An average of the mask checker: AVG + 1 windows of bin powers summed in FP32 (R389, R390). -/
def maskCheck (stream : Nat) (s : State) : State :=
  let cfg := (s.reg Reg.DFE_MASK_CFG).toNat
  let x := s.txStream stream
  if !s.dfe.tx.aligned || decide (x.wins < bits cfg 5 0 + 1) then s
  else
    let s := s.setTxStream stream { x with sums := [], wins := 0 }
    if !bitOf cfg 31 then s else
    let link := ((s.streamsOf bankCfgEff true).getD stream (0, false)).1
    let table := (s.linkRec bankCfgEff true link).mask
    let bad := !s.muted stream && (List.range 256).any fun k =>
      (laneFp (BitVec.ofNat 32 (s.cfgField (0xC000 + (table * 256 + k) * 4) 4))).1.lt (laneFp (x.sums.getD k 0)).1
    let x := s.txStream stream
    if bad then
      let s := s.count Reg.DFE_MASK_VIOL_CNT 1
      let s := s.setTxStream stream { x with viol := x.viol + 1 }
      if max 1 (bits cfg 11 8) ≤ x.viol + 1 then
        (s.setReg Reg.DFE_TX_MUTED (s.reg Reg.DFE_TX_MUTED ||| BitVec.ofNat 32 (2 ^ stream))).event Reg.DFE_STATUS Ev.DFE_MASK_MUTE
      else s
    else s.setTxStream stream { x with viol := 0 }

/-- CFR_THRESH takes effect at a symbol boundary of numerology `mu`, on the streams whose lowest-numbered transmit channel
has it (R397). -/
def takeThresh (mu : Nat) (s : State) : State :=
  if !s.leadDue (symStart mu (s.time.symNow mu)) 0 then s else
  let cs := s.chans bankCfgEff true
  (List.range 32).foldl (fun (s : State) i =>
    match cs.find? fun c => c.2.stream == i with
    | some c =>
      if c.2.mu = mu then s.setTxStream i { s.txStream i with t := bits (s.reg Reg.DFE_CFR_THRESH).toNat 15 0 } else s
    | none => s) s

/-! ## Chirp receiver (R394 to R396) -/

/-- The bin of the largest power, the lowest of equal ones, with its power. -/
def largestBin (bins : List Word) : Nat × Word :=
  bins.zipIdx.foldl (fun (a : Nat × Word) x => if (laneFp a.2).1.lt (laneFp x.1).1 then (x.2, x.1) else a) (0, bins.getD 0 0)

/-- The peak-to-mean test of a window: bin, peak, mean, hit (R395). -/
def chirpTest (sf thresh : Nat) (bins : List Word) : Nat × Word × Word × Bool :=
  let b := largestBin bins
  let p := (laneFp b.2).1
  let rest := (Dy.sum (bins.map fun w => (laneFp w).1)).add p.neg
  let m := if rest.m = 0 then (0 : Word) else (fp32Of false false (dyDiv rest ⟨(2 ^ sf - 1 : Nat), 0⟩)).1
  let lim := (laneFp (fp32Of false false ((e5m3 thresh).mul (laneFp m).1)).1).1
  (b.1, b.2, m, lim.le p)

/-- TIME.NS32 of a channel sample: the aligning SYSREF edge plus the sample's place at 4 x 120 kHz x 2^BW (DEDUCED,
assumption 23). -/
def chirpTime (s : State) (bw n : Nat) : Word :=
  s.dfe.rx.edge + BitVec.ofNat 32 (n * 1000000 / (480 * 2 ^ bw))

/-- Window `w` of a chirp channel for a spreading factor: 2^SF samples taken at every fourth channel sample, once they have come. -/
def chirpWindow (s : State) (ch sf w : Nat) : Option (List Cplx) :=
  let c := tget (fun _ => ChirpChan.reset) s.dfe.chirpChans ch
  let first := c.m - c.fourth.length
  if first ≤ w * 2 ^ sf ∧ (w + 1) * 2 ^ sf ≤ c.m then some ((c.fourth.drop (w * 2 ^ sf - first)).take (2 ^ sf)) else none

/-- The next window of a chirp channel for spreading factor 5 + `f`. -/
def chirp (ch f : Nat) (s : State) : State :=
  let r := s.chirpRec ch
  let sf := f + 5
  let c := tget (fun _ => ChirpSt.reset) s.dfe.chirp (ch * 8 + f)
  match s.chirpWindow ch sf c.win with
  | none => s
  | some xs =>
    if !(s.dfe.rx.aligned && r.valid && bitOf r.sfMask f) then s else
    let bins := (List.range (2 ^ sf)).map fun k => (Config.chirpPower sf (pairsOf xs)).getD k 0
    let t := chirpTest sf r.thresh bins
    let n := 2 ^ sf
    let near := decide (min ((t.1 + n - c.binPrev) % n) ((c.binPrev + n - t.1) % n) ≤ 1)
    let run := if t.2.2.2 then (if near && c.hitPrev then c.run + 1 else 1) else 0
    let detect := run == r.preMin && c.hold == 0
    let c' : ChirpSt := ⟨run, t.2.2.2, t.1, if detect then r.holdoff else c.hold - 1, c.win + 1⟩
    let s := s.onDfe fun d => { d with chirp := tset d.chirp (ch * 8 + f) c' }
    if detect then
      let first := (c.win + 1 - run) * 4 * n % 2 ^ 48
      let place := tget (fun _ => 0) s.dfe.place ch
      let seq := tget (fun _ => 0) s.dfe.seq ch
      let e := leBytes 6 first ++ [BitVec.ofNat 8 ch, BitVec.ofNat 8 sf] ++ leBytes 2 t.1 ++ [BitVec.ofNat 8 r.preMin, 0]
        ++ leBytes 4 (s.chirpTime r.bw first).toNat ++ leBytes 4 t.2.1.toNat ++ leBytes 4 t.2.2.1.toNat ++ leBytes 2 seq
        ++ List.replicate 6 0
      let w := writeG reqDfe 0 32 s (r.desc + place * 32) e
      let s := if w.2 then w.1 else w.1.event Reg.DFE_STATUS Ev.DFE_HOLE
      let s := s.onDfe fun d => { d with
        place := tset d.place ch ((place + 1) % max 1 r.descN)
        seq := tset d.seq ch ((seq + 1) % 65536) }
      (s.count Reg.DFE_CSS_DET_CNT 1).event Reg.DFE_STATUS Ev.DFE_CSS_DET
    else s

end State

/-! ## The commands -/

/-- SYSREF_EDGE (R366 to R368): `offCycles` is the edge's distance from the LEMC grid in 983.04 MHz cycles. -/
def execSysrefEdge (tx : Bool) (offCycles : Nat) (s : State) : Host.Outcome State Fault Refusal := s.run (State.sysref tx offCycles)

/-- RX_MULTIBLOCK (R370). -/
def execRxMultiblock (lane : Fin 12) (crcOk : Bool) (s : State) : Host.Outcome State Fault Refusal :=
  s.run (State.multiblock lane.val crcOk)

/-- LANE_SYNC_LOSS (R370). -/
def execLaneSyncLoss (lane : Fin 12) (s : State) : Host.Outcome State Fault Refusal := s.run (State.laneLost lane.val)

/-- AGC_BLOCK (R381): the block's raw samples with their over-range indicators. -/
def execAgcBlock (stream : Fin 32) (block : List (Int × Int × Bool)) (s : State) : Host.Outcome State Fault Refusal :=
  s.run (State.agc stream.val block)

/-- FFT_DRAIN (R377 to R380). -/
def execFftDrain (channel : Fin 64) (sym : SymId) (s : State) : Host.Outcome State Fault Refusal := s.run (State.drain channel.val sym)

/-- IFFT_START (R385, R386). -/
def execIfftStart (carrier : Fin 16) (sym : SymId) (s : State) : Host.Outcome State Fault Refusal := s.run (State.ifft carrier.val sym)

/-- CFR_BLOCK (R388); in the spillway state the stream sends zero codes (R392). -/
def execCfrBlock (stream : Fin 32) (s : State) : Host.Outcome State Fault Refusal :=
  s.runAny fun s =>
    if s.awake then (State.cfr stream.val s).settle
    else if s.mode == .spill && s.dfe.tx.on then s.emit (.samples stream.val (List.replicate 64 ⟨0, 0⟩)) else s

/-- MASK_AVERAGE (R389). -/
def execMaskAverage (stream : Fin 32) (s : State) : Host.Outcome State Fault Refusal := s.run (State.maskCheck stream.val)

/-- CHIRP_WINDOW (R395). -/
def execChirpWindow (channel : Fin 8) (sf : Fin 8) (s : State) : Host.Outcome State Fault Refusal :=
  s.run (State.chirp channel.val sf.val)

/-- SYMBOL_BOUNDARY (R397). -/
def execSymbolBoundary (mu : Fin 4) (s : State) : Host.Outcome State Fault Refusal := s.run (State.takeThresh mu.val)

end Sys2Proof.Machine
end

