-- ==== Sys2Proof/Machine/Budget.lean ====
section
/-! DEFINITION. Activity budgets (14 R534 to R541): used counts, allowances in force, the grant rule. Unit kinds: 0 core,
1 pool bank (16 c + b), 2 DRAM channel pair, 3 Weir engine (6 q + e), 4 LDPC encoder. -/
namespace Sys2Proof.Machine

/-- Unit-cycles of a period: core cycles, and cycles of the network clock (14 R534). -/
def periodOf (kind : Nat) : Nat := if kind = 0 then 184320 else 122880

/-- Units of a kind (14 R534). -/
def unitsOf (kind : Nat) : Nat := if kind = 0 then 52 else if kind = 1 then 64 else if kind = 2 then 8 else if kind = 3 then 24 else 8

/-- The default budgets, activities 1 to 5 of kinds 0 to 4: MIN, MAX (14, table "Default budgets"). -/
def defaultBudgets : List (List (Nat × Nat)) :=
  [[(0, 92160), (0, 18432), (0, 0), (0, 1843), (0, 0)],
   [(0, 30720), (0, 1024), (512, 1024), (0, 256), (0, 256)],
   [(0, 30720), (0, 1024), (1024, 2048), (0, 1024), (0, 1024)],
   [(0, 0), (0, 12288), (0, 0), (0, 0), (0, 0)],
   [(0, 61440), (0, 12288), (0, 0), (0, 0), (0, 0)]]

namespace State

/-- Counts a grant to its activity (R537). -/
def charge (kind unit a n : Nat) (s : State) : State :=
  { s with sched := { s.sched with used := tput (fun _ => 0) s.sched.used (usedKey kind unit a) (s.used kind unit a + n) } }

/-- The minima still owed to the background on a unit (R537). -/
def owed (s : State) (kind unit : Nat) : Nat :=
  ([1, 2, 3, 4, 5].map fun a => s.minOf kind a - s.used kind unit a).foldl (· + ·) 0

/-- A background request is refused until the next period (R538). -/
def bgDeny (s : State) : State := (s.count Reg.SCHED_BG_DENY_CNT 1).event Reg.SCHED_STATUS Ev.SCHED_BG_DENY

/-- Channel index, from 0 to C - 1, and channel offset of a DRAM address (07 R248). -/
def chanOf (s : State) (a : Nat) : Nat × Nat :=
  let c := 2 * s.dramPairs.length
  ((a / 256 ^^^ (a / 256 / 4096)) % c, a / 256 / c * 256 + a % 256)

/-- The physical channel and the channel pair in use that hold a DRAM address (07 R249). -/
def physChan (s : State) (a : Nat) : Nat := let j := (s.chanOf a).1; 2 * s.dramPairs.getD (j / 2) 0 + j % 2
def pairOf (s : State) (a : Nat) : Nat := s.physChan a / 2

/-- Cycles of channel pair `p` that `n` bytes at a DRAM address take, 32 bytes a cycle (07 R255). -/
def pairCycles (s : State) (p a n : Nat) : Nat :=
  8 * ((List.range ((a % 256 + n + 255) / 256)).filter fun i => s.pairOf (a / 256 * 256 + i * 256) == p).length

/-- Charges a background activity's DRAM access to its pairs; none where one has no allowance left (R36; R537, R539). -/
def chargeDram (a n act : Nat) (s : State) : Option State :=
  if s.dramPairs.all fun p => s.allowed 2 p act (s.pairCycles p a n) then
    some (s.dramPairs.foldl (fun (s : State) p => s.charge 2 p act (s.pairCycles p a n)) s)
  else none

/-- Charges a background activity's access to local memory to the DRAM pairs or the pool bank that hold it (R535, R537); none
where one has no allowance left. -/
def chargeMem (a n act : Nat) (s : State) : Option State :=
  if a < 0x001000000000 then s.chargeDram a n act
  else
    let b := 16 * ((a - 0x100000000000) / 0x1000000) + a % 0x1000000 / 0xC0000
    if s.allowed 1 b act ((n + 63) / 64) then some (s.charge 1 b act ((n + 63) / 64)) else none

/-- Copies the budget arrays into force (R541). -/
def takeBudgets (s : State) : State :=
  let b := (List.range 5).foldl (fun (t : Tab Nat) kind => [1, 2, 3, 4, 5].foldl (fun (t : Tab Nat) a =>
    let i := a + kind * 16
    tput (fun _ => 0) (tput (fun _ => 0) t (budgetKey kind a) (s.ctl.arr bankMin i).toNat) (budgetKey kind a + 1)
      (s.ctl.arr bankMax i).toNat) t) s.sched.budget
  { s with sched := { s.sched with budget := b } }

/-- Wellhead writes the default budgets at boot (R541). -/
def bootBudgets (s : State) : State :=
  let s := defaultBudgets.zipIdx.foldl (fun (s : State) k => k.1.zipIdx.foldl (fun (s : State) a =>
    let i := a.2 + 1 + k.2 * 16
    { s with ctl := (s.ctl.setArr bankMin i (BitVec.ofNat 32 a.1.1)).setArr bankMax i (BitVec.ofNat 32 a.1.2) }) s) s
  s.takeBudgets

end State

end Sys2Proof.Machine
end

