-- ==== Sys2Proof/Machine/Rx.lean ====
section
/-! DEFINITION. The learned uplink receiver (02_receiver_pipeline.md R44 to R81; 01 R39 to R42; 15 R569 to R571): DMRS
occasions, stages of a reach, confidence monitor, fallback and replay slots, LLR segments, model images. -/
namespace Sys2Proof.Machine

/-- FLAGS of a segment descriptor (R67). -/
@[reducible] def sgFALLBACK : Nat := 1
@[reducible] def sgZEROED : Nat := 2
@[reducible] def sgRERUN : Nat := 4
@[reducible] def sgSKIPPED : Nat := 8
@[reducible] def sgLATE : Nat := 16
@[reducible] def sgMISSING : Nat := 32

/-- A segment fails the monitor's test (R72). -/
def weakSegment (img : ModelImg) (minJudged : Nat) (g : Segment) : Bool :=
  let ls := g.llrs.map fun l => llr6 l.toNat
  let n := ls.length
  let mag := (ls.map fun l => min l.natAbs 31).foldl (· + ·) 0
  let low := (ls.filter fun l => decide (l.natAbs ≤ 1)).length
  decide (minJudged * 16 ≤ n) && (decide (mag * 8 < (img.magMin.getD (g.qm - 1) 0).toNat * n)
    || decide ((img.zeroMax.getD (g.qm - 1) 0).toNat * n < low * 256))

/-- The segment as zero LLRs. -/
def zeroSegment (g : Segment) : Segment := { g with llrs := g.llrs.map fun _ => 0 }

/-- Replay slots of a checking level for N learned reaches (15 R569). -/
def replaySlots (level n : Nat) : Nat := if level = 50 then n else if level = 25 then (n + 3) / 4 else if level = 6 then 1 else 0

/-- A reach is replayed (15 R570): among the r consecutive indices modulo N from h mod N. -/
def isReplayed (level n k h : Nat) : Bool :=
  level == 50 || (n != 0 && decide ((k + n - h % n) % n < replaySlots level n))

/-- Complex INT32 sums as the bytes of a landing buffer, and back. -/
def sumBytes (xs : List Int) : List Byte := xs.flatMap fun x => leBytes 4 (wrapN 32 x)
def sumsOf (n : Nat) (bs : List Byte) : List Int := (List.range n).map fun i => sext 32 (fieldAt bs (i * 4) 4)

/-- Partial sums added one by one in INT32 with saturation (01 R40; 05 R205). -/
def addSums (parts : List (List Int)) : List Int :=
  match parts with
  | [] => []
  | a :: rest => rest.foldl (fun acc b => (acc.zip b).map fun x => (clampS 32 (x.1 + x.2)).1) a

/-- INT32 words of a matched-filter buffer and of a Gram buffer (R64). -/
@[reducible] def mfWords : Nat := 16 * 256 * 2
@[reducible] def gramWords : Nat := 16 * 136 * 2

namespace State

/-- A reach in progress: numerology, symbol, index. -/
def reachOf (s : State) (c mu : Nat) (y : SymId) (k : Nat) : Option RxReach :=
  (s.rxOf c).live.find? fun r => r.mu == mu && r.sym == y && r.k == k

/-- Replaces a reach in progress. -/
def setReach (c : Nat) (x : RxReach) (s : State) : State :=
  s.onRx c fun r => { r with live := r.live.map fun y => if y.n = x.n then x else y }

/-- A reach's segments are final: it is completed (R80). -/
def endReach (c flags : Nat) (x : RxReach) (s : State) : State :=
  s.onRx c fun r => { r with
    live := r.live.filter fun y => y.n ≠ x.n
    done := (⟨x.n, x.carrier, x.sym, x.position, flags, x.occ⟩ :: r.done).take 32
    reaches := (r.reaches + 1) % 2 ^ 48 }

/-- The record of a reach's carrier. -/
def reachRecord (s : State) (x : RxReach) : Option CarrierRec := s.carrierOf x.carrier

/-- A reach stands in a group's receiver. -/
def grouped (s : State) (x : RxReach) : Bool := match s.reachRecord x with
  | some r => r.group
  | none => false

/-- The launch time is that of stage 1 to 4 of D1 launch index `i` of the reach's symbol (R54). -/
def atStage (s : State) (x : RxReach) (i stage t : Nat) : Bool := match s.reachRecord x with
  | some r => stageNs r x.t0 i stage == t
  | none => false

/-! ## Segments (R66 to R69) -/

/-- Index in the codeword of an allocation's first LLR of symbol `y` at its `i`-th data subcarrier there (R66). -/
def firstLlr (a : UlAlloc) (y : SymId) (i : Nat) : Nat :=
  (((a.res.takeWhile fun e => e.1 ≠ y.sym).map fun e => e.2.length).foldl (· + ·) 0 + i) * a.layers * a.qm

/-- The data subcarriers of an allocation in symbol `y`. -/
def dataSubs (a : UlAlloc) (y : SymId) : List Nat := match a.res.find? fun e => e.1 == y.sym with
  | some e => e.2
  | none => []

/-- The subcarriers of an allocation in a span, as places in it. -/
def subsIn (a : UlAlloc) (y : SymId) (span : Nat × Nat) : List Nat :=
  (dataSubs a y).filterMap fun i => if span.1 ≤ i ∧ i < span.1 + span.2 then some (i - span.1) else none

/-- The span of a reach's position. -/
def spanOf (s : State) (x : RxReach) : Nat × Nat := match s.reachRecord x with
  | some r => posSpan r.group (12 * r.nrb) (if r.group then s.groupRank else 0) x.position
  | none => (0, 0)

/-- The segments of a reach, one for each allocation with data subcarriers in its position, in codeword order: subcarrier, then
layer, then bit (R66); `llr` gives each value from allocation, subcarrier in the position, layer and bit. -/
def segmentsOf (s : State) (x : RxReach) (llr : UlAlloc → Nat → Nat → Nat → BitVec 6) : List Segment :=
  let span := s.spanOf x
  x.allocs.map fun a =>
    let subs := subsIn a x.sym span
    let before := ((dataSubs a x.sym).filter fun i => decide (i < span.1)).length
    { alloc := a.alloc, qm := a.qm, first := firstLlr a x.sym before, rank := a.rank.val, quad := a.quad.val
      llrs := subs.flatMap fun sc => (List.range a.layers).flatMap fun l => (List.range a.qm).map fun b => llr a sc l b }

/-- A segment that overwrites an unread one of a ring counts there (R69); it is unread itself. -/
def noteSegment (q off n : Nat) (s : State) : State :=
  let hit (u : Nat × Nat) : Bool := decide (u.1 < off + n ∧ off < u.1 + u.2)
  let s := if (s.quad q).unread.any hit then (s.count (Reg.RXP_OVERRUN_CNT q) 1).event (Reg.RXP_STATUS q) Ev.RXP_LLR_OVERRUN else s
  s.onQuad q fun w => { w with unread := w.unread.filter (fun u => !hit u) ++ [(off, n)] }

/-- The part of an LLR ring that a cluster of this device writes (R67). -/
def partOf (s : State) (c rank q : Nat) : Option LlrPart := match s.img.file with
  | some f => f.parts.find? fun p => p.dec.val == rank && p.quad.val == q && p.rank.val == s.groupRank && p.cluster.val == c
  | none => none

/-- Writes a segment at its next place in the source's part, on a 64-byte boundary, and then its descriptor (R66, R67). A source
with no part writes nothing (DESIGN CHOICE, assumption 57). -/
def putSegment (c flags : Nat) (x : RxReach) (s : State) (g : Segment) : State :=
  match s.partOf c g.rank g.quad with
  | none => s
  | some p =>
    let key := g.rank * 4 + g.quad
    let r := s.rxOf c
    let seq := tget (fun _ => 0) r.seqs key
    let data := packLlr ((g.llrs.length + 15) / 16) (g.llrs.map fun l => llr6 l.toNat)
    let n := data.length
    let at_ := tget (fun _ => 0) r.segAt key
    let at_ := if at_ + n ≤ p.segLen then at_ else 0
    let dat := tget (fun _ => 0) r.descAt key
    let dat := if dat + 16 ≤ p.descLen then dat else 0
    let off := p.seg + at_
    let s := if g.rank = s.groupRank then s.noteSegment g.quad off n else s
    let desc := leBytes 4 off ++ leBytes 3 g.llrs.length ++ [BitVec.ofNat 8 flags] ++ leBytes 3 g.first
      ++ [BitVec.ofNat 8 g.alloc, BitVec.ofNat 8 x.sym.sym.val, BitVec.ofNat 8 x.position] ++ leBytes 2 seq
    let req := match (s.clusterCores c)[9]? with
      | some p => s.reqSluice p true
      | none => 0x80
    let base := s.rankAddr g.rank (llrRing g.quad)
    let w := writeG req 0 n s (base + off) data
    let w := writeG req 0 16 w.1 (base + p.desc + dat) desc
    w.1.onRx c fun r => { r with
      seqs := tset r.seqs key ((seq + 1) % 65536)
      segAt := tset r.segAt key ((at_ + n + 63) / 64 * 64)
      descAt := tset r.descAt key (dat + 16) }

/-! ## Model images (R70, R71) -/

/-- The image that the slot of symbol `y` runs on: after a swap, the old one for slots before it (R71). -/
def imgIndex (s : State) (c mu : Nat) (y : SymId) : Nat :=
  let r := s.rxOf c
  match r.since with
  | some (a, m) =>
    let round := 1024 * 80
    let d := (a * 2 ^ (3 - m) + round - slotNumber mu y.sfn.val y.slot.val * 2 ^ (3 - mu) % round) % round
    if 0 < d ∧ d ≤ round / 2 then r.old else r.img
  | none => r.img

/-- A model image of a cluster's stage cores by its number. -/
def imgOf (s : State) (c i : Nat) : ModelImg := if i = 0 then (s.rxOf c).imgA else (s.rxOf c).imgB

/-- The core that does half `half` of a stage: 0 F, 1 D1, 2 D2, 3 D3, 4 M (R52, table "Stages of the reference receiver
flow"). -/
def stageCore (s : State) (c stage half : Nat) : Option Nat := (s.clusterCores c)[2 * stage + half]?

/-- Where the stage cores keep an image (R70). -/
def imgBase (s : State) (i : Nat) : Nat := match s.img.file with
  | some f => if i = 0 then f.modelA else f.modelB
  | none => 0

/-- The sections that a stage core holds in its local memory (R70). -/
def modelBytes (s : State) (c stage half i : Nat) : List Byte := match s.stageCore c stage half with
  | some p => readBytes (s.core p).lm (s.imgBase i) ((s.imgOf c i).lens.getD stage 0)
  | none => []

/-- A model slot's header passes the checks of R70: MAGIC, FORMAT, FLOW_TAG, CRC, and MODEL_ID where one is named. -/
def slotOk (tag : Word) (id : Option Nat) (bs : List Byte) : Bool :=
  let n := fieldAt bs 0x10 4
  fieldAt bs 0 4 == 0x4F484D31 && fieldAt bs 4 2 == 1 && fieldAt bs 0x18 4 == tag.toNat
    && decide (0x100 ≤ n ∧ n ≤ 0x100000) && fieldAt bs 0x14 4 == (crc32c ((bs.take n).drop 0x100)).toNat
    && (match id with
      | some i => fieldAt bs 6 2 == i
      | none => true)

/-- The sections of a slot whose stage mask names a stage (table "Model slot header"), one after the other (their places in the
image are the flow program's: assumption 57). -/
def sectionsFor (bs : List Byte) (stage : Nat) : List Byte :=
  (List.range 8).flatMap fun i =>
    let e := 0x20 + 16 * i
    if fieldAt bs e 1 ≠ 0 && bitOf (fieldAt bs (e + 12) 4) stage then (bs.drop (fieldAt bs (e + 4) 4)).take (fieldAt bs (e + 8) 4) else []

/-- The flow tag of the loaded image. -/
def flowTag (s : State) : Word := match s.img.file with
  | some f => f.tag
  | none => 0

/-- The bytes of a model slot at a DRAM address: its header, then as many bytes as LENGTH names. -/
def slotBytes (s : State) (addr : Nat) : State × List Byte × Bool :=
  let h := s.readMem addr 0x100
  let n := min 0x100000 (fieldAt h.2.1 0x10 4)
  let r := h.1.readMem addr (max 0x100 n)
  (r.1, r.2.1, h.2.2 && r.2.2)

/-- The stage cores of a cluster load a slot into the image that is not in use (R70); whether the checks passed. -/
def loadModel (c addr : Nat) (s : State) : State × Bool :=
  let b := s.slotBytes addr
  if b.2.2 && slotOk s.flowTag none b.2.1 then
    let h := b.2.1
    let secs := (List.range 5).map (sectionsFor h)
    let m : ModelImg := ⟨fieldAt h 8 6, (h.drop 0xA0).take 8, (h.drop 0xA8).take 8, secs.map (·.length)⟩
    let i := 1 - (b.1.rxOf c).img
    let s := secs.zipIdx.foldl (fun (s : State) x => [0, 1].foldl (fun (s : State) half => match s.stageCore c x.2 half with
      | some p => s.writeLm p (s.imgBase i) x.1
      | none => s) s) b.1
    (s.onRx c fun r => if i = 1 then { r with imgB := m } else { r with imgA := m }, true)
  else (b.1.event (Reg.RXP_STATUS c) Ev.RXP_MODEL_INVALID, false)

/-- RXP.MODEL_ACTIVE shows the image in use. -/
def showModel (c : Nat) (s : State) : State :=
  let r := s.rxOf c
  s.setReg (Reg.RXP_MODEL_ACTIVE c) (BitVec.ofNat 32 ((s.imgOf c r.img).version % 2 ^ 24 * 256 + r.img))

/-- The loaded image takes effect at a slot boundary of numerology μ (R71). -/
def switchModel (c mu sfn slot : Nat) (s : State) : State :=
  (s.onRx c fun r => { r with img := 1 - r.img, old := r.img, since := some (slotNumber mu sfn slot, mu) }).showModel c

/-- What a slot boundary of numerology μ does to a receiver: the setting of RXP.MONCFG of the new slot (R81), and the old image
of a swap at the boundary before is released (R71). -/
def rxSlot (c mu sfn slot : Nat) (s : State) : State :=
  let v := s.ctl.inForce (Reg.RXP_MONCFG c)
  s.onRx c fun r => { r with
    mon := tset r.mon mu ⟨slotNumber mu sfn slot, v, match tfind r.mon mu with
      | some m => m.now
      | none => v⟩
    since := match r.since with
      | some (a, m) => if m = mu then none else some (a, m)
      | none => none }

/-! ## The end of a reach (R68, R79; 09 R325) -/

/-- The index of a front position among those of its cluster, by owner rank and reach index. -/
def frontIndex (group : Bool) (r k : Nat) : Nat := if group then k * 4 + r else k

/-- A completed reach waits for capture while GRID_MIRROR is set for its slot (09 R322, R325; 02 R61). -/
def noteCapture (c flags : Nat) (x : RxReach) (s : State) : State :=
  match s.reachRecord x with
  | none => s
  | some r =>
    let own := if r.group then s.groupRank else 0
    match (rxSpots r).find? fun p => p.1 == own && p.2.1 == x.position with
    | none => s
    | some p =>
      let a := (x.allocs.filter s.capAlloc).head?
      let o := a.bind fun a => (x.occ.find? fun o => o.1 == a.alloc).bind fun o => (s.rxOf c).occs.find? fun q => q.n == o.2
      let h := match o with
        | some o => readBytes s.mem (hAddr c o.n (frontIndex r.group own x.k)) 0x9000
        | none => []
      let e : CapReach :=
        { cluster := c, mu := x.mu, carrier := x.carrier, sym := x.sym, position := x.position, block := p.2.2.block.val
          flags := flags, allocs := x.allocs, occ := o.map fun o => (o.n, o.sym), ants := s.gridAnts r
          version := (s.imgOf c x.img).version, noise := padTo 64 ((h.drop 0x8000).take 64)
          delay := Config.delayRms h, doppler := Config.dopplerHz h }
      if bitOf x.cfg.toNat 2 then { s with bkw := { s.bkw with caps := s.bkw.caps ++ [e] } } else s

/-- A reach's segments become final with `flags` (R68). -/
def commitReach (c flags : Nat) (x : RxReach) (segs : List Segment) (s : State) : State :=
  ((segs.foldl (putSegment c flags x) s).noteCapture c flags x).endReach c flags x

/-- A reach is written as zero LLRs (R42, R76, R78); it is never monitored (R79). -/
def zeroReach (c flags : Nat) (x : RxReach) (s : State) : State :=
  s.commitReach c flags x (s.segmentsOf x fun _ _ _ _ => 0)

/-! ## DMRS occasions (R50, R56, R62, R63) -/

/-- The occasion with a numerology and last DMRS symbol. -/
def occOf (s : State) (c mu : Nat) (y : SymId) : Option RxOcc := (s.rxOf c).occs.find? fun o => o.mu == mu && o.sym == y

/-- Replaces an occasion. -/
def setOcc (c : Nat) (o : RxOcc) (s : State) : State :=
  s.onRx c fun r => { r with occs := r.occs.map fun x => if x.n = o.n then o else x }

/-- The occasion whose F slots begin with launch time `t` of slot `slot`; a new one takes the older channel-state set. -/
def openOcc (c mu : Nat) (y : SymId) (t0 : Nat) (s : State) : State × RxOcc :=
  match s.occOf c mu y with
  | some o => (s, o)
  | none =>
    let o : RxOcc := ⟨(s.rxOf c).nextOcc, mu, y, t0, [], [], []⟩
    (s.onRx c fun r => { r with nextOcc := (r.nextOcc + 1) % 2 ^ 32, occs := (o :: r.occs).take 2 }, o)

/-- The bytes of a grid block of this device. -/
def blockBytes (s : State) (c ants : Nat) (place : RxPlace) (y : SymId) : List Byte :=
  readBytes s.mem (gridAddr c place.block.val y) (256 * ants * 4)

/-- The symbol before `y` in its slot, or `y` itself at the slot's first symbol. -/
def prevSym (y : SymId) : SymId := { y with sym := Fin.ofNat 14 (y.sym.val - 1) }

/-- The grid blocks that the estimator of a front position reads: the position and its neighbours in frequency, of the
occasion's last two symbols (assumption 74). -/
def pilotBlocks (s : State) (r : CarrierRec) (owner p : Nat) (y : SymId) : List (List Byte) :=
  let spots := rxSpots r
  let i := spots.findIdx fun x => x.1 == owner && x.2.1 == p
  ((spots.drop (i - 1)).take (if i = 0 then 2 else 3)).flatMap fun x =>
    [prevSym y, y].map fun z => s.blockBytes x.2.2.cluster.val (s.gridAnts r) x.2.2 z

/-- Completes the Gram record of a back position, and copies it to the DRAM ring while GRID_MIRROR is set (R63; 09, "Capture
and labels"). -/
def putGram (p c : Nat) (o : RxOcc) (k block : Nat) (sums : List Int) (s : State) : State :=
  let g := padTo 0x3000 (Config.gramNarrow sums)
  let s := s.writeMem (gramAddr c o.n k) g
  if s.mirrorOn c o.mu o.sym then (writeG (s.reqSluice p true) 0 0x3000 s (selfAddr (s.gramMirror c block o.sym)) g).1 else s

/-- Estimation of one front position (R62, R63): the H record, and the Gram record of a single device or the partial of a
group's, which goes with its flag into the owner's landing area (R56, R64). -/
def estimate (p c : Nat) (o : RxOcc) (owner k : Nat) (s : State) : State :=
  match s.rxSpot c o.mu owner k with
  | none => s
  | some (_, r, pos, place) =>
    let i := frontIndex r.group owner k
    let img := s.imgIndex c o.mu o.sym
    let e := padTo (0x8000 + 64) (Config.estimator (s.modelBytes c 0 (s.roleOf p % 2) img) (s.pilotBlocks r owner pos o.sym) pos)
    let h := padTo 0x9000 (e ++ leBytes 4 o.n ++ leBytes 4 img)
    let s := s.writeMem (hAddr c o.n i) h
    let g := (Config.gramPartial h ++ List.replicate gramWords 0).take gramWords
    if r.group then
      let req := s.reqSluice p true
      let own := s.groupRank
      let w := writeG req 0 0x4400 s (s.rankAddr owner (gramBuf c own k)) (sumBytes g)
      let w := writeG req 0 4 w.1 (w.1.rankAddr owner (gramFlag c own k)) (leBytes 4 (symTag o.mu o.sym))
      w.1.setOcc c { o with front := i :: o.front }
    else
      (s.putGram p c o k place.block.val g).setOcc c { o with front := i :: o.front, back := k :: o.back }

/-- The front positions that a core works on in an F slot: owner and reach index (R52, R55, R56). -/
def frontItems (group : Bool) (role slot learned : Nat) : List (Nat × Nat) :=
  if group then [(2 * role, slot), (2 * role + 1, slot)]
  else ([4 * slot + 2 * role, 4 * slot + 2 * role + 1].filter fun k => decide (k < learned)).map fun k => (0, k)

/-- The receiver of numerology μ on a cluster stands in a group. -/
def groupAt (s : State) (c mu : Nat) : Bool :=
  s.func.applied.any fun e => e.2.uplink && e.2.mu.val == mu && e.2.group && (rxSpots e.2).any fun x => x.2.2.cluster.val == c

/-- An F slot of a DMRS occasion (R56), launched at `t` on core `p`. A front position whose checksum mismatches completes no
record (DESIGN CHOICE, assumption 75). -/
def occasionF (p t c mu : Nat) (y : SymId) (slot : Nat) (bad : List Nat) (s : State) : State :=
  let role := s.roleOf p
  let r := s.openOcc c mu y ((t + 2 ^ 32 - slot * 1000 % 2 ^ 32) % 2 ^ 32)
  if clusterOf p ≠ c ∨ 2 ≤ role ∨ (r.2.t0 + slot * 1000) % 2 ^ 32 ≠ t then s
  else
    let group := s.groupAt c mu
    (frontItems group role slot (s.learnedReaches c mu)).foldl (fun (s : State) x =>
      if s.flt.check ≠ 0 ∧ frontIndex group x.1 x.2 ∈ bad then s
      else match s.occOf c mu y with
        | some o => s.estimate p c o x.1 x.2
        | none => s) r.1

/-- The landing buffers of reach or back position `k` of the four source ranks hold this symbol (01 R42). -/
def landed (s : State) (flag : Nat → Nat) (mu : Nat) (y : SymId) : Bool :=
  (List.range 4).all fun r => fieldAt (readBytes s.mem (flag r) 4) 0 4 == symTag mu y

/-- The D1 slot that combines the Gram partials of back position `k` (R56, R63): each of D1's cores takes half; the four partials
are added in rank order and narrowed (01 R40). -/
def occasionD1 (p t c mu : Nat) (y : SymId) (k : Nat) (s : State) : State :=
  let role := s.roleOf p
  match s.occOf c mu y, s.rxSpot c mu s.groupRank k with
  | some o, some (_, r, _, place) =>
    if clusterOf p ≠ c ∨ role < 2 ∨ 4 ≤ role ∨ !r.group ∨ stageNs r o.t0 k 1 ≠ t ∨ k ∈ o.back then s
    else if !s.landed (fun rk => gramFlag c rk k) mu y then s.catchPhys Ev.CATCHFW_REMOTE_MISSING p
    else
      let o := { o with halves := (k * 2 + role % 2) :: o.halves }
      if k * 2 ∈ o.halves ∧ k * 2 + 1 ∈ o.halves then
        let parts := (List.range 4).map fun rk => sumsOf gramWords (readBytes s.mem (gramBuf c rk k) 0x4400)
        (s.putGram p c o k place.block.val (addSums parts)).setOcc c { o with back := k :: o.back }
      else s.setOcc c o
  | _, _ => s

/-- The most recent completed occasion of an allocation at or before a data symbol, for front index `i` and back position `k`
where this device owns it (R50). -/
def occFor (s : State) (c mu : Nat) (y : SymId) (a : UlAlloc) (i : Nat) (k : Option Nat) : Option RxOcc :=
  (s.rxOf c).occs.find? fun o => o.mu == mu && o.sym.sfn == y.sfn && o.sym.slot == y.slot && decide (o.sym.sym.val ≤ y.sym.val)
    && a.dmrs.contains o.sym.sym && o.front.contains i && (match k with
      | some k => o.back.contains k
      | none => true)

/-! ## Stages (R52, R54, R55, R72 to R78) -/

/-- A reach is zeroed for its checksum (R76): the leaf on core `p` discards it (01 R28). -/
def checkZeroed (p c : Nat) (s : State) : State :=
  ((s.count (Reg.RXP_ZEROED_CNT c) 1).event (Reg.RXP_STATUS c) Ev.RXP_CHECK_ZEROED).catchPhys Ev.CATCHFW_RECOVERABLE p

/-- A flagged reach is left without a fallback slot (R74). -/
def fbSkipped (c : Nat) (s : State) : State := (s.count (Reg.RXP_FB_SKIP_CNT c) 1).event (Reg.RXP_STATUS c) Ev.RXP_FB_SKIPPED

/-- The reach of this device that begins at its F slot. -/
def newReach (c mu k carrier pos t0 : Nat) (y : SymId) (r : CarrierRec) (allocs : List UlAlloc) (s : State) : State × RxReach :=
  let own := if r.group then s.groupRank else 0
  let span := posSpan r.group (12 * r.nrb) own pos
  let mine := allocs.filter fun a => a.carrier.val == carrier && !(subsIn a y span).isEmpty
  let i := frontIndex r.group own k
  let x : RxReach :=
    { n := (s.rxOf c).nextReach, mu := mu, carrier := carrier, sym := y, position := pos, k := k, t0 := t0, stage := 1, half := []
      rerun := false, flagged := false, allocs := mine
      occ := mine.filterMap fun a => (s.occFor c mu y a i (some k)).map fun o => (a.alloc, o.n)
      img := s.imgIndex c mu y, cfg := s.monFor c mu y, segs := [], slot := none, replay := false }
  (s.onRx c fun q => { q with nextReach := q.nextReach + 1, live := q.live ++ [x] }, x)

/-- The partial matched filter of a position over this device's antennas (R44, R55). -/
def matched (s : State) (c mu : Nat) (y : SymId) (r : CarrierRec) (owner k pos : Nat) (place : RxPlace) (carrier : Nat)
    (allocs : List UlAlloc) : List Int :=
  let span := posSpan r.group (12 * r.nrb) owner pos
  let i := frontIndex r.group owner k
  let ests := (allocs.filter fun a => a.carrier.val == carrier).filterMap fun a =>
    let subs := subsIn a y span
    if subs.isEmpty then none
    else (s.occFor c mu y a i none).map fun o => (subs, readBytes s.mem (hAddr c o.n i) 0x9000)
  (Config.mfPartial ests (s.blockBytes c (s.gridAnts r) place y) ++ List.replicate mfWords 0).take mfWords

/-- One front position of a data symbol's F slot: a single device narrows its matched filter into the reach record; a group's
device writes it with its flag into the owner's landing area (R55, R64, R65). A mismatch zeroes the device's own reach (R76); of
another owner's it leaves the flag unset (DESIGN CHOICE, assumption 75). -/
def frontData (p c mu k t0 : Nat) (y : SymId) (allocs : List UlAlloc) (bad : List Nat) (s : State) (owner : Nat) : State :=
  match s.rxSpot c mu owner k with
  | none => s
  | some (carrier, r, pos, place) =>
    let wrong := s.flt.check ≠ 0 ∧ owner ∈ bad
    let mf := s.matched c mu y r owner k pos place carrier allocs
    let mine := !r.group || owner == s.groupRank
    let n := s.newReach c mu k carrier pos t0 y r allocs
    let s := if mine then n.1 else s
    if wrong then (if mine then (s.checkZeroed p c).zeroReach c sgZEROED n.2 else s)
    else if r.group then
      let req := s.reqSluice p true
      let own := s.groupRank
      let w := writeG req 0 0x8000 s (s.rankAddr owner (mfBuf c own k)) (sumBytes mf)
      (writeG req 0 4 w.1 (w.1.rankAddr owner (mfFlag c own k)) (leBytes 4 (symTag mu y))).1
    else s.writeMem (reachRec c n.2.n) (padTo 0x4000 (Config.mfNarrow mf))

/-- The owners whose positions a core works on in the F slot of a data symbol (R52, R55). -/
def frontOwners (group : Bool) (role : Nat) : List Nat := if group then [2 * role, 2 * role + 1] else if role = 0 then [0] else []

/-- The F slot of reach k of a data symbol, launched at `t` on core `p` (R54, R55): all F slots of a symbol lie on one T0. -/
def stageF (p t c mu k : Nat) (y : SymId) (allocs : List UlAlloc) (bad : List Nat) (s : State) : State :=
  let role := s.roleOf p
  let t0 := (t + 2 ^ 32 - k * 1000 % 2 ^ 32) % 2 ^ 32
  let owners := frontOwners (s.groupAt c mu) role
  let again := owners.contains (if s.groupAt c mu then s.groupRank else 0)
  if clusterOf p ≠ c ∨ 2 ≤ role ∨ (s.rxOf c).live.any (fun x => x.mu == mu && x.sym == y && (x.t0 != t0 || (x.k == k && again))) then s
  else owners.foldl (frontData p c mu k t0 y allocs bad) s

/-- What the detector knows of each allocation of a reach. -/
def reachEsts (s : State) (c : Nat) (x : RxReach) : List (List Nat × Nat × Nat × List Byte × List Byte) :=
  let i := frontIndex (s.grouped x) s.groupRank x.k
  x.allocs.map fun a => match x.occ.find? fun o => o.1 == a.alloc with
    | some o => (subsIn a x.sym (s.spanOf x), a.layers, a.qm, readBytes s.mem (gramAddr c o.2 x.k) 0x3000, readBytes s.mem (hAddr c o.2 i) 0x9000)
    | none => (subsIn a x.sym (s.spanOf x), a.layers, a.qm, [], [])

/-- The matched-filter vectors and the estimates of a reach record (R65). -/
def recordMf (s : State) (c : Nat) (x : RxReach) : List Byte := readBytes s.mem (reachRec c x.n) 0x4000
def recordEst (s : State) (c : Nat) (x : RxReach) : List Byte := readBytes s.mem (reachRec c x.n + 0x4000) 0x4000

/-- A detector iteration of a reach, with the cores' halves swapped or not (R52, R75). -/
def detect (s : State) (c : Nat) (x : RxReach) (stage : Nat) (swap : Bool) (est : List Byte) : List Byte :=
  let m (h : Nat) : List Byte := s.modelBytes c stage (if swap then 1 - h else h) x.img
  padTo 0x4000 (Config.detector stage (m 0) (m 1) (s.recordMf c x) (s.reachEsts c x) est)

/-- The LLRs that stage M's cores demap from estimates (R66): the first core of the stage has subcarriers 0 to 127 (R52). -/
def demapped (s : State) (c : Nat) (x : RxReach) (swap : Bool) (est : List Byte) : List Segment :=
  s.segmentsOf x fun a sc l b =>
    Config.demapper (s.modelBytes c 4 (if xor (decide (128 ≤ sc)) swap then 1 else 0) x.img) est a.qm sc l b

/-- The LLRs of the LMMSE receiver (R74). -/
def lmmseSegs (s : State) (c : Nat) (x : RxReach) : List Segment :=
  let ests := s.reachEsts c x
  let mf := s.recordMf c x
  s.segmentsOf x fun a sc l b => match ests.find? fun e => e.1.contains sc with
    | some e => Config.lmmse mf e.2.2.2.1 e.2.2.2.2 a.qm sc l b
    | none => Config.lmmse mf [] [] a.qm sc l b

/-- The core does a share of stage `stage` of the reach now: its place in the rank order and the schedule's time (R52, R54). -/
def inStage (s : State) (p t c : Nat) (x : RxReach) (stage : Nat) : Bool :=
  clusterOf p == c && s.roleOf p / 2 == stage && s.atStage x x.k stage t
    && (decide (x.stage < stage) || (x.stage == stage && !x.half.contains (s.roleOf p % 2)))

/-- The reach is lost: zero LLRs, late (R78; 01 R27). -/
def loseReach (p c : Nat) (x : RxReach) (s : State) : State :=
  (((s.count (Reg.RXP_LATE_CNT c) 1).event (Reg.RXP_STATUS c) Ev.RXP_LATE).catchPhys Ev.CATCHFW_RECOVERABLE p).zeroReach c
    (sgZEROED + sgLATE) x

/-- The D1, D2 or D3 slot of a reach (R54). In a group D1 first adds the four partial sums in rank order; one that has not landed
zeroes the reach (01 R40, R42). A mismatch makes the reach a checksum rerun (R75); at level 0 nothing is checked (15 R569). -/
def stageD (p t c mu k : Nat) (y : SymId) (stage : Nat) (mism : Bool) (s : State) : State :=
  match s.reachOf c mu y k with
  | none => s
  | some x =>
    if !s.inStage p t c x stage then s
    else if x.stage < stage then s.loseReach p c x
    else if stage = 1 && s.grouped x && !s.landed (fun r => mfFlag c r k) mu y then
      let s := (s.count (Reg.RXP_ZEROED_CNT c) 1).event (Reg.RXP_STATUS c) Ev.RXP_REMOTE_MISSING
      ((s.catchPhys Ev.CATCHFW_REMOTE_MISSING p).catchPhys Ev.CATCHFW_RECOVERABLE p).zeroReach c (sgZEROED + sgMISSING) x
    else
      let x := { x with rerun := x.rerun || (mism && s.flt.check != 0) }
      if x.half.isEmpty then s.setReach c { x with half := [s.roleOf p % 2] }
      else
        let s := if stage = 1 && s.grouped x then
            let parts := (List.range 4).map fun r => sumsOf mfWords (readBytes s.mem (mfBuf c r k) 0x8000)
            s.writeMem (reachRec c x.n) (padTo 0x4000 (Config.mfNarrow (addSums parts)))
          else s
        (s.writeMem (reachRec c x.n + 0x4000) (s.detect c x stage false (if stage = 1 then [] else s.recordEst c x))).setReach c
          { x with stage := stage + 1, half := [] }

/-- The slot number of a reach that waits for its replay slot. -/
@[reducible] def noSlot : Nat := 255

/-- The fallback slots of a reach's carrier. -/
def fallbackSlots (s : State) (x : RxReach) : Nat := match s.reachRecord x with
  | some r => r.fallbacks
  | none => 0

/-- Stage M copies the matched-filter section of a reach to the DRAM ring while GRID_MIRROR is set (09, "Capture and labels"). -/
def mirrorMf (p c : Nat) (x : RxReach) (s : State) : State :=
  match s.rxSpot c x.mu (if s.grouped x then s.groupRank else 0) x.k with
  | some (_, _, _, place) =>
    if bitOf x.cfg.toNat 2 then
      (writeG (s.reqSluice p true) 0 0x4000 s (selfAddr (s.reachMirror c place.block.val x.sym)) (s.recordMf c x)).1
    else s
  | none => s

/-- The M slot of a reach: a checksum rerun, the monitor's decision, a replay, or the commit (R66 to R76, R81). Where the carrier
has no fallback slot, the reach is final at once (R68, R74, R76). -/
def stageM (p t c mu k : Nat) (y : SymId) (mism : Bool) (s : State) : State :=
  match s.reachOf c mu y k with
  | none => s
  | some x =>
    if !s.inStage p t c x 4 then s
    else if x.stage < 4 then s.loseReach p c x
    else
      let x := { x with rerun := x.rerun || (mism && s.flt.check != 0) }
      if x.half.isEmpty then s.setReach c { x with half := [s.roleOf p % 2] }
      else
        let s := s.mirrorMf p c x
        let segs := s.demapped c x false (s.recordEst c x)
        let cfg := x.cfg.toNat
        let flagged := bitOf cfg 0 && segs.any (weakSegment (s.imgOf c x.img) (bits cfg 15 8))
        let x := { x with stage := 5, half := [], segs := segs }
        let none_ := s.fallbackSlots x == 0
        if x.rerun then (if none_ then (s.checkZeroed p c).zeroReach c sgZEROED x else s.setReach c x)
        else
          let replay := isReplayed s.flt.check (s.learnedReaches c mu) k (captureHash y c)
          if flagged && bitOf cfg 1 && !none_ then s.setReach c { x with flagged := true, replay := replay }
          else
            let s := if flagged then s.fbSkipped c else s
            if replay then s.setReach c { x with flagged := flagged, replay := true, slot := some noSlot }
            else s.commitReach c (if flagged then sgSKIPPED else 0) x segs

/-- Inserts a reach in ascending index. -/
def insertReach (x : RxReach) : List RxReach → List RxReach
  | [] => [x]
  | y :: t => if x.k < y.k then x :: y :: t else y :: insertReach x t

/-- D1 of fallback slot 0 of a symbol: its slots are assigned, checksum reruns first, then confidence fallbacks, each in ascending
index; those left over are final, or wait for their replay slot (R54, R73, R74, R76; 15 R570). -/
def assignFallbacks (p t c mu : Nat) (y : SymId) (s : State) : State :=
  let live := ((s.rxOf c).live.filter fun x => x.mu == mu && x.sym == y && x.stage == 5 && x.slot.isNone
    && s.atStage x (s.learnedReaches c mu + 3) 1 t).foldl (fun l x => insertReach x l) []
  if clusterOf p ≠ c ∨ s.roleOf p / 2 ≠ 1 then s
  else ((live.filter fun x => x.rerun) ++ live.filter fun x => x.flagged && !x.rerun).zipIdx.foldl (fun (s : State) w =>
    let x := w.1
    if w.2 < s.fallbackSlots x then s.setReach c { x with slot := some w.2, replay := false }
    else if x.rerun then (s.checkZeroed p c).zeroReach c sgZEROED x
    else if x.replay then (s.fbSkipped c).setReach c { x with slot := some noSlot }
    else (s.fbSkipped c).commitReach c sgSKIPPED x x.segs) s

/-- The M slot of fallback slot j (R54, R74, R75): the learned path again with the halves swapped, or the LMMSE receiver. -/
def fallbackM (p t c mu : Nat) (y : SymId) (j : Nat) (s : State) : State :=
  match (s.rxOf c).live.find? fun x => x.mu == mu && x.sym == y && x.slot == some j with
  | none => s
  | some x =>
    let half := s.roleOf p % 2
    if clusterOf p ≠ c ∨ s.roleOf p / 2 ≠ 4 ∨ !s.atStage x (s.learnedReaches c mu + 3 + j) 4 t ∨ half ∈ x.half then s
    else if x.half.isEmpty then s.setReach c { x with half := [half] }
    else if x.rerun then
      let est := [1, 2, 3].foldl (fun e stage => s.detect c x stage true e) []
      let s := s.writeMem (reachRec c x.n + 0x4000) est
      ((s.count (Reg.RXP_RERUN_CNT c) 1).event (Reg.RXP_STATUS c) Ev.RXP_RERUN).commitReach c sgRERUN x (s.demapped c x true est)
    else (s.count (Reg.RXP_FALLBACK_CNT c) 1).commitReach c sgFALLBACK x (s.lmmseSegs c x)

/-- The place of reach k's replay slot behind the fallback slots (15 R570). -/
def replayPlace (level n k h : Nat) : Nat := if level = 50 then k else (k + n - h % n) % n

/-- A replay slot (15 R570, R571), which both M cores run: the first result is committed when the replay agrees, else the reach is
zeroed and every core of D1, D2, D3 and M receives a suspect mark (DEDUCED, assumption 24). -/
def replayEnd (p t c mu k : Nat) (y : SymId) (differ : Bool) (s : State) : State :=
  match s.reachOf c mu y k with
  | none => s
  | some x =>
    let n := s.learnedReaches c mu
    let place := n + 3 + s.fallbackSlots x + replayPlace s.flt.check n k (captureHash y c)
    let half := s.roleOf p % 2
    if !x.replay || x.slot ≠ some noSlot || clusterOf p ≠ c || s.roleOf p / 2 ≠ 4 || !s.atStage x place 4 t || x.half.contains half then s
    else
      let bad := differ || x.half.contains 2
      if x.half.isEmpty then s.setReach c { x with half := if bad then [half, 2] else [half] }
      else if !bad then (s.count Reg.FAULT_REPLAY_CNT 1).commitReach c (if x.flagged then sgSKIPPED else 0) x x.segs
      else
        let s := ((s.count (Reg.RXP_ZEROED_CNT c) 1).catchPhys Ev.CATCHFW_RECOVERABLE p).zeroReach c sgZEROED x
        let s := s.event Reg.FAULT_STATUS Ev.FAULT_REPLAY_DIFF
        let s := s.logPut ownKey 8 1 c (s.reg Reg.FAULT_STATUS) 0 0 0
        ((s.clusterCores c).drop 2 |>.take 8).foldl (fun (s : State) p => s.suspect p) s

/-- A stage that has not finished its share, or whose core is fenced or missed its launch, loses the reach: zero LLRs, late
(R78; 01 R27). -/
def lateReach (p c mu k : Nat) (y : SymId) (s : State) : State :=
  match s.reachOf c mu y k with
  | none => s
  | some x => s.loseReach p c x

/-- An F slot of a data symbol that did not launch on core `p`: this device's own reach begins and is lost (R78, table "Reaches
that produce no detected LLRs"). -/
def lostF (p t c mu k : Nat) (y : SymId) (allocs : List UlAlloc) (s : State) : State :=
  let own := if s.groupAt c mu then s.groupRank else 0
  if clusterOf p ≠ c ∨ !(frontOwners (s.groupAt c mu) (s.roleOf p)).contains own then s
  else match s.rxSpot c mu own k with
    | none => s
    | some (carrier, r, pos, _) =>
      ((s.newReach c mu k carrier pos ((t + 2 ^ 32 - k * 1000 % 2 ^ 32) % 2 ^ 32) y r allocs).1).lateReach p c mu k y

end State

end Sys2Proof.Machine
end

