-- ==== Sys2Proof/Machine/Capture.lean ====
section
/-! DEFINITION. Capture (09_backwater_training.md R322 to R337; 01 R36): labels, reach and occasion records, reference-signal
images, and the Oxbow cache that holds them. -/
namespace Sys2Proof.Machine

/-- A record is held out (R336). -/
def heldOut (holdout tag : Nat) : Bool := decide (tag * 0x9E3779B1 % 2 ^ 32 / 2 ^ 24 < holdout)

/-- The symbols of a slot field. -/
def symsOf (slot : Nat) : List SymId := (List.range 14).map fun y => ⟨Fin.ofNat 1024 (slot / 128), Fin.ofNat 80 (slot % 128), Fin.ofNat 14 y⟩

/-- Bits packed eight to a byte, the first in bit 0. -/
def maskBytes (l : List Bool) : List Byte := packLsb ((l.length + 7) / 8) l

namespace State

/-- Updates Backwater. -/
def onBkw (f : Bkw → Bkw) (s : State) : State := { s with bkw := f s.bkw }

/-- A region, and its declaration in the loaded image. -/
def region (s : State) (i : Nat) : Region := tget (fun _ => Region.reset) s.bkw.regions i
def setRegion (i : Nat) (r : Region) (s : State) : State := s.onBkw fun b => { b with regions := tset b.regions i r }
def regionDecl (s : State) (i : Nat) : Option RegionDecl := match s.img.file with
  | some f => f.regions[i]?
  | none => none

/-- A bit of BKW.CTRL. -/
def bkwCtl (s : State) (b : Nat) : Bool := bitOf (s.reg Reg.BKW_CTRL).toNat b

/-! ## The Oxbow cache (R331 to R336) -/

/-- The newest held-out records that a validation of a region takes (R352, R354). -/
def valSet (s : State) (i : Nat) (u : Upd) : List CacheRec :=
  match s.regionDecl i with
  | some d =>
    let set := s.bkw.recs.filter fun c => c.held && c.kind == d.recordKind && c.config == s.bkw.config
    set.drop (set.length - u.rec_.valCount)
  | none => []

/-- Epochs that may not be evicted (R335). -/
def pinned (s : State) (e : Nat) : Bool :=
  s.bkw.regions.any fun x => match x.2.run with
    | none => false
    | some u => (u.rec_.kind == 1 && decide (u.rec_.pinEpoch ≤ e)) || (x.2.st == 3 && x.2.vals.any fun c => c.epoch == e)

/-- Evicts the records of the epochs that the granules touch (R334). -/
def evict (epochs : List Nat) (s : State) : State :=
  epochs.foldl (fun (s : State) e =>
    let n := (s.bkw.recs.filter fun c => c.epoch == e).length
    let s := s.onBkw fun b => { b with recs := b.recs.filter (fun c => c.epoch ≠ e), occasions := b.occasions.filter fun o => o.epoch ≠ e }
    (s.count Reg.BKW_EVICT_CNT n).setReg Reg.BKW_OLDEST_EPOCH (BitVec.ofNat 32 (e + 1))) s

/-- The DRAM address of a granule of the ring. -/
def granuleAddr (s : State) (g : Nat) : Nat := (bits (s.reg Reg.BKW_CACHE_BASE).toNat 22 0 + g) * 8192

/-- Writes a record of `g` granules at the write pointer (R331 to R335): `head` makes bytes 0 to 119 of its header from
its tag and held-out bit; `body` its sections. False where a pinned epoch is in the way, or where the Backwater budget of a
channel pair is spent (R36). -/
def putRecord (kind g : Nat) (head : Nat → Bool → List Byte) (body : List (Nat × List Byte)) (s : State) : State × Bool :=
  let size := bits (s.reg Reg.BKW_CACHE_SIZE).toNat 21 0
  let at_ := if s.bkw.wp + g ≤ size then s.bkw.wp else 0
  let hit := ((s.bkw.recs.filter fun c => decide (c.granule < at_ + g ∧ at_ < c.granule + c.len)).map (·.epoch)).eraseDups
  let skipped := if at_ = 0 then
      ((s.bkw.recs.filter fun c => decide (s.bkw.wp ≤ c.granule)).map (·.epoch)).eraseDups else []
  let epochs := if s.bkw.wp + g ≤ size then hit else (skipped ++ hit).eraseDups
  let base := s.granuleAddr at_
  if size < g then (s, false)
  else if epochs.any s.pinned then
    ((s.count Reg.BKW_FULL_SKIP_CNT 1).event Reg.BKW_STATUS Ev.BKW_CACHE_FULL, false)
  else match s.chargeDram base (g * 8192) 1 with
    | none => (s.capSkip, false)
    | some s =>
      let s := s.evict epochs
      let tag := (s.reg Reg.BKW_NEXT_TAG).toNat
      let held := heldOut (bits (s.ctl.inForce Reg.BKW_CAPCFG).toNat 15 8) tag
      let t := body.foldl (fun (t : Tab Byte) b => writeBytes t b.1 b.2) []
      let rest := readBytes t 256 (g * 8192 - 256)
      let h := padTo 120 (head tag held) ++ leBytes 4 (crc32c rest).toNat
      let w := writeG reqWellhead 0 (g * 8192) s (selfAddr base) (padTo 256 h ++ rest)
      let c : CacheRec := ⟨at_, g, tag, (s.reg Reg.BKW_EPOCH).toNat, kind, held, s.bkw.config⟩
      let s := w.1.onBkw fun b => { b with recs := b.recs ++ [c], wp := (at_ + g) % size }
      ((s.count Reg.BKW_NEXT_TAG 1).count Reg.BKW_CAP_CNT 1, true)

/-- The fields of a record header that its writer does not count (09, table "Record header"). -/
structure HeadOf where
  kind : Nat
  granules : Nat
  flags : Nat
  carrier : Nat
  link : Nat
  slot : Nat
  symbol : Nat
  position : Nat
  ants : Nat
  layers : Nat
  qm : Nat
  version : Nat
  noise : List Byte
  delay : Nat
  doppler : Nat
  labelled : Nat
  deriving DecidableEq, Repr

/-- Bytes 0 to 119 of a record header. -/
def recordHead (s : State) (h : HeadOf) (tag : Nat) (held : Bool) : List Byte :=
  leBytes 4 0x4F484F58 ++ [BitVec.ofNat 8 h.kind, BitVec.ofNat 8 h.granules, BitVec.ofNat 8 (h.flags + if held then 1 else 0),
      BitVec.ofNat 8 h.carrier]
    ++ leBytes 4 tag ++ leBytes 4 (s.reg Reg.BKW_EPOCH).toNat ++ leBytes 4 h.link ++ leBytes 4 h.slot
    ++ [BitVec.ofNat 8 h.symbol, BitVec.ofNat 8 h.position, BitVec.ofNat 8 h.ants, BitVec.ofNat 8 h.layers] ++ leBytes 8 h.qm
    ++ leBytes 4 s.bkw.config ++ leBytes 8 h.version ++ padTo 64 h.noise ++ leBytes 2 h.delay ++ leBytes 2 h.doppler
    ++ leBytes 2 h.labelled ++ [0, 0]

/-! ## Labels (R323, R324, R326) -/

/-- The index of a labelled place of a block: symbol, place s × 16 + l (R324). -/
def labelAt (s : State) (c block mu : Nat) (y : SymId) (place : Nat) : Option Nat :=
  let w := readBytes s.mem (s.fileArea (·.staging) + labelAddr c block y + place * 4) 4
  if fieldAt w 1 3 = labelTag mu (slotOfSym mu y) then some (fieldAt w 0 1) else none

/-- The labels of a re-encoded block: symbol, subcarrier, layer place and constellation index of each resource element and layer
that it covers (R323; 03 R91). -/
def blockLabels (o : Offered) (coded : List Bool) : List (Nat × Nat × Nat × Nat) :=
  let u := o.d.unit
  let res := o.sh.res.flatMap fun e => e.2.map fun i => (e.1.val, i)
  let ul := ((ulPositions o.d o.sh).drop o.off).take o.e
  (List.range (o.e / max 1 o.d.qm)).filterMap fun j =>
    let p := ul.getD (j * o.d.qm) 0
    (res[p / u]?).map fun re =>
      (re.1, re.2, o.sh.layerBase.val + p % u / o.d.qm, indexOf ((coded.drop (j * o.d.qm)).take o.d.qm))

/-- The bytes of labels in their owners' staging: owner rank, address there and label (R326). -/
def labelWrites (s : State) (o : Offered) (labels : List (Nat × Nat × Nat × Nat)) : List (Nat × List (Nat × Byte)) :=
  match s.carrierOf o.carrier with
  | none => []
  | some r =>
    let mu := r.mu.val
    let syms := symsOf o.slot
    let one (rank : Nat) (l : Nat × Nat × Nat × Nat) : List (Nat × Byte) :=
      match (rxSpots r).find? fun x => let sp := posSpan r.group (12 * r.nrb) x.1 x.2.1; decide (sp.1 ≤ l.2.1 ∧ l.2.1 < sp.1 + sp.2),
        syms[l.1]? with
      | some x, some y =>
        if x.1 ≠ rank then []
        else
          let at_ := labelAddr x.2.2.cluster.val x.2.2.block.val y
            + ((l.2.1 - (posSpan r.group (12 * r.nrb) x.1 x.2.1).1) * 16 + l.2.2.1) * 4
          let w := leBytes 1 l.2.2.2 ++ leBytes 3 (labelTag mu (slotOfSym mu y))
          w.zipIdx.map fun b => (at_ + b.2, b.1)
      | _, _ => []
    (List.range (if r.group then 4 else 1)).map fun rank => (if r.group then rank else s.groupRank, labels.flatMap (one rank))

/-- The decoding device writes the labels of a block into their owners' staging (R326); its own that come too late are dropped
and counted. -/
def putLabels (o : Offered) (coded : List Bool) (s : State) : State :=
  (s.labelWrites o (blockLabels o coded)).foldl (fun (s : State) w =>
    (byteRuns w.2).foldl (fun (s : State) run =>
      let base := s.fileArea (·.staging)
      if w.1 = s.groupRank ∧ s.labelsLate (base + run.1) run.2 = true then s.capSkip
      else (writeG reqWellhead (o.basin + 8) run.2.length s (s.rankAddr w.1 (base + run.1)) run.2).1) s) s

/-- A free encoder of quad `q` re-encodes an offered block, which takes its cycles from the Backwater budget (R323; 08 R309; 01
R36): with the budget spent the block is skipped. -/
def reEncodeBlk (q block : Nat) (s : State) : State :=
  match (s.quad q).offered[block]? with
  | none => s
  | some o =>
    match [2 * q, 2 * q + 1].find? fun e => s.encoderOn e && (s.encQueue e).isEmpty with
    | none => s
    | some e =>
      let n := 32 + max (if o.g.bg = 1 then 316 else 197) ((o.e + 511) / 512)
      let s := s.onQuad q fun w => { w with offered := w.offered.eraseIdx block }
      if !s.allowed 4 e 1 n then s.capSkip
      else
        let ul := (ulPositions o.d o.sh).drop o.off
        (s.charge 4 e 1 n).putLabels o
          (encodeBlk o.g o.d.rv o.d.qm o.e (o.d.rnti * 2 ^ 15 + o.d.nid) (fun x => ul.getD x 0) o.hard)

/-! ## Reach records (R322, R325, R327) -/

/-- The allocated places of a reach: subcarrier in the position, layer place, order. -/
def allocPlaces (s : State) (r : CapReach) : List (Nat × Nat × Nat) :=
  match s.carrierOf r.carrier with
  | none => []
  | some c =>
    let span := posSpan c.group (12 * c.nrb) (if c.group then s.groupRank else 0) r.position
    r.allocs.flatMap fun a => (subsIn a r.sym span).flatMap fun sc =>
      (List.range a.layers).map fun l => (sc, a.layerBase.val + l, a.qm)

/-- Layers present and Qm of each (09, table "Record header"). -/
def layerFields (allocs : List UlAlloc) : Nat × Nat :=
  let ls := (allocs.flatMap fun a => (List.range a.layers).map fun l => (a.layerBase.val + l, a.qm))
  ((ls.map (·.1)).eraseDups.length, (List.range 16).foldl (fun n l => match ls.find? fun x => x.1 == l with
    | some x => n + x.2 * 16 ^ l
    | none => n) 0)

/-- Bytes of a mirrored grid block (R60). -/
def mirrored (s : State) (c block ants : Nat) (y : SymId) : List Byte := readBytes s.mem (s.mirrorAddr c block y) (256 * ants * 4)

/-- The header fields that the records of a reach share. -/
def capHead (r : CapReach) (kind g flags link symbol labelled : Nat) : HeadOf :=
  let f := layerFields r.allocs
  ⟨kind, g, flags, r.carrier, link, slotField ⟨r.sym.sfn, r.sym.slot⟩, symbol, r.position, r.ants, f.1, f.2, r.version, r.noise,
    r.delay.toNat, r.doppler.toNat, labelled⟩

/-- The occasion record of a reach in this epoch, written if there is none (R327): its tag. -/
def occasionTag (r : CapReach) (n : Nat) (y : SymId) (s : State) : State × Option Nat :=
  let slot := slotField ⟨r.sym.sfn, r.sym.slot⟩
  let epoch := (s.reg Reg.BKW_EPOCH).toNat
  match s.bkw.occasions.find? fun o => o.cluster == r.cluster && o.carrier == r.carrier && o.slot == slot && o.position == r.position
      && o.occasion == n && o.epoch == epoch with
  | some o => (s, some o.tag)
  | none =>
    let tag := (s.reg Reg.BKW_NEXT_TAG).toNat
    let double := r.allocs.any fun a => a.dmrsDouble && a.dmrs.contains y.sym
    let grid := s.mirrored r.cluster r.block r.ants
    let body := (if double then [(0x2000, grid (prevSym y)), (0x6000, grid y)] else [(0x2000, grid y)])
      ++ [(0xA000, readBytes s.mem (s.gramMirror r.cluster r.block y) 0x3000)]
    let w := s.putRecord 1 7 (s.recordHead (capHead r 1 7 0 0 0 0)) body
    if w.2 then (w.1.onBkw fun b => { b with
        occasions := b.occasions ++ [⟨r.cluster, r.carrier, slot, r.position, n, epoch, tag⟩] }, some tag)
    else (w.1, none)

/-- The sections of a reach record: labels, mask, grid, matched filter. -/
def reachBody (s : State) (r : CapReach) : List (Nat × List Byte) :=
  let places := s.allocPlaces r
  let label (i : Nat) : Option Nat :=
    if places.any fun p => p.1 * 16 + p.2.1 == i then s.labelAt r.cluster r.block r.mu r.sym i else none
  let ls := (List.range 4096).map label
  [(0x100, ls.map fun l => BitVec.ofNat 8 (l.getD 0)), (0x1100, maskBytes (ls.map (·.isSome))),
    (0x2000, s.mirrored r.cluster r.block r.ants r.sym), (0x6000, readBytes s.mem (s.reachMirror r.cluster r.block r.sym) 0x4000)]

/-- Takes a reach off those that wait. -/
def dropCap (r : CapReach) (s : State) : State := s.onBkw fun b => { b with caps := b.caps.filter (· ≠ r) }

/-- A completed reach is captured: an occasion record first where the occasion has none in this epoch, then the reach record;
it is skipped with too few labels (R325), or with no occasion to name. -/
def captureReach (carrier : Nat) (y : SymId) (position : Nat) (s : State) : State :=
  match s.bkw.caps.find? fun r => r.carrier == carrier && r.sym == y && r.position == position with
  | none => s
  | some r =>
    let s := s.dropCap r
    if !s.eligible r then s
    else
      let places := s.allocPlaces r
      let n := (places.filter fun p => (s.labelAt r.cluster r.block r.mu y (p.1 * 16 + p.2.1)).isSome).length
      if n * 256 < bits (s.ctl.inForce Reg.BKW_CAPCFG).toNat 23 16 * places.length then s.capSkip
      else match r.occ with
        | none => s.capSkip
        | some (o, oy) =>
          let body := s.reachBody r
          let t := s.occasionTag r o oy
          match t.2 with
          | none => t.1
          | some link =>
            let flags := (if bitOf r.flags 0 then 2 else 0) + (if bitOf r.flags 2 then 4 else 0)
            (t.1.putRecord 2 5 (t.1.recordHead (capHead r 2 5 flags link y.sym.val n)) body).1

/-! ## Reference-signal images (R329, R330) -/

/-- The received sample of a subcarrier and antenna, from the DRAM ring. -/
def mirrorSample (s : State) (c : CarrierRec) (y : SymId) (i a : Nat) : Cplx := match gridPlace c i with
  | some p => cqPair (BitVec.ofNat 32 (leNat (readBytes s.mem (s.mirrorAddr p.1 p.2.1 y + (p.2.2 * s.gridAnts c + a) * 4) 4)))
  | none => ⟨0, 0⟩

/-- The labelled data resource elements of a resource block in a slot at a layer place: symbol, subcarrier, sent point in units of
2^-24 (R330). -/
def labelledRes (s : State) (carrier rb layer : Nat) (c : CarrierRec) (y : SymId) : List (SymId × Nat × Cplx) :=
  (symsOf (slotField ⟨y.sfn, y.slot⟩)).flatMap fun z =>
    let allocs := ((s.bkw.caps.filter fun r => r.carrier == carrier && r.sym == z).flatMap (·.allocs)).eraseDups
    (List.range 12).filterMap fun j =>
      let i := rb * 12 + j
      match allocs.find? fun a => (dataSubs a z).contains i && decide (a.layerBase.val ≤ layer ∧ layer < a.layerBase.val + a.layers),
        gridPlace c i with
      | some a, some p => (s.labelAt p.1 p.2.1 c.mu.val z (p.2.2 * 16 + layer)).map fun ix =>
          let q := pointOf a.qm ix
          (z, i, ⟨floorRoot (q.1 * 2 ^ 24) q.2.2, floorRoot (q.2.1 * 2 ^ 24) q.2.2⟩)
      | _, _ => none

/-- The layer places of a resource block in a slot. -/
def rbLayers (s : State) (carrier rb : Nat) (y : SymId) : List Nat :=
  ((s.bkw.caps.filter fun r => r.carrier == carrier && r.sym.sfn == y.sfn && r.sym.slot == y.slot).flatMap fun r =>
    (r.allocs.filter fun a => a.res.any fun e => e.2.any fun i => i / 12 == rb).flatMap fun a =>
      (List.range a.layers).map fun l => a.layerBase.val + l).eraseDups

/-- The least-squares channel of an antenna: Σ x* y / Σ |x|², narrowed to CQ16 (R330). -/
def leastSquares (s : State) (c : CarrierRec) (a : Nat) (res : List (SymId × Nat × Cplx)) : Word :=
  let sums := res.foldl (fun (t : Int × Int × Int) e =>
    let v := s.mirrorSample c e.1 e.2.1 a
    let x := e.2.2
    (t.1 + x.re * v.re + x.im * v.im, t.2.1 + x.re * v.im - x.im * v.re, t.2.2 + x.re * x.re + x.im * x.im)) (0, 0, 0)
  let half (n : Int) : Int := (clampS 16 (n * 2 ^ 24 / sums.2.2)).1
  BitVec.ofNat 32 (wrapN 16 (half sums.1) + 65536 * wrapN 16 (half sums.2.1))

/-- An occasion of a stream: its 64 pilot places with their received samples, targets and valid bits. -/
def imgRow (s : State) (carrier port : Nat) (c : CarrierRec) (y : SymId) (pilots : List (Nat × Word)) : ImgRow :=
  let ants := List.range 16
  let place (p : Nat × Word) : List (SymId × Nat × Cplx) :=
    if s.rbLayers carrier (p.1 / 12) y == [port] then s.labelledRes carrier (p.1 / 12) port c y else []
  { pilots := pilots.flatMap fun p => leBytes 4 p.2.toNat
    valid := pilots.map fun p => !(place p).isEmpty
    image := pilots.flatMap fun p => ants.flatMap fun a => leBytes 4
      (if a < s.gridAnts c then (cqWord (s.mirrorSample c y p.1 a)).1.toNat else 0)
    target := pilots.flatMap fun p => let r := place p
      ants.flatMap fun a => leBytes 4 (if a < s.gridAnts c && !r.isEmpty then (s.leastSquares c a r).toNat else 0) }

/-- The window of a stream is full: its record is written (R329). -/
def putImage (w : ImgWin) (s : State) : State :=
  let valid := w.rows.flatMap (·.valid)
  let sec (f : ImgRow → List Byte) : List Byte := w.rows.flatMap f
  (s.putRecord 3 17 (s.recordHead ⟨3, 17, 0, w.carrier, 0, slotField ⟨w.sym.sfn, w.sym.slot⟩, 0, 0, w.ants, 1, w.qm, w.version, w.noise,
      w.delay.toNat, w.doppler.toNat, (valid.filter id).length⟩)
    [(0x100, sec (·.pilots)), (0x1100, maskBytes valid), (0x2000, sec (·.image)), (0x12000, sec (·.target))]).1

/-- An occasion of a privileged stream is taken into its window; the sixteenth completes it (R329, R330). `pilots` are those of the
port in ascending order; 64 count from the one that the register names. An occasion whose grids have left the ring, or with fewer
pilots, is skipped and its window begins again (DESIGN CHOICE, assumption 82). -/
def captureImage (stream : Nat) (y : SymId) (pilots : List (Nat × Word)) (s : State) : State :=
  let cfg := (s.ctl.inForce (Reg.BKW_REFSIG0 + 4 * stream)).toNat
  let carrier := bits cfg 27 24
  let port := bits cfg 23 20
  let ps := (pilots.drop (bits cfg 19 8)).take 64
  let empty (s : State) : State := s.onBkw fun b => { b with wins := tdel b.wins stream }
  match s.carrierOf carrier, bitOf cfg 31 && s.bkwCtl 0 with
  | some c, true =>
    let mu := c.mu.val
    let cap := s.bkw.caps.find? fun r => r.carrier == carrier && r.sym.sfn == y.sfn && r.sym.slot == y.slot
      && r.allocs.any fun a => a.layerBase.val == port
    match cap with
    | none => (empty s).capSkip
    | some r =>
      if ps.length < 64 ∨ s.capLate mu (slotOfSym mu y) ∨ !s.mirrorOn r.cluster mu y then (empty s).capSkip
      else
        let row := s.imgRow carrier port c y ps
        let qm := ((r.allocs.find? fun a => a.layerBase.val == port).map (·.qm)).getD 0
        let w : ImgWin := match tfind s.bkw.wins stream with
          | some w => w
          | none => ⟨y, carrier, r.ants, qm * 16 ^ port, r.version, r.noise, r.delay, r.doppler, []⟩
        let w : ImgWin := { w with rows := w.rows ++ [row] }
        if w.rows.length < 16 then s.onBkw fun b => { b with wins := tset b.wins stream w }
        else (empty s).putImage w
  | _, _ => s

/-- The cache is set up anew (R362). -/
def resetCache (s : State) : State :=
  (s.onBkw fun b => { b with recs := [], occasions := [], wp := 0 }).setReg Reg.BKW_OLDEST_EPOCH (s.reg Reg.BKW_EPOCH)

/-- A write of the cache's place or size is taken (R362). -/
def cacheFree (s : State) : Bool := !s.bkwCtl 0 && !(s.bkw.regions.any fun r => r.2.st == 1 || r.2.st == 3)

/-- A basin reset drops every capture not yet written whose descriptor belongs to the basin (R328): blocks offered for labels, and
reaches with no other allocation to capture. -/
def dropCaptures (b : Nat) (s : State) : State :=
  let s := [0, 1, 2, 3].foldl (fun (s : State) q => s.onQuad q fun w => { w with offered := w.offered.filter fun o => o.basin ≠ b }) s
  s.onBkw fun k => { k with caps := k.caps.filter fun r =>
    !(r.allocs.any fun a => a.capture && a.basin.val == b) || r.allocs.any fun a => a.capture && a.cpOfdm && a.basin.val != b }

end State

/-- CAPTURE (R322 to R335). -/
def execCapture (r : Capture) (s : State) : Host.Outcome State Fault Refusal :=
  s.run fun s => match r with
    | .reach carrier sym position => s.captureReach carrier.val sym position.val
    | .image stream sym pilots => s.captureImage stream.val sym pilots

/-- RE_ENCODE (R323): block `block` of those offered in quad `q`. -/
def execReEncode (q : Fin 4) (block : Nat) (s : State) : Host.Outcome State Fault Refusal :=
  s.run fun s => s.reEncodeBlk q.val block

end Sys2Proof.Machine
end

