-- ==== Sys2Proof/Machine/Train.lean ====
section
/-! DEFINITION. The arithmetic of training (09_backwater_training.md R337 to R345): augmentation of samples, the block formats of the
training state, the update of a committed step, the candidate. -/
namespace Sys2Proof.Machine

/-! ## Block formats (R340, R341; 06 R219 to R222, R233) -/

/-- The elements of a list in chunks of `b`. -/
def chunksOf {α : Type} (b : Nat) (l : List α) : List (List α) :=
  (List.range ((l.length + b - 1) / b)).map fun i => (l.drop (i * b)).take b

/-- A block's element words: raw elements of width 4 or 8, zero beyond the last. -/
def payBytes (w b : Nat) (raws : List Nat) : List Byte :=
  if w = 8 then padTo b (raws.map (BitVec.ofNat 8))
  else (List.range (b / 2)).map fun i => BitVec.ofNat 8 (raws.getD (2 * i) 0 + 16 * raws.getD (2 * i + 1) 0)

/-- A blocked operand of blocks with their headers, as pair records (06 R221). -/
def packBlocks (w b : Nat) : List (Nat × List Nat) → List Byte
  | [] => []
  | [x] => leBytes 4 x.1 ++ payBytes w b x.2
  | x :: y :: t => leBytes 4 (x.1 + 65536 * y.1) ++ payBytes w b x.2 ++ payBytes w b y.2 ++ packBlocks w b t

/-- Words of an operand in bytes. -/
def wordIn (bs : List Byte) (j : Nat) : Word := BitVec.ofNat 32 (fieldAt bs (4 * j) 4)

/-- The operands of a reader with a codebook memory. -/
def bookSrc (cb : Tab Byte) : Src := ⟨[], [], [], [], [], cb, 64, 4, 0⟩

/-- The elements of an operand in bytes. -/
def elemsIn (cb : Tab Byte) (fmt blk n : Nat) (bs : List Byte) : List Dy :=
  (List.range n).map fun k => (elemAt (bookSrc cb) fmt blk (wordIn bs) k).re

/-- The header of block `i` of an operand in bytes. -/
def headIn (fmt blk i : Nat) (bs : List Byte) : Nat := match headOf fmt blk (i * 32 * 2 ^ blk) with
  | some h => (wordIn bs h.1).toNat / 2 ^ (16 * h.2) % 65536
  | none => 0

/-- Entry e of codebook 3 as a BF16 word: the truncation of 2^((e - 255) / 8) (R341). -/
def book3Entry (e : Nat) : Nat :=
  if e = 0 then 0
  else
    let j := (e + 1) % 8
    let m := ((List.range 256).filter fun m => decide (m ^ 8 ≤ 2 ^ j * 128 ^ 8)).length - 1
    (127 - 32 + (e + 1) / 8) * 128 + (m - 128)

/-- A BF16 word's value. -/
def bf16Val (w : Nat) : Dy := (laneFp (BitVec.ofNat 32 (w * 65536))).1

/-- Codebook 3 as book 0 of the 256-entry books. -/
def book3 : Tab Byte := writeBytes [] 0x800 ((List.range 256).flatMap fun e => leBytes 2 (book3Entry e))

/-- The greatest magnitude of some values. -/
def peakOf (xs : List Dy) : Dy := xs.foldl (fun m x => if m.le x.abs then x.abs else m) ⟨0, 0⟩

/-- A block of 64 values in PS8, with round half up (06 R233): header and mantissas. -/
def ps8Block (xs : List Dy) : Nat × List Nat :=
  let m := peakOf xs
  let sh : Int := if m.m = 0 then 0 else max (m.log2 - 6) (-128)
  (wrapN 8 sh * 256, xs.map fun x => wrapN 8 (clampS 8 (Dy.toInt true ⟨x.m, x.e - sh⟩)).1)

/-- The smallest e5m3 code that satisfies a test; the greatest where none does (open: assumption 83). -/
def e5m3Least (ok : Dy → Bool) : Nat := ((List.range 256).find? fun c => ok (e5m3 c)).getD 255

/-- A block of v in CB8 through codebook 3 (R341). -/
def cb8Block (xs : List Dy) : Nat × List Nat :=
  let c := e5m3Least fun s => (peakOf xs).le s
  (c * 256, xs.map fun x => ((List.range 256).filter fun e => ((bf16Val (book3Entry e)).mul (e5m3 c)).le x).length - 1)

/-- Operands of n elements in blocks of 64. -/
def ps8Bytes (xs : List Dy) : List Byte := packBlocks 8 64 ((chunksOf 64 xs).map ps8Block)
def cb8Bytes (xs : List Dy) : List Byte := packBlocks 8 64 ((chunksOf 64 xs).map cb8Block)
def bf16Bytes (ws : List Nat) : List Byte := ws.flatMap fun w => leBytes 2 w

/-! ## The training state (R340; where its parts lie is the model's, assumption 83) -/

/-- Bytes of a tensor's master weights, gradient or first moment, and second moment. -/
def wSize (n : Nat) : Nat := (2 * n + 63) / 64 * 64
def gSize (n : Nat) : Nat := (wordsFor 2 1 n * 4 + 63) / 64 * 64

/-- Offsets of a tensor's weights, gradient, m and v in the training-state area. -/
def tensorAt (ts : List Tensor) (i : Nat) : Nat × Nat × Nat × Nat :=
  let base := ((ts.take i).map fun t => wSize t.n + 3 * gSize t.n).foldl (· + ·) 0
  let n := match ts[i]? with
    | some t => t.n
    | none => 0
  (base, base + wSize n, base + wSize n + gSize n, base + wSize n + 2 * gSize n)

/-- Bytes of a region's gradient buffer, tensor by tensor. -/
def gradSize (ts : List Tensor) : Nat := (ts.map fun t => gSize t.n).foldl (· + ·) 0

/-! ## The update of a committed step (R343) -/

/-- A value narrowed to FP32 with round half up. -/
def f32 (x : Dy) : Dy := (laneFp (fp32Of true false x).1).1

/-- The new weight (BF16), first and second moment of an element from its gradient, moments and weight: m and v enter the weight
before they narrow to their blocks (DEDUCED, assumption 83). -/
def stepElem (u : UpdateRec) (g m v w : Dy) : Nat × Dy × Dy :=
  let clip := e5m3 u.gclip
  let g := if clip.lt g then clip else if g.lt clip.neg then clip.neg else g
  let m := f32 (m.add (f32 ((f32 (g.add m.neg)).mul ⟨1, -(u.k1 : Int)⟩)))
  let v := f32 (v.add (f32 ((f32 ((f32 (g.mul g)).add v.neg)).mul ⟨1, -(u.k2 : Int)⟩)))
  let d := (fp32Of true false (v.add ⟨1, -40⟩)).1
  let r := (laneFp (elemReal 0x19 d false (laneFp d).1).1).1
  let lr := (laneFp u.lr).1
  let x := f32 (w.add (f32 ((f32 (lr.mul m)).mul r)).neg)
  ((bf16Of true false x).1.toNat % 65536, m, v)

/-- The BF16 words of a byte list. -/
def halvesOf (n : Nat) (bs : List Byte) : List Nat := (List.range n).map fun i => fieldAt bs (2 * i) 2

/-- A candidate block from its master weights, with the SEL of the active block (R345). -/
def candBlock (cb : Tab Byte) (fmt sel : Nat) (ws : List Dy) : Nat × List Nat :=
  let entries := if fmt = 0 then 16 else 256
  let entry (e : Nat) : Dy := bf16Val (leNat (readBytes cb (if fmt = 0 then sel % 64 * 0x20 + e * 2 else 0x800 + sel % 4 * 0x200 + e * 2) 2))
  let book := (List.range entries).map entry
  let emax := peakOf book
  let c := if (peakOf ws).m = 0 then 0 else e5m3Least fun s => (peakOf ws).le (s.mul emax)
  let near (w : Dy) : Nat :=
    (book.zipIdx.foldl (fun (best : Option (Dy × Nat)) x =>
      let d := (w.add (x.1.mul (e5m3 c)).neg).abs
      match best with
      | none => some (d, x.2)
      | some b => if d.lt b.1 then some (d, x.2) else some b) none).elim 0 (·.2)
  (sel + 256 * c, ws.map near)

/-- An operand of an image in the weights of a tensor (R345). -/
def candOperand (cb : Tab Byte) (t : Tensor) (old : List Byte) (ws : List Dy) : List Byte :=
  let b := 32 * 2 ^ t.blk.val
  packBlocks (fmtWidth t.fmt.val) b ((chunksOf b ws).zipIdx.map fun x =>
    candBlock cb t.fmt.val (bits (headIn t.fmt.val t.blk.val x.2 old) 7 0) x.1)

/-! ## Augmentation (R337 to R339) -/

/-- hash32 of R339. -/
def hash32 (s i : Nat) : Nat :=
  let m (x : Nat) : Nat := x % 2 ^ 32
  let x := m s ^^^ m (i * 0x9E3779B1)
  let x := x ^^^ (x / 2 ^ 16)
  let x := m (x * 0x85EBCA6B)
  let x := x ^^^ (x / 2 ^ 13)
  let x := m (x * 0xC2B2AE35)
  x ^^^ (x / 2 ^ 16)

/-- The numbers of an augmentation record that change samples. -/
structure Aug where
  delay : Int
  doppler : Int
  phase : Nat
  noise : Nat
  perm : Nat
  mode : Nat
  resize : Nat
  f0 : Nat
  nf : Nat
  t0 : Nat
  nt : Nat
  seed : Nat
  deriving DecidableEq, Repr

/-- The fields of an augmentation record (09, table). -/
def augOf (b : List Byte) : Aug :=
  ⟨sext 16 (fieldAt b 8 2), sext 16 (fieldAt b 10 2), fieldAt b 12 2, fieldAt b 14 1, fieldAt b 15 1, fieldAt b 16 1, fieldAt b 17 1,
    fieldAt b 18 1, fieldAt b 19 1, fieldAt b 20 1, fieldAt b 21 1, fieldAt b 24 4⟩

/-- A sample turned by the phase table's entry for subcarrier `k` and symbol `n` (R339; 05 R205). -/
def turnSample (phases : List Word) (a : Aug) (k n : Nat) (w : Word) : Word :=
  let theta := ((a.delay * k + a.doppler * n + a.phase) % 65536).toNat
  (elemCq 0x03 false w (phases.getD theta 0) 0).1

/-- Floor of √(n / d) with the sign of `neg`. -/
def signedRoot (neg : Bool) (n d : Nat) : Int :=
  let r := isqrt 64 (n / max 1 d)
  if !neg then r else if r * r * d = n then -(r : Int) else -(r : Int) - 1

/-- The noise of one half of a sample in units of 2^-15: (bytes - 510) / 147.8 × noise × σ, narrowed (R339); `mean` is the sum of the
present layers' variances and `cnt` their number. -/
def noiseHalf (a : Aug) (mean : Dy) (cnt u : Nat) : Int :=
  let b : Int := (u % 256 + u / 2 ^ 8 % 256 + u / 2 ^ 16 % 256 + u / 2 ^ 24 % 256 : Nat) - 510
  let q := ((e5m3 a.noise).mul (e5m3 a.noise)).mul mean
  let n := b.natAbs * b.natAbs * 100 * q.m.natAbs * 2 ^ 30
  let d := 1478 * 1478 * max 1 cnt
  if 0 ≤ q.e then signedRoot (decide (b < 0)) (n * 2 ^ q.e.toNat) d else signedRoot (decide (b < 0)) n (d * 2 ^ (-q.e).toNat)

/-- A sample with its noise added, saturated to CQ16. -/
def noisy (a : Aug) (mean : Dy) (cnt seed idx : Nat) (w : Word) : Word :=
  if a.noise = 0 then w
  else
    let half (part : Nat) (v : Int) : Nat := wrapN 16 (clampS 16 (v + noiseHalf a mean cnt (hash32 seed (2 * idx + part)))).1
    BitVec.ofNat 32 (half 0 (cqRe w) + 65536 * half 1 (cqIm w))

/-- The sum of the variances of a record's present layers, and their number. -/
def noiseOf (h : List Byte) : Dy × Nat :=
  let ls := (List.range 16).filter fun l => decide (fieldAt h 28 8 / 16 ^ l % 16 ≠ 0)
  (Dy.sum (ls.map fun l => (laneFp (BitVec.ofNat 32 (fieldAt h (48 + 4 * l) 4))).1), ls.length)

/-- A section of CQ16 samples, `ants` to a place. -/
def sampleIn (bs : List Byte) (off ants place a : Nat) : Word := BitVec.ofNat 32 (fieldAt bs (off + (place * ants + a) * 4) 4)

/-- Samples summed half by half, then shifted with truncation (R339; 06 R234). -/
def meanOf (sh : Nat) (ws : List Word) : Word :=
  let half (f : Word → Int) : Nat := wrapN 16 (((ws.map f).foldl (· + ·) 0) / (2 ^ sh : Nat))
  BitVec.ofNat 32 (half cqRe + 65536 * half cqIm)

/-- The antenna that antenna `a` takes its samples from: row 0 is the identity. -/
def permuted (perm : Tab Byte) (row a : Nat) : Nat := if row = 0 then a else (tget zeroByte perm (row * 16 + a)).toNat % 16

/-- A grid section under a reach's augmentation: permutation, pyramid, phase, noise. `grids` are the section, or the two symbols of
a double-symbol occasion that level 2 averages; `at_` is the section's offset in its record. A place's subcarrier is the first of
those it sums, and a sample's index is its word in the record (DESIGN CHOICE, assumption 83). -/
def augGrid (perm : Tab Byte) (phases : List Word) (a : Aug) (mean : Dy) (cnt seed ants first sym at_ : Nat) (grids : List (List Byte)) :
    List Byte :=
  let lv := bits a.mode 1 0
  let gs := if lv = 2 then grids else grids.take 1
  (List.range 256).flatMap fun i => (List.range ants).flatMap fun x =>
    let src := permuted perm a.perm x
    let w := if 256 ≤ i * 2 ^ lv then 0
      else meanOf (lv + gs.length - 1) (gs.flatMap fun g => (List.range (2 ^ lv)).map fun j =>
        if src < ants then sampleIn g 0 ants (i * 2 ^ lv + j) src else 0)
    let w := if 256 ≤ i * 2 ^ lv then 0
      else noisy a mean cnt seed (at_ / 4 + i * ants + x) (turnSample phases a (first + i * 2 ^ lv) sym w)
    leBytes 4 w.toNat

/-- The place of the record that a place (f, t) of an image's output takes, after crop, flip, turns and resizing (R339). -/
def imagePlace (a : Aug) (f t : Nat) : Option (Nat × Nat) :=
  let size (k : Nat) : Nat × Nat := if k % 2 = 0 then (a.nf, a.nt) else (a.nt, a.nf)
  let turns := bits a.mode 5 4
  let f := f * 8 / max 1 a.resize
  let t := t * 8 / max 1 a.resize
  if (size turns).1 ≤ f ∨ (size turns).2 ≤ t then none
  else
    -- undo the turns one by one: place (x, y) takes input (f := y, t := nt - 1 - x) of the image before
    let p := (List.range turns).foldl (fun (p : Nat × Nat) k => (p.2, (size (turns - 1 - k)).2 - 1 - p.1)) (f, t)
    let f := a.f0 + if bitOf a.mode 2 then a.nf - 1 - p.1 else p.1
    let t := a.t0 + if bitOf a.mode 3 then a.nt - 1 - p.2 else p.2
    if f < 64 ∧ t < 16 then some (f, t) else none

/-- An image record's sections under augmentation, `w` × `h` places: pilots, valid bits, image and target. -/
def augImage (perm : Tab Byte) (phases : List Word) (a : Aug) (mean : Dy) (cnt seed w h : Nat) (rec_ : List Byte) : List Byte :=
  let places := (List.range h).flatMap fun t => (List.range w).map fun f => (f, t, imagePlace a f t)
  let sec (off : Nat) (noise : Bool) : List Byte := places.flatMap fun p => (List.range 16).flatMap fun x => leBytes 4 (match p.2.2 with
    | some q =>
      let v := turnSample phases a p.1 p.2.1 (sampleIn rec_ off 16 (q.2 * 64 + q.1) (permuted perm a.perm x))
      (if noise then noisy a mean cnt seed (off / 4 + (p.2.1 * 64 + p.1) * 16 + x) v else v).toNat
    | none => 0)
  (places.flatMap fun p => leBytes 4 (match p.2.2 with
    | some q => fieldAt rec_ (0x100 + (q.2 * 64 + q.1) * 4) 4
    | none => 0))
  ++ maskBytes (places.map fun p => match p.2.2 with
    | some q => bitOf (fieldAt rec_ 0x1100 128) (q.2 * 64 + q.1)
    | none => false)
  ++ sec 0x2000 true ++ sec 0x12000 false

namespace State

/-- A record is usable where it is named (R337): its bytes. -/
def usable (s : State) (kind entry tag : Nat) : State × Option (List Byte) :=
  match s.bkw.recs.find? fun c => c.granule == entry && c.tag == tag with
  | none => (s, none)
  | some c =>
    let r := s.readMem (s.granuleAddr entry) (c.len * 8192)
    let b := r.2.1
    (r.1, if r.2.2 && fieldAt b 0 4 == 0x4F484F58 && fieldAt b 4 1 == kind && fieldAt b 8 4 == tag
      && fieldAt b 120 4 == (crc32c (b.drop 256)).toNat then some b else none)

/-- The occasion record that a reach record names by tag (R327), where it is usable (R337). -/
def linked (b : List Byte) (s : State) : State × Option (List Byte) :=
  match s.bkw.recs.find? fun c => c.kind == 1 && c.tag == fieldAt b 16 4 with
  | some c => s.usable 1 c.granule c.tag
  | none => (s, none)

/-- A record of a region's kind as a program reads it, with the occasion record of a reach: none where one of them is not usable
(R327, R337). -/
def sampleOf (kind entry tag : Nat) (s : State) : State × Option (List Byte × List Byte) :=
  let x := s.usable kind entry tag
  match x.2 with
  | none => (x.1, none)
  | some b =>
    if kind = 2 then
      let o := x.1.linked b
      (o.1, o.2.map fun o => (b, o))
    else (x.1, some (b, []))

/-- The augmentation record names a held-out record, or a field is wrong for its region's kind (R338). -/
def augWrong (s : State) (kind : Nat) (bs : List Byte) : Bool :=
  let mode := fieldAt bs 16 1
  heldOut (bits (s.ctl.inForce Reg.BKW_CAPCFG).toNat 15 8) (fieldAt bs 4 4)
    || !(if kind = 3 then bits mode 1 0 == 0 && decide (4 ≤ fieldAt bs 17 1 ∧ fieldAt bs 17 1 ≤ 16 ∧ fieldAt bs 18 1 ≤ 63)
          && decide (1 ≤ fieldAt bs 19 1 ∧ fieldAt bs 19 1 ≤ 64 ∧ fieldAt bs 20 1 ≤ 15 ∧ 1 ≤ fieldAt bs 21 1 ∧ fieldAt bs 21 1 ≤ 16)
        else bits mode 1 0 != 3 && bits mode 5 2 == 0 && fieldAt bs 17 5 == 0)

/-- A sample as the training program reads it: its header, then its sections, augmented (R339); `o` is the occasion record of a
reach. -/
def augmented (s : State) (d : RegionDecl) (u : UpdateRec) (aug b o : List Byte) : List Byte :=
  let a := augOf aug
  let n := noiseOf b
  let seed := u.seed.toNat ^^^ a.seed ^^^ fieldAt b 8 4
  let phases := match s.img.file with
    | some f => f.phases
    | none => []
  if d.recordKind = 3 then b.take 0x100 ++ augImage s.bkw.perm phases a n.1 n.2 seed d.width d.height b
  else
    let ants := fieldAt b 26 1
    let first := match s.carrierOf (fieldAt b 7 1) with
      | some r => (posSpan r.group (12 * r.nrb) (if r.group then s.groupRank else 0) (fieldAt b 25 1)).1
      | none => 0
    let g1 := (o.drop 0x2000).take 0x4000
    let g2 := (o.drop 0x6000).take 0x4000
    let double := g2.any (· ≠ 0)
    let grid := augGrid s.bkw.perm phases a n.1 n.2 seed ants first
    let both := if double then [g1, g2] else [g1]
    b.take 0x2000 ++ grid (fieldAt b 24 1) 0x2000 [(b.drop 0x2000).take 0x4000] ++ (b.drop 0x6000).take 0x4000
      ++ grid 0 0x2000 both ++ (if double then grid 0 0x6000 both.reverse else []) ++ (o.drop 0xA000).take 0x3000

/-- The samples of a step: each augmentation record's, in record order, and how many are skipped (R337, R338). -/
def stepSamples (i : Nat) (u : Upd) (d : RegionDecl) (s : State) : State × List (List Byte) × Nat :=
  let r := s.region i
  let first := r.step * u.rec_.batch
  (List.range (min u.rec_.batch (u.rec_.samples - first))).foldl (fun (t : State × List (List Byte) × Nat) j =>
    let a := (u.rec_.source.toNat + (r.epochs * u.rec_.samples + first + j) * 32) % 2 ^ 64
    let b := readG reqWellhead 0 32 t.1 a 32
    if !b.2.2 || b.1.augWrong d.recordKind b.2.1 then (b.1, t.2.1, t.2.2 + 1)
    else
      let x := b.1.sampleOf d.recordKind (fieldAt b.2.1 0 4) (fieldAt b.2.1 4 4)
      match x.2 with
      | some c => (x.1, t.2.1 ++ [x.1.augmented d u.rec_ b.2.1 c.1 c.2], t.2.2)
      | none => (x.1, t.2.1, t.2.2 + 1)) (s, [], 0)

/-! ## The training state in DRAM -/

/-- The DRAM addresses of a region's slot: one for kind 1, one per quad of its set for kind 2 (R315). -/
def slotAddrs (s : State) (d : RegionDecl) (slot : Nat) : List Nat :=
  if d.kind2 then d.quads.map fun q =>
    (s.reg (if slot = 0 then Reg.WEIR_PARAM_A q.val else Reg.WEIR_PARAM_B q.val)).toNat * 64
  else [if slot = 0 then d.slotA else d.slotB]

/-- The bytes of a region's slot: a parameter table, or a model image of the length that its header names. -/
def slotImage (s : State) (d : RegionDecl) (slot : Nat) : List Byte :=
  let a := (s.slotAddrs d slot).headD 0
  readBytes s.mem a (if d.kind2 then 2240 else min 0x100000 (max 0x100 (leNat (readBytes s.mem (a + 0x10) 4))))

/-- An image's codebooks, as codebook memory. -/
def imageBooks (d : RegionDecl) (im : List Byte) : Tab Byte := writeBytes [] 0 ((im.drop d.books).take 0x1000)

/-- Each tensor of a region with its number. -/
def tensors (d : RegionDecl) : List (Tensor × Nat) := d.tensors.zipIdx

/-- The master weights as BF16 words. -/
def masters (s : State) (d : RegionDecl) : List (List Nat) :=
  (tensors d).map fun t => halvesOf t.1.n (readBytes s.mem (d.stateArea + (tensorAt d.tensors t.2).1) (2 * t.1.n))

/-- A TRAIN begins from the active image: the master weights are its decoded weights, m and v are zero (R344). -/
def initState (d : RegionDecl) (active : Nat) (s : State) : State :=
  let im := s.slotImage d active
  let cb := imageBooks d im
  let all := if d.kind2 then Config.tableWeights s.flowTag im else []
  (tensors d).foldl (fun (s : State) t =>
    let at_ := tensorAt d.tensors t.2
    let n := t.1.n
    let before := ((d.tensors.take t.2).map (·.n)).foldl (· + ·) 0
    let ws := if d.kind2 then (List.range n).map fun k => all.getD (before + k) 0
      else (elemsIn cb t.1.fmt.val t.1.blk.val n (im.drop t.1.off)).map fun x => (bf16Of true false x).1.toNat % 65536
    let zeros := List.replicate n (⟨0, 0⟩ : Dy)
    ((s.writeMem (d.stateArea + at_.1) (bf16Bytes ws)).writeMem (d.stateArea + at_.2.2.1) (ps8Bytes zeros)).writeMem
      (d.stateArea + at_.2.2.2) (cb8Bytes zeros)) s

/-- The gradient buffer of a step in the training state. -/
def putGrad (d : RegionDecl) (grad : List Byte) (s : State) : State :=
  (tensors d).foldl (fun (s : State) t =>
    let off := gradSize (d.tensors.take t.2)
    s.writeMem (d.stateArea + (tensorAt d.tensors t.2).2.1) ((grad.drop off).take (gSize t.1.n))) s

/-- The committed step's update of every element (R343). -/
def applyStep (d : RegionDecl) (u : UpdateRec) (s : State) : State :=
  (tensors d).foldl (fun (s : State) t =>
    let at_ := tensorAt d.tensors t.2
    let n := t.1.n
    let part (off size : Nat) : List Byte := readBytes s.mem (d.stateArea + off) size
    let g := elemsIn [] 2 1 n (part at_.2.1 (gSize n))
    let m := elemsIn [] 2 1 n (part at_.2.2.1 (gSize n))
    let v := elemsIn book3 1 1 n (part at_.2.2.2 (gSize n))
    let w := (halvesOf n (part at_.1 (2 * n))).map bf16Val
    let out := ((g.zip m).zip (v.zip w)).map fun x => stepElem u x.1.1 x.1.2 x.2.1 x.2.2
    ((s.writeMem (d.stateArea + at_.1) (bf16Bytes (out.map (·.1)))).writeMem (d.stateArea + at_.2.2.1)
      (ps8Bytes (out.map (·.2.1)))).writeMem (d.stateArea + at_.2.2.2) (cb8Bytes (out.map (·.2.2)))) s

/-- The candidate of a TRAIN (R345): the active image with its tensors formed anew, VERSION plus one, and its CRC. -/
def candidate (s : State) (d : RegionDecl) (active : Nat) : List Byte :=
  let im := s.slotImage d active
  let ws := s.masters d
  let t := writeBytes [] 0 im
  let head := if d.kind2 then 64 else 0x100
  let t := if d.kind2 then writeBytes t head ((Config.tableOf s.flowTag ws.flatten (im.drop head)).take (im.length - head))
    else (tensors d).foldl (fun (t : Tab Byte) x =>
      let b := candOperand (imageBooks d im) x.1 (im.drop x.1.off) ((ws.getD x.2 []).map bf16Val)
      if head ≤ x.1.off ∧ x.1.off + b.length ≤ im.length then writeBytes t x.1.off b else t) t
  let t := writeBytes t 8 (leBytes 8 ((fieldAt im 8 8 + 1) % 2 ^ (if d.kind2 then 64 else 48)))
  let crc := crc32c (readBytes t head (im.length - head))
  readBytes (writeBytes t (if d.kind2 then 16 else 0x14) (leBytes 4 crc.toNat)) 0 im.length

/-- The largest shift of a gradient buffer's blocks (R348). -/
def gradShift (d : RegionDecl) (grad : List Byte) : Int :=
  ((tensors d).flatMap fun t => (List.range ((t.1.n + 63) / 64)).map fun b =>
    sext 8 (headIn 2 1 b (grad.drop (gradSize (d.tensors.take t.2))) / 256)).foldl max (-128)

/-- The result of a step (R351): gradient buffer and loss of the region's training program. -/
def stepResult (s : State) (i : Nat) (d : RegionDecl) (active : Nat) (samples : List (List Byte)) : List Byte × BitVec 64 :=
  let im := s.slotImage d active
  let ws := (s.masters d).map bf16Bytes
  (padTo (gradSize d.tensors) ((Config.trainGrad s.flowTag i im ws samples).take (gradSize d.tensors)),
    Config.trainLoss s.flowTag i im ws samples)

end State

end Sys2Proof.Machine
end

