-- ==== Sys2Proof/Machine/Bkw.lean ====
section
/-! DEFINITION. Backwater (09_backwater_training.md): regions and updates, steps and their replays, validation, commits
and swaps. -/
namespace Sys2Proof.Machine

/-- The fields of an update parameter record (R317). -/
def updRecOf (bs : List Byte) : UpdateRec where
  region := fieldAt bs 0 1
  kind := fieldAt bs 1 1
  epochs := fieldAt bs 2 2
  samples := fieldAt bs 4 4
  source := BitVec.ofNat 64 (fieldAt bs 8 8)
  lr := BitVec.ofNat 32 (fieldAt bs 16 4)
  batch := fieldAt bs 20 1
  k1 := fieldAt bs 21 1
  k2 := fieldAt bs 22 1
  gclip := fieldAt bs 23 1
  pinEpoch := fieldAt bs 24 4
  valCount := fieldAt bs 28 2
  margin := fieldAt bs 30 1
  flags := fieldAt bs 31 1
  swapAt := fieldAt bs 32 4
  seed := BitVec.ofNat 32 (fieldAt bs 36 4)
  reservedZero := fieldAt bs 40 8 == 0

/-- A TRAIN's learning rate is a positive FP32 number (R317). -/
def positiveFp (w : Word) : Bool :=
  match readFp w with
  | .num neg inf v => !neg && !inf && v.m != 0
  | .nan => false

/-- Every field of the record lies in its range (R317). -/
def updOk (r : UpdateRec) : Bool :=
  let val := decide (16 ≤ r.valCount ∧ r.valCount ≤ 4096)
  r.reservedZero && decide (r.region < 16 ∧ r.flags < 4 ∧ r.swapAt < 2 ^ 17)
    && (match r.kind with
      | 1 => decide (1 ≤ r.epochs ∧ r.epochs ≤ 1024 ∧ 1 ≤ r.samples ∧ r.samples ≤ 2 ^ 20 ∧ 1 ≤ r.batch ∧ r.batch ≤ 64)
          && decide (1 ≤ r.k1 ∧ r.k1 ≤ 8 ∧ 1 ≤ r.k2 ∧ r.k2 ≤ 12 ∧ r.gclip ≠ 0) && positiveFp r.lr && val && !bitOf r.flags 1
      | 2 => !bitOf r.flags 1 || val
      | 3 => !bitOf r.flags 1
      | _ => false)

/-- Steps of an epoch (R347). -/
def updSteps (r : UpdateRec) : Nat := (r.samples + r.batch - 1) / max 1 r.batch

/-- A parameter table passes the checks of R295 (08). -/
def tableOk (t : List Byte) : Bool :=
  fieldAt t 0 4 == 0x4F485750 && fieldAt t 4 2 == 1 && fieldAt t 16 4 == (crc32c ((t.drop 64).take 2176)).toNat

/-- A step index is sampled for replay: 1 in 2^log2 (R348). -/
def sampledStep (log2 n : Nat) : Bool := decide (n * 0x9E3779B1 % 2 ^ 32 / 2 ^ (32 - log2) = 0)

/-- Two runs of a step agree (R349). -/
def runsAgree (a b : StepRes) : Bool := crc32c a.grad == crc32c b.grad && a.loss == b.loss

/-- A run ran on other physical cores than another (R349). -/
def otherCores (a : StepRes) (cores : List (Fin 52)) : Bool := !(cores.any fun p => a.cores.contains p)

namespace State

/-- A slot's header passes the checks of R70, or for kind 2 those of R295. -/
def slotGood (s : State) (d : RegionDecl) (slot : Nat) : Bool :=
  (s.slotAddrs d slot).all fun a =>
    if d.kind2 then let r := s.readMem a 2240; r.2.2 && tableOk r.2.1
    else let r := s.slotBytes a; r.2.2 && slotOk s.flowTag none r.2.1

/-- VERSION of a region's slot: bytes 8 to 15 of its header. -/
def slotVersion (s : State) (d : RegionDecl) (slot : Nat) : Nat :=
  match s.slotAddrs d slot with
  | a :: _ => leNat (readBytes s.mem (a + 8) 8)
  | [] => 0

/-- A model update completion (R317; 13, admin event type 2; the layout of its detail is open). -/
def updDone (i code : Nat) (u : Upd) (s : State) : State :=
  let v := match s.regionDecl i with
    | some d => s.slotVersion d (s.region i).active
    | none => 0
  s.adminEvent 2 code u.seq u.mbx (Config.eventDetail 2 [i, v, u.rec_.swapAt])

/-! ## Updates (R319 to R321, R344, R354, R359) -/

/-- Arms a pending swap of a slot for an update that has stopped running. An update whose SWAP_AT boundary has passed by then
completes with SWAP_MISSED, and leaves its image with no pending swap (R359; when it completes: assumption 88). -/
def armSwap (i slot : Nat) (u : Upd) (s : State) : State :=
  let r := s.region i
  if u.missed then (s.event Reg.BKW_STATUS Ev.BKW_SWAP_MISSED).updDone i rcSwapMissed u else
  let s := match r.pend with
    | some (v, _) => (s.count Reg.BKW_SUPERSEDE_CNT 1).updDone i rcSuperseded v
    | none => s
  s.setRegion i { s.region i with pend := some (u, slot) }

/-- An update starts (R320): TRAIN and LOAD run, SWAP arms the inactive slot or fails its header checks. -/
def startUpd (i : Nat) (u : Upd) (s : State) : State :=
  let r := s.region i
  match u.rec_.kind with
  | 1 =>
    let v := match s.regionDecl i with
      | some d => s.slotVersion d r.active
      | none => 0
    let s := if r.stateVer = some v then s
      else match s.regionDecl i with
        | some d => s.initState d r.active
        | none => s
    s.setRegion i { r with
      st := 1, run := some u, epochs := 0, step := 0, n := 0, runs := [], window := none, counted := false, discards := 0
      lastShift := if r.stateVer = some v then r.lastShift else none, stateVer := some v, abort := false }
  | 2 => s.setRegion i { r with st := 2, run := some u, staged := [], abort := false }
  | _ =>
    match s.regionDecl i with
    | some d => if s.slotGood d (1 - r.active) then s.armSwap i (1 - r.active) u else s.updDone i rcModelInvalid u
    | none => s.updDone i rcModelInvalid u

/-- The running update stops running; the queued one starts in the same cycle (R321). A queued SWAP stops at once. -/
def stopUpd (i : Nat) (s : State) : State :=
  let r := s.region i
  let s := s.setRegion i { r with st := 0, run := none, queue := none, window := none, runs := [], staged := [], vals := [], writing := false, abort := false }
  match r.queue with
  | some u => s.startUpd i u
  | none => s

/-- The running update ends without a commit. -/
def failUpd (i code : Nat) (s : State) : State :=
  match (s.region i).run with
  | some u => (s.updDone i code u).stopUpd i
  | none => s

/-- An update arrives (R317 to R320): the response code. -/
def takeUpdate (m seq : Nat) (rec_ : UpdateRec) (s : State) : State × Nat :=
  if !updOk rec_ then (s, rcUpdBad)
  else if (s.regionDecl rec_.region).isNone || (rec_.kind == 1 && !s.bkwCtl 1) then (s, rcState)
  else
    let i := rec_.region
    let r := s.region i
    let u : Upd := ⟨rec_, m, seq, false⟩
    match r.run, r.queue with
    | none, _ => (s.startUpd i u, rcAccepted)
    | some _, none => (s.setRegion i { r with queue := some u }, rcAccepted)
    | some _, some _ => (s, rcModelBusy)

/-- A region's updates end as TRAIN_EN is cleared (R360): at a step boundary, at once where no run of a step is in
progress. -/
def abortTrain (i : Nat) (s : State) : State :=
  let isTrain (u : Option Upd) : Bool := match u with
    | some x => x.rec_.kind == 1
    | none => false
  let r := s.region i
  if isTrain r.run && r.st == 1 && r.window.isSome then s.setRegion i { r with abort := true }
  else
    let s := if isTrain r.queue then
        match r.queue with
        | some u => (s.setRegion i { r with queue := none }).updDone i rcAborted u
        | none => s
      else s
    if isTrain r.run && r.st == 1 then s.failUpd i rcAborted else s

/-- The step boundary of an update that TRAIN_EN has ended. -/
def stepBoundary (i : Nat) (s : State) : State :=
  if (s.region i).abort then
    (s.setRegion i { s.region i with abort := false }).abortTrain i
  else s

/-- The validation of an update begins, on the newest held-out records (R352). -/
def startVal (i : Nat) (u : Upd) (s : State) : State :=
  s.setRegion i { s.region i with st := 3, vals := s.valSet i u }

/-! ## Epochs (R333) -/

/-- The epoch carrier: the lowest-numbered carrier whose uplink function is started. -/
def epochCarrier (s : State) : Option CarrierRec :=
  if bitOf s.func.started 0 then (s.func.applied.find? fun c => c.2.uplink).map (·.2) else none

/-- The epoch advances by one. -/
def advanceEpoch (s : State) : State := (s.onBkw fun b => { b with slots := 0, advPend := false }).count Reg.BKW_EPOCH 1

/-- A slot boundary of numerology μ for the epoch count; without an uplink carrier a pending advance takes effect at a
subframe boundary. -/
def epochSlot (mu : Nat) (s : State) : State :=
  match s.epochCarrier with
  | some c =>
    if c.mu.val = mu then
      let s := s.onBkw fun b => { b with slots := b.slots + 1 }
      let len := (s.reg Reg.BKW_EPOCH_LEN).toNat
      if s.bkw.advPend || (len != 0 && decide (len ≤ s.bkw.slots)) then s.advanceEpoch else s
    else s
  | none => if mu = 0 && s.bkw.advPend then s.advanceEpoch else s

/-! ## Steps (R337, R338, R346 to R350) -/

/-- The samples of a step that are skipped are counted, once for each step. -/
def countSkips (i : Nat) (u : Upd) (s : State) : State :=
  match s.regionDecl i with
  | none => s
  | some d =>
    let x := s.stepSamples i u d
    let s := if x.2.2 = 0 then x.1
      else (List.range x.2.2).foldl (fun (s : State) _ => (s.count Reg.BKW_AUG_SKIP_CNT 1).event Reg.BKW_STATUS Ev.BKW_AUG_SKIP) x.1
    s.setRegion i { s.region i with counted := true }

/-- A step window opens on core `p`, inside the Backwater allowance (R346; 14 R539). -/
def stepStart (p i window : Nat) (s : State) : State :=
  let r := s.region i
  match r.run with
  | none => s
  | some u =>
    if r.st ≠ 1 || r.window.isSome || s.bkwCtl 3 then s
    else if !s.allowed 0 p 1 window then s.bgDeny
    else
      let s := s.charge 0 p 1 window
      let s := if r.counted then s else s.countSkips i u
      s.setRegion i { s.region i with window := some p }

/-- A step window closes before the run has ended (R346). -/
def stepCut (i : Nat) (s : State) : State :=
  let r := s.region i
  if r.window.isSome then
    let s := s.setRegion i { r with window := none }
    ((s.count Reg.BKW_STEP_CUT_CNT 1).event Reg.BKW_STATUS Ev.BKW_STEP_CUT).stepBoundary i
  else s

/-- The next step, or the end of the last epoch. -/
def nextStep (i : Nat) (u : Upd) (s : State) : State :=
  let r := s.region i
  let last := decide (updSteps u.rec_ ≤ r.step + 1)
  let epochs := if last then r.epochs + 1 else r.epochs
  let s := s.setRegion i { r with
    step := if last then 0 else r.step + 1
    n := r.n + 1
    epochs := epochs
    runs := []
    counted := false }
  let s := if last ∧ u.rec_.epochs ≤ epochs then s.startVal i u else s
  s.stepBoundary i

/-- A run's result commits (R343, R347): its gradient goes into the training state, and every element is updated. -/
def commitStep (i : Nat) (u : Upd) (d : RegionDecl) (x : StepRes) (s : State) : State :=
  let s := ((s.putGrad d x.grad).applyStep d u.rec_).count Reg.BKW_STEP_CNT 1
  (s.setRegion i { s.region i with lastShift := some (gradShift d x.grad) }).nextStep i u

/-- A leaf core has CHK or ERR set (R348; 04 R130, R151). -/
def coreChk (s : State) (p : Nat) : Bool :=
  let c := s.core p
  bitOf c.flags 2 || bitOf c.flags 3

/-- A run makes its step suspect (R348; 15 R569). -/
def suspectStep (s : State) (r : Region) (d : RegionDecl) (x : StepRes) : Bool :=
  let cfg := (s.ctl.inForce Reg.BKW_REPLAY_CFG).toNat
  let log2 := bits cfg 3 0
  let jump := match r.lastShift with
    | some l => decide (l + (bits cfg 11 8 : Nat) < gradShift d x.grad)
    | none => false
  let every (k : Nat) : Nat := if log2 = 0 then k else min k log2
  let sampled := match s.flt.check with
    | 50 => true
    | 25 => sampledStep (every 2) r.n
    | 6 => sampledStep (every 4) r.n
    | _ => log2 != 0 && sampledStep log2 r.n
  x.cores.any (fun p => s.coreChk p.val) || jump || sampled

/-- The result of a run (R351): that of the training program on the step's samples, with what errors have changed. -/
def runResult (i : Nat) (u : Upd) (d : RegionDecl) (x : StepRun) (s : State) : State × StepRes :=
  let y := s.stepSamples i u d
  let r := y.1.stepResult i d (y.1.region i).active y.2.1
  let grad := r.1.zipIdx.map fun b => x.flips.foldl (fun v f => if f.1 = b.2 then v ^^^ f.2 else v) b.1
  (y.1, ⟨grad, r.2 ^^^ x.lossFlip, x.cores⟩)

/-- A run ends: commit, replay, third run, or discard (R347 to R350). A replay that used a core of an earlier run is no replay: it
runs again (R349). -/
def stepEnd (i : Nat) (x : StepRun) (s : State) : State :=
  let r := s.region i
  match r.run, s.regionDecl i with
  | some u, some d =>
    if r.st ≠ 1 || r.window.isNone then s
    else
      let s := s.setRegion i { r with window := none }
      if !(r.runs.all fun a => otherCores a x.cores) then s
      else
        let y := s.runResult i u d x
        let s := y.1
        let x := y.2
        let again (s : State) : State := (s.setRegion i { s.region i with runs := r.runs ++ [x] }).count Reg.BKW_REPLAY_CNT 1
        let outvote (bad : StepRes) (s : State) : State :=
          let s := (s.count Reg.BKW_DISAGREE_CNT 1).event Reg.BKW_STATUS Ev.BKW_DISAGREE
          bad.cores.foldl (fun (s : State) p => s.suspect p.val) s
        match r.runs with
        | [] => if s.suspectStep r d x then again s else s.commitStep i u d x
        | [a] => if runsAgree a x then s.commitStep i u d a else again s
        | a :: b :: _ =>
          if runsAgree a x then (outvote b s).commitStep i u d a
          else if runsAgree b x then (outvote a s).commitStep i u d b
          else
            let s := s.event Reg.BKW_STATUS Ev.BKW_STEP_DISCARD
            let k := (s.region i).discards + 1
            let s := s.setRegion i { s.region i with discards := k }
            if 2 ≤ k then s.failUpd i rcStepFault else s.nextStep i u
  | _, _ => s

/-! ## Staging, validation, commit (R345, R352 to R356) -/

/-- The image of a LOAD has been copied and is checked (R354). -/
def staging (i : Nat) (readOk : Bool) (s : State) : State :=
  let r := s.region i
  match r.run, s.regionDecl i with
  | some u, some d =>
    if r.st ≠ 2 then s
    else
      let src := u.rec_.source.toNat
      let h := readG reqWellhead 0 0x100 s src 0x100
      let n := if d.kind2 then 2240 else min 0x100000 (max 0x100 (fieldAt h.2.1 0x10 4))
      let b := readG reqWellhead 0 n h.1 src n
      let ok := readOk && h.2.2 && b.2.2
        && (if d.kind2 then tableOk b.2.1 else slotOk b.1.flowTag (some d.modelId.toNat) b.2.1)
      if ok then
        let s := b.1.writeMem d.stateArea b.2.1
        let s := s.setRegion i { s.region i with staged := b.2.1, st := 4, stateVer := none }
        if bitOf u.rec_.flags 1 then s.startVal i u else s
      else b.1.failUpd i rcModelInvalid
  | _, _ => s

/-- What a commit writes and a validation tries: the staged image of a LOAD, or the candidate of a TRAIN (R345). -/
def newImage (s : State) (i : Nat) (d : RegionDecl) : List Byte :=
  let r := s.region i
  if r.staged.isEmpty then s.candidate d r.active else r.staged

/-- The samples of a validation (R352): the held-out records with no augmentation; one whose read fails is not used (R337). -/
def valSamples (i : Nat) (s : State) : State × List (List Byte) :=
  (s.region i).vals.foldl (fun (t : State × List (List Byte)) c =>
    let x := t.1.sampleOf c.kind c.granule c.tag
    match x.2 with
    | some b => (x.1, t.2 ++ [b.1 ++ b.2])
    | none => ((x.1.count Reg.BKW_AUG_SKIP_CNT 1).event Reg.BKW_STATUS Ev.BKW_AUG_SKIP, t.2)) (s, [])

/-- Validation ends (R351 to R354): the region's validation program on the new image and on the active one. -/
def validated (i : Nat) (s : State) : State :=
  let r := s.region i
  match r.run, s.regionDecl i with
  | some u, some d =>
    if r.st ≠ 3 || s.bkwCtl 3 then s
    else
      let v := s.valSamples i
      let s := v.1
      if v.2.length < 16 then s.failUpd i rcValShort
      else
        let new := s.newImage i d
        let old := s.slotImage d r.active
        let err (im : List Byte) : Nat := (Config.valErrors s.flowTag i im v.2).toNat
        let loss (im : List Byte) : Nat := (Config.valLoss s.flowTag i im v.2).toNat
        if err new * 256 ≤ err old * (256 - u.rec_.margin) ∧ loss new ≤ loss old then s.setRegion i { r with st := 4 }
        else ((s.count Reg.BKW_REJECT_CNT 1).event Reg.BKW_STATUS Ev.BKW_REJECTED).failUpd i rcRejected
  | _, _ => s

/-- A commit begins to write the inactive slot, once no swap of the region is latched; a pending swap is superseded
(R355, R356). -/
def commitBegin (i : Nat) (s : State) : State :=
  let r := s.region i
  if r.st ≠ 4 || r.writing || r.latch.isSome || s.bkwCtl 3 then s
  else
    let s := match r.pend with
      | some (v, _) => (s.count Reg.BKW_SUPERSEDE_CNT 1).updDone i rcSuperseded v
      | none => s
    s.setRegion i { s.region i with pend := none, writing := true }

/-- The last byte of the slot is written: the commit arms its swap and the update stops running (R356). -/
def commitEnd (i : Nat) (s : State) : State :=
  let r := s.region i
  match r.run, s.regionDecl i with
  | some u, some d =>
    if r.st ≠ 4 || !r.writing || s.bkwCtl 3 then s
    else
      let slot := 1 - r.active
      let im := s.newImage i d
      let s := (s.slotAddrs d slot).foldl (fun (s : State) a => s.writeMem a im) s
      let s := if u.rec_.kind = 1 then s.setRegion i { s.region i with stateVer := some (s.slotVersion d slot) } else s
      (s.armSwap i slot u).stopUpd i
  | _, _ => s

/-! ## Swaps (R357 to R359) -/

/-- The slot after the present one of numerology μ, as a slot field. -/
def nextSlotField (s : State) (mu : Nat) : Nat :=
  let n := s.time.slotOf mu + 1
  if n < 10 * 2 ^ mu then s.time.sfn * 128 + n else (s.time.sfn + 1) % 1024 * 128

/-- The regions of a numerology. -/
def regionsOf (s : State) (mu : Nat) : List (Nat × RegionDecl) :=
  match s.img.file with
  | some f => (f.regions.zipIdx.map fun x => (x.2, x.1)).filter fun x => x.2.mus.any fun m => m.val == mu
  | none => []

/-- The latch lead in 2^-40 ns (R361). -/
def swapLead (s : State) : Nat := min 100000 (max 20000 (s.reg Reg.BKW_SWAP_LEAD).toNat) * 2 ^ 40

/-- The last tick has passed the latch point of numerology μ: the lead before its next slot boundary (R357). -/
def latchDue (s : State) (mu : Nat) : Bool :=
  let len := 1000000 * 2 ^ 40 / 2 ^ mu
  let ahead := len - s.time.inFrame % len
  decide (ahead ≤ s.swapLead ∧ s.swapLead < ahead + s.time.step)

/-- The latch point before a slot boundary of numerology μ (R357). -/
def latchSwaps (mu : Nat) (s : State) : State :=
  let b := s.nextSlotField mu
  if !s.latchDue mu then s else
  (s.regionsOf mu).foldl (fun (s : State) x =>
    let r := s.region x.1
    match r.pend with
    | none => s
    | some (u, slot) =>
      if (r.writing && slot != r.active) || (bitOf u.rec_.flags 0 && u.rec_.swapAt != b) || r.latch.isSome then s
      else
        let l : State × Bool :=
          if x.2.kind2 then
            ((x.2.quads.foldl (fun (s : State) q => s.setReg (Reg.WEIR_PARAM_SEL q.val) (BitVec.ofNat 32 slot)) s), s.slotGood x.2 slot)
          else x.2.clusters.foldl (fun (a : State × Bool) c =>
            let l := a.1.loadModel c.val ((a.1.slotAddrs x.2 slot).headD 0)
            (l.1, a.2 && l.2)) (s, true)
        l.1.setRegion x.1 { l.1.region x.1 with pend := none, latch := some (u, slot, b, l.2) }) s

/-- A slot boundary of numerology μ: latched swaps take effect, SWAP_AT boundaries pass (R358, R359). -/
def takeSwaps (mu : Nat) (s : State) : State :=
  let now := s.slotField' mu
  (s.regionsOf mu).foldl (fun (s : State) x =>
    let passed (u : Upd) : Bool := bitOf u.rec_.flags 0 && u.rec_.swapAt == now
    let pass (u : Upd) : Upd := { u with missed := u.missed || passed u }
    let r := s.region x.1
    let s := if r.run.any passed || r.queue.any passed then s.setRegion x.1 { r with run := r.run.map pass, queue := r.queue.map pass } else s
    let r := s.region x.1
    let s := match r.pend with
      | some (u, _) =>
        if passed u then
          ((s.setRegion x.1 { r with pend := none }).event Reg.BKW_STATUS Ev.BKW_SWAP_MISSED).updDone x.1 rcSwapMissed u
        else s
      | none => s
    match r.latch with
    | none => s
    | some (u, slot, b, ok) =>
      if b ≠ now then s
      else
        let s := s.setRegion x.1 { s.region x.1 with latch := none }
        if ok then
          let s := s.setRegion x.1 { s.region x.1 with active := slot }
          let s := if x.2.kind2 then s
            else x.2.clusters.foldl (fun (s : State) c => s.switchModel c.val mu (now / 128) (now % 128)) s
          ((s.count Reg.BKW_SWAP_CNT 1).event Reg.BKW_STATUS Ev.BKW_SWAPPED).updDone x.1 rcSwapped u
        else s.updDone x.1 rcModelInvalid u) s

/-- BKW.REGION_STATE of a region. -/
def regionState (s : State) (i : Nat) : Nat :=
  let r := s.region i
  let kind := match r.run with
    | some u => u.rec_.kind
    | none => 0
  let b (x : Bool) (k : Nat) : Nat := if x then 2 ^ k else 0
  r.epochs % 65536 * 65536 + kind * 256 + r.active * 64 + b r.latch.isSome 5 + b r.pend.isSome 4 + b r.queue.isSome 3 + r.st

/-- Every update of every region ends as the image is replaced or a carrier change removes the region (R318, table
"Update completions"). -/
def abortUpdates (s : State) : State :=
  s.bkw.regions.foldl (fun (s : State) x =>
    let r := s.region x.1
    let us := r.run.toList ++ r.queue.toList ++ (r.pend.map (·.1)).toList ++ (r.latch.map (·.1)).toList
    let s := s.setRegion x.1 { Region.reset with active := r.active, stateVer := r.stateVer }
    us.foldl (fun (s : State) u => s.updDone x.1 rcAborted u) s) s

end State

/-! ## The commands of the background -/

/-- STEP_END (R347 to R350). -/
def execStepEnd (region : Fin 16) (r : StepRun) (s : State) : Host.Outcome State Fault Refusal := s.run (State.stepEnd region.val r)

/-- STAGING_DONE (R354). -/
def execStagingDone (region : Fin 16) (readOk : Bool) (s : State) : Host.Outcome State Fault Refusal :=
  s.run (State.staging region.val readOk)

/-- VALIDATION_DONE (R351 to R354). -/
def execValidationDone (region : Fin 16) (s : State) : Host.Outcome State Fault Refusal := s.run (State.validated region.val)

/-- COMMIT (R355, R356). -/
def execCommit (region : Fin 16) (s : State) : Host.Outcome State Fault Refusal := s.run (State.commitBegin region.val)

/-- COMMIT_DONE (R345, R356). -/
def execCommitDone (region : Fin 16) (s : State) : Host.Outcome State Fault Refusal := s.run (State.commitEnd region.val)

/-- SWAP_LATCH (R357). -/
def execSwapLatch (mu : Fin 4) (s : State) : Host.Outcome State Fault Refusal := s.run (State.latchSwaps mu.val)

end Sys2Proof.Machine
end

