-- ==== Sys2Proof/Machine/Launch.lean ====
section
/-! DEFINITION. What a launch starts beside the gated bundle: receiver and transmit stage slots, Backwater windows, test
segments (02 R54, 03 R104, 09 R346, 15 R574 to R577), and what an abandoning gate cuts (04 R155). -/
namespace Sys2Proof.Machine

/-- A range of a core's contents as a spill writes it (14 R544). -/
def liveOf (c : Core) (r : LiveRange) : LiveData :=
  match r with
  | .lm off len => ⟨r, readBytes c.lm off len, [], 0⟩
  | .tile t => ⟨r, [], (List.range 4096).map fun i => (c.tile t.val).word (i / 64) (i % 64), 0⟩
  | .ls wa len =>
    ⟨r, [], (List.range len).flatMap fun j => (List.range 64).map fun i => lsWord c.ls i (wa + j), lsFormat c.lsFmt wa⟩
  | .er e => ⟨r, [], c.er.getD e.val [], 0⟩
  | .cb off len => ⟨r, readBytes c.cb off len, [], 0⟩

/-- Restores a live range (14 R545, 15 R565). -/
def restoreLive (c : Core) (d : LiveData) : Core :=
  match d.range with
  | .lm off _ => c.writeLm off 0 d.bytes
  | .tile t => c.setTile t.val ⟨d.words.zipIdx.foldl (fun (w : Tab Word) (x : Word × Nat) => tset w x.2 x.1) [], .free, none⟩
  | .ls wa len =>
    (List.range len).foldl (fun (c : Core) j => c.writeLs (wa + j) d.fmt (2 ^ 64 - 1) ((d.words.drop (64 * j)).take 64)) c
  | .er e => { c with er := c.er.set e.val d.words }
  | .cb off _ =>
    let n := State.raiseBooks off d.bytes.length (c.n16, c.n256)
    { c with cb := writeBytes c.cb off d.bytes, n16 := n.1, n256 := n.2 }

/-- Bytes of a live range as they stand in memory: 4 for each word. -/
def rangeSize : LiveRange → Nat
  | .lm _ n => n
  | .cb _ n => n
  | .tile _ => 16384
  | .ls _ n => n * 256
  | .er _ => 256

/-- The contents of a live range as bytes hold them. -/
def rangeData (bs : List Byte) (fmt : Nat) (r : LiveRange) : LiveData :=
  match r with
  | .lm _ n => ⟨r, bs.take n, [], 0⟩
  | .cb _ n => ⟨r, bs.take n, [], 0⟩
  | _ => ⟨r, [], wordsOf (rangeSize r / 4) bs, fmt⟩

namespace State

/-- The part of the loaded image for a logical core. -/
def coreImage (s : State) (k : Nat) : Option CoreImage :=
  match s.img.file with
  | some f => f.cores.find? fun i => i.core.val == k
  | none => none

/-- The cheap point of core `p` at bundle `b`, as the image lists it (14 R544; 15 R565). -/
def cheapAt (s : State) (k b : Nat) : Option CheapPoint := (s.coreImage k).bind fun i => i.cheap.find? fun c => c.at_.val == b

/-! ## In-field test (15 R574 to R577) -/

/-- Updates fault handling. -/
def onFlt (f : Flt → Flt) (s : State) : State := { s with flt := f s.flt }

/-- The next enabled and unfenced core from `p` upward, with wrap-around (R577). -/
def nextCore (s : State) (p : Nat) : Nat :=
  (((List.range 52).map fun i => (p + i) % 52).find? fun q => !s.coreFenced q && !s.fuses.disabled.any (fun d => d.val == q)).getD p

/-- The core and segment that the test takes next: queued cores first, a mismatched segment again (R576, R577). -/
def testNext (s : State) : Nat × Nat :=
  let t := match s.flt.queue.find? fun p => !s.coreFenced p with
    | some p => (p, s.flt.qseg)
    | none => let p := s.nextCore s.flt.next.1; (p, if p = s.flt.next.1 then s.flt.next.2 else 0)
  match s.flt.mism.find? fun m => m.1 == t.1 with
  | some m => m
  | none => t

/-- FAULT.TEST_POS shows the segment under test. -/
def showTest (p seg : Nat) (running : Bool) (s : State) : State :=
  s.setReg Reg.FAULT_TEST_POS (BitVec.ofNat 32 (p + seg * 256 + if running then 32768 else 0))

/-- While a segment runs on core `p`, and after it, what it may write holds values that nothing fixes (R575). -/
def soil (p : Nat) (s : State) : State :=
  match (s.logOf p).bind s.coreImage with
  | some i =>
    let f := s.free
    let data (r : LiveRange) : LiveData :=
      rangeData ((List.range (rangeSize r)).map fun n => Config.testByte f.1 n) ((Config.testByte f.1 (rangeSize r)).toNat % 16) r
    f.2.onCore p fun c => (i.test.map data).foldl restoreLive c
  | none => s

/-- A test window opens on core `p` (R574). -/
def testStart (p seg window : Nat) (s : State) : State :=
  if !bitOf (s.ctl.inForce Reg.FAULT_TEST_CFG).toNat 0 || s.flt.test.isSome || s.testNext != (p, seg) then s
  else if !s.allowed 0 p 2 window then s.bgDeny
  else (((s.charge 0 p 2 window).onFlt fun f => { f with test := some (p, seg) }).showTest p seg true).soil p

/-- The window closes first: the segment runs again later (R576). -/
def testCut (p : Nat) (s : State) : State :=
  match s.flt.test with
  | some (q, seg) => if q = p then ((s.onFlt fun f => { f with test := none }).showTest p seg false).soil p else s
  | none => s

/-- The test moves on after a segment of core `p`. -/
def testMoves (p seg : Nat) (s : State) : State :=
  let done := decide (3 ≤ seg)
  s.onFlt fun f =>
    if f.queue.head? = some p then (if done then { f with queue := f.queue.drop 1, qseg := 0 } else { f with qseg := seg + 1 })
    else { f with next := if done then ((p + 1) % 52, 0) else (p, seg + 1) }

/-- A segment compares its signature (R576). -/
def testEnds (p : Nat) (sig want : BitVec 64) (s : State) : State :=
  match s.flt.test with
  | none => s
  | some (q, seg) =>
    if q ≠ p then s
    else
      let s := ((s.onFlt fun f => { f with test := none }).showTest p seg false).soil p
      let again := s.flt.mism.contains (p, seg)
      if sig = want then
        ((s.count Reg.FAULT_TEST_PASS_CNT 1).onFlt fun f => { f with mism := f.mism.filter (· ≠ (p, seg)) }).testMoves p seg
      else
        let s := s.count Reg.FAULT_TEST_FAIL_CNT 1
        if !again then (s.onFlt fun f => { f with mism := f.mism ++ [(p, seg)] }).suspect p
        else
          let s := s.event Reg.FAULT_STATUS Ev.FAULT_TEST_FAIL
          let s := s.onCore p fun c => c.raise Ev.COREFW_SELFTEST_FAIL 0 c.pc 0
          let s := s.logPut ownKey 7 2 p ((s.core p).reg cFAULTWORD) (BitVec.ofNat 32 seg) 0 0
          (s.onFlt fun f => { f with mism := f.mism.filter (· ≠ (p, seg)) }).testMoves p seg

/-- A known-answer block ends on a Weir unit: a wrong answer twice in a row sets the unit's bit (R577). -/
def katEnds (q unit : Nat) (ok : Bool) (s : State) : State :=
  let k := q * 16 + unit
  let on := if unit < 6 then s.fence 1 (6 * q + unit) == 0 && s.allowed 3 (6 * q + unit) 2 1
    else s.fence 2 (2 * q + unit - 6) == 0 && s.allowed 4 (2 * q + unit - 6) 2 1
  if !on || !bitOf (s.ctl.inForce Reg.FAULT_TEST_CFG).toNat 0 then s
  else if ok then s.onFlt fun f => { f with kat := f.kat.filter (· ≠ k) }
  else if s.flt.kat.contains k then
    (s.onFlt fun f => { f with kat := f.kat.filter (· ≠ k) }).event (Reg.WEIR_FAULTWORD q)
      (if unit < 6 then Ev.WEIRFW_ENGINE_UNCORR + unit else Ev.WEIRFW_ENC_UNCORR + (unit - 6))
  else s.onFlt fun f => { f with kat := f.kat ++ [k] }

/-! ## Scheduled work -/

/-- The work that begins with the gated bundle on core `p`, launched for time `t`. -/
def launchWork (p t : Nat) (w : LaunchWork) (s : State) : State :=
  match w with
  | .plain => s
  | .occasionF c mu y slot bad => s.occasionF p t c.val mu.val y slot bad
  | .occasionD1 c mu y k => s.occasionD1 p t c.val mu.val y k
  | .stageF c mu k y allocs bad => s.stageF p t c.val mu.val k y allocs bad
  | .stageD c mu k y stage mism => s.stageD p t c.val mu.val k y stage.val mism
  | .stageM c mu k y mism => s.stageM p t c.val mu.val k y mism
  | .fallbackAssign c mu y => s.assignFallbacks p t c.val mu.val y
  | .fallbackM c mu y j => s.fallbackM p t c.val mu.val y j
  | .replaySlot c mu k y differ => s.replayEnd p t c.val mu.val k y differ
  | .control carrier slot items => s.controlEncode p carrier.val slot items
  | .stageX c mu y ctl => s.stageX p c.val mu.val y ctl
  | .stageP c mu y j bad => s.stageP p c.val mu.val y j bad
  | .rerunP c mu y => s.rerunP p c.val mu.val y
  | .stepStart r window => s.stepStart p r.val window
  | .testStart seg window => s.testStart p seg.val window

/-- What a stage slot launched for time `t` loses whose core is fenced, stands still or missed its launch (02, table "Reaches
that produce no detected LLRs"; 01 R27). -/
def missedWork (p t : Nat) (w : LaunchWork) (s : State) : State :=
  match w with
  | .stageF c mu k y allocs _ => s.lostF p t c.val mu.val k y allocs
  | .stageD c mu k y _ _ => s.lateReach p c.val mu.val k y
  | .stageM c mu k y _ => s.lateReach p c.val mu.val k y
  | .fallbackM c mu y j =>
    match (s.rxOf c.val).live.find? fun x => x.mu == mu.val && x.sym == y && x.slot == some j with
    | some x => s.lateReach p c.val mu.val x.k y
    | none => s
  | .replaySlot c mu k y _ => s.lateReach p c.val mu.val k y
  | _ => s

/-- A core that cannot reach its gate: halted or without power. -/
def standsStill (s : State) (p : Nat) : Bool := match (s.core p).run with
  | .halted _ => true
  | .unpowered => true
  | _ => false

/-- A background window that its allowance refuses (14 R538, R539). -/
def refusedWindow (s : State) (p : Nat) (w : LaunchWork) : Bool :=
  match w with
  | .stepStart _ n => !s.allowed 0 p 1 n
  | .testStart _ n => !s.allowed 0 p 2 n
  | _ => false

/-- The work that a gate can start: a test segment only at an abandoning one (15 R574). -/
def workAt (g : Gate) (w : LaunchWork) : LaunchWork :=
  match w with
  | .testStart seg n => if g.abn then .testStart seg n else .plain
  | w => w

/-- GATE_LAUNCH. -/
def gateLaunches (p : Nat) (w : LaunchWork) (s : State) : State :=
  let due := s.launchNow (s.core p).gate
  let t := (s.core p).gate.time.toNat
  let w := workAt (s.core p).gate w
  if due && s.refusedWindow p w && waitsAtGate (s.core p) then s.bgDeny
  else
    let r := s.launchCore p
    if r.2 then r.1.launchWork p t w else if due && (s.coreFenced p || s.standsStill p) then r.1.missedWork p t w else r.1

/-- GATE_LATE: the late gate acts and its work begins, or a gate that missed loses it (12 R476, R477). -/
def gateLates (p : Nat) (w : LaunchWork) (s : State) : State :=
  let c := s.core p
  let t := c.gate.time.toNat
  if c.gate.armed && c.gate.late && !c.gate.opened then
    let r := s.lateCore p
    let g := (r.core p).gate
    if g.armed && g.late && !g.opened then r else r.launchWork p t w
  else if c.run == .halted .missed then s.missedWork p t w
  else s

/-- ABANDONING_GATE. -/
def gateAbandons (p : Nat) (w : AbandonWork) (s : State) : State :=
  let r := s.abandonCore p
  if !r.2 then r.1
  else
    match w with
    | .none => r.1
    | .stageOverrun c mu k y => r.1.lateReach p c.val mu.val k y
    | .stepCut i => r.1.stepCut i.val
    | .stepStart i window => r.1.stepStart p i.val window
    | .testStart seg window => r.1.testStart p seg.val window
    | .testCut => r.1.testCut p

end State

/-- GATE_LAUNCH (01 R30; 12 R474, R475): the launch of core `p`'s gate comes, with the scheduled work of its slot. -/
def execGateLaunch (p : Fin 52) (work : LaunchWork) (s : State) : Host.Outcome State Fault Refusal :=
  s.run (State.gateLaunches p.val work)

/-- GATE_LATE (12 R476, R477). -/
def execGateLate (p : Fin 52) (work : LaunchWork) (s : State) : Host.Outcome State Fault Refusal :=
  s.run (State.gateLates p.val work)

/-- ABANDONING_GATE (04 R155; 05 R180, R192). -/
def execAbandoningGate (p : Fin 52) (work : AbandonWork) (s : State) : Host.Outcome State Fault Refusal :=
  s.run (State.gateAbandons p.val work)

/-- TEST_SEGMENT_END (15 R576, R577). -/
def execTestSegmentEnd (t : TestEnd) (s : State) : Host.Outcome State Fault Refusal :=
  s.run fun s => match t with
    | .core p sig want => s.testEnds p.val sig want
    | .weir q unit ok => s.katEnds q.val unit.val ok

end Sys2Proof.Machine
end

