-- ==== Sys2Proof/Machine/Spill.lean ====
section
/-! DEFINITION. Power domains (16 R586 to R589) and the entry into the spillway state (15 R578 to R582). -/
namespace Sys2Proof.Machine

/-- Drops the entries of a table with keys from `a` below `b`. -/
def tclear {α : Type} (t : Tab α) (a b : Nat) : Tab α := t.filter fun e => !(decide (a ≤ e.1 ∧ e.1 < b))

/-- A core whose domain has come up: zero stores, registers at reset, halted. -/
def Core.fresh : Core := { Core.reset with run := .halted .reset }

namespace State

/-- A switched domain is on. -/
def domOn (s : State) (d : Nat) : Bool := tget (fun _ => 0) s.pwr.dom d != 0

/-- Marks a domain on or off. -/
def setDom (d : Nat) (on : Bool) (s : State) : State :=
  { s with pwr := { s.pwr with dom := tput (fun _ => 0) s.pwr.dom d (if on then 1 else 0) } }

/-- Registers of a span of CSR offsets at their reset values, the copies in force too. -/
def resetRegs (a b : Nat) (s : State) : State :=
  { s with ctl := { s.ctl with regs := tclear s.ctl.regs a b, eff := tclear s.ctl.eff a b } }

/-- The reset state of what a domain holds (16 R588): stores zero, registers and counters at their reset values. -/
def clearDom (d : Nat) (s : State) : State :=
  if d < 52 then s.setCore d Core.fresh
  else if d < 56 then
    let c := d - 52
    let a := 0x100000000000 + c * 0x1000000
    let s := (s.resetRegs (0x300000 + c * 0x10000) (0x302000 + c * 0x10000))
    { s with
      mem := tclear s.mem a (a + 0xC00000)
      poison := s.poison.filter fun k => !(k % 2 == 1 && decide (a / 8 ≤ k / 2 ∧ k / 2 < (a + 0xC00000) / 8))
      arbs := tclear s.arbs (16 * c) (16 * c + 16)
      scrub := (tclear (tclear s.scrub c (c + 1)) (6 + c) (7 + c))
      rx := tclear s.rx c (c + 1) }
  else if d < 60 then
    let q := d - 56
    let s := s.resetRegs (0x302000 + q * 0x10000) (0x303000 + q * 0x10000)
    { s with weir := tclear s.weir q (q + 1), tx := { s.tx with queues := tclear s.tx.queues (2 * q) (2 * q + 2) } }
  else if d = 60 then
    let s := s.resetRegs 0x500000 0x510000
    let bank := tclear s.ctl.bank (bankLaneCrc * 2 ^ 20) ((bankAtt + 1) * 2 ^ 20)
    let bank := tclear bank (bankCfg * 2 ^ 20) ((bankCfgEff + 1) * 2 ^ 20)
    { s with dfe := Dfe.reset, ctl := { s.ctl with bank := bank } }
  else if d < 63 then
    let g := d - 61
    let s := (s.resetRegs (0x400000 + g * 0x4000) (0x404000 + g * 0x4000)).resetRegs (0x40A000 + g * 0x1000) (0x40B000 + g * 0x1000)
    { s with ports := tclear s.ports (4 * g) (4 * g + 4) }
  else if d = 63 then
    { s with
      mem := tclear s.mem 0 0x100000000000
      poison := s.poison.filter fun k => k % 2 == 1
      arbs := tclear s.arbs 64 72
      scrub := tclear (tclear s.scrub 4 6) 10 11
      refreshX2 := [] }
  else s

/-- A domain is switched on: it comes up in its reset state (R588). The registers of the front end and of a port group
were reset as the domain went off, and keep what has been written since (assumption 26). -/
def powerUp (d : Nat) (s : State) : State :=
  if s.domOn d then s
  else
    let s := (if 60 ≤ d ∧ d ≤ 62 then s else s.clearDom d).setDom d true
    { s with pwr := { s.pwr with notHigh := tset s.pwr.notHigh d s.time.ticks } }

/-- A domain is switched off: what it held is gone. -/
def powerDown (d : Nat) (s : State) : State :=
  if s.domOn d then
    let s := (s.clearDom d).setDom d false
    if d < 52 then s.setCore d Core.reset else s
  else s

/-- What ends without completion at a grave fault or a warm reset (R582, R611): remaps, swaps, basin resets,
pre-emptions, tests. -/
def endWork (s : State) : State :=
  let f (r : Nat × Region) : Nat × Region := (r.1, { r.2 with pend := none, latch := none })
  let g (b : Nat × Basin) : Nat × Basin := (b.1, if b.2.st = 2 then { b.2 with resetCmd := none } else b.2)
  { s with
    flt := { s.flt with remaps := [], taken := [], test := none }
    bkw := { s.bkw with regions := s.bkw.regions.map f }
    basins := s.basins.map g
    sched := { s.sched with jobs := s.sched.jobs.map fun j => { j with preempted := false }, spills := [] } }

/-- The mask bit of a spillway cause (FAULT.SPILL_CAUSE). -/
def spillMask (code : Nat) : Nat := 2 ^ (8 + code - 1)

/-- A grave fault with cause `code` (R578, R579): SPILL_CAUSE, domains off, DRAM in self-refresh, SPILL_N low, the kind
0x0A entry. A cause in the same cycle marks its bit and leaves the lowest code. Without the always-on domain running,
nothing happens (16 R610). -/
def spill (code : Nat) (s : State) : State :=
  let cause := (s.reg Reg.FAULT_SPILL_CAUSE).toNat
  if s.mode == .spill then
    if s.time.ticks = s.flt.spillAt then
      let w := BitVec.ofNat 32 (min (bits cause 7 0) code + ((cause / 256 * 256) ||| spillMask code))
      let s := s.setReg Reg.FAULT_SPILL_CAUSE w
      { s with ctl := { s.ctl with log := tput (fun _ => 0) s.ctl.log (s.flt.spillSlot * 8 + 1) w } }
    else s
  else if s.awake then
    let w := BitVec.ofNat 32 (code + spillMask code)
    let s := (s.setReg Reg.FAULT_SPILL_CAUSE w).endWork.sortLog
    let s := { s with flt := { s.flt with spillAt := s.time.ticks, spillSlot := (s.reg Reg.FAULT_LOG_HEAD).toNat % 256 } }
    let s := (s.logPut ownKey 0x0A 3 2 w (s.reg Reg.FAULT_HOLE_LO) 0 0).sortLog
    let s := (List.range 60).foldl (fun (s : State) d => s.powerDown d) s
    { s with mode := .spill, dramOn := false, pins := { s.pins with spillN := false } }
  else s

end State

/-- DRAM_CHANNEL_LOSS (07 R250): a channel in use stops answering after boot. -/
def execDramChannelLoss (channel : Fin 16) (s : State) : Host.Outcome State Fault Refusal :=
  s.run fun s => if s.dramOn ∧ channel.val / 2 ∈ s.dramPairs then s.spill 3 else s

end Sys2Proof.Machine
end

