-- ==== Sys2Proof/Machine/Arbiter.lean ====
section
/-! DEFINITION. The two-level arbiters of pool banks and DRAM channel pairs (07 R255 to R263) under the activity budgets
(14 R537, R538), the scrubbers (07 R245, R252) and refresh (07 R253). ARBITER_GRANT is one cycle of one arbiter. -/
namespace Sys2Proof.Machine

/-- An arbiter as its domain comes up. -/
def Arb.reset : Arb := ⟨0, 0, none, [], [], [], 0, 0, false⟩

/-- Arbiters 64 to 71 stand before DRAM channel pairs, the others before pool banks. -/
def isDram (a : Nat) : Bool := decide (64 ≤ a)

/-- Ports of an arbiter (07, port tables). -/
def portsOf (a : Nat) : Nat := if isDram a then 14 else 30

/-- The scrubber's port: 29 at a pool bank, 13 at a channel pair (R245, R252). -/
def scrubPort (a : Nat) : Nat := if isDram a then 13 else 29

/-- Whether the first 64-byte access of a write burst holds a protected word in part only, and whether a later one does. -/
def partials (a : Nat) (b : Burst) : Bool × Bool :=
  let z := if isDram a then 64 else 8
  let e := b.addr + b.len
  let one := b.addr / 64 = (e - 1) / 64
  if b.write then (decide (b.addr % z ≠ 0 ∨ (e % z ≠ 0 ∧ one)), decide (e % z ≠ 0 ∧ ¬one)) else (false, false)

/-- Cycles a burst holds its bank or pair (R243, R255); a pool scrub read is a read and a write (R245). -/
def holdOf (a : Nat) (b : Burst) : Nat :=
  let x := partials a b
  let extra := (if x.1 then 1 else 0) + (if x.2 then 1 else 0)
  if isDram a then (b.len + 31) / 32 + 2 * extra
  else if b.port.val = scrubPort a then 2
  else (b.addr + b.len - 1) / 64 - b.addr / 64 + 1 + extra

/-- Bytes that a write burst has written after holding its bank or pair for `n` cycles: whole 64-byte accesses. -/
def writtenBy (a n : Nat) (b : Burst) : Nat :=
  let k := if isDram a then (if (partials a b).1 then n - 2 else n) / 2 else if (partials a b).1 then n - 1 else n
  (b.addr / 64 + k) * 64 - b.addr

namespace State

/-- An arbiter. -/
def arb (s : State) (a : Nat) : Arb := tget (fun _ => Arb.reset) s.arbs a

/-- Replaces an arbiter. -/
def setArb (a : Nat) (x : Arb) (s : State) : State := { s with arbs := tset s.arbs a x }

/-- The arbiter of a local address: its bank's, or its channel pair's; none where no memory is (R239, R248). -/
def arbOf (s : State) (a : Nat) : Option Nat :=
  if a < 0x001000000000 then (if a < s.dramTop then some (64 + s.pairOf a) else none)
  else if 0x100000000000 ≤ a ∧ a < 0x100004000000 ∧ a % 0x1000000 < 0xC00000 then
    some (16 * ((a - 0x100000000000) / 0x1000000) + a % 0x1000000 / 0xC0000)
  else none

/-- The bursts of a row, each with its arbiter (R255): split at every KiB of a pool bank, at every 2 KiB of DRAM and wherever
consecutive granules lie in different pairs. -/
def splitRow (s : State) (b : Burst) : List (Nat × Burst) :=
  let dram := decide (b.addr < 0x001000000000)
  let z := if dram then 256 else 1024
  let most := if dram then 2048 else 1024
  let join (acc : List (Nat × Nat × Nat)) (i : Nat) : List (Nat × Nat × Nat) :=
    let lo := max b.addr ((b.addr / z + i) * z)
    let n := min (b.addr + b.len) ((b.addr / z + i + 1) * z) - lo
    match s.arbOf lo with
    | none => acc
    | some k =>
      match acc.getLast? with
      | some (j, a, m) => if j = k ∧ a / most = lo / most ∧ a + m = lo then acc.dropLast ++ [(k, a, m + n)] else acc ++ [(k, lo, n)]
      | none => [(k, lo, n)]
  ((List.range ((b.addr % z + b.len + z - 1) / z)).foldl join []).map fun x =>
    (x.1, { b with addr := x.2.1, len := x.2.2, data := (b.data.drop (x.2.1 - b.addr)).take x.2.2 })

/-- A requester presents a row: each of its bursts goes to the arbiter of its own bank or pair, behind those of its port
there. -/
def present (b : Burst) (s : State) : State :=
  (s.splitRow b).foldl (fun (s : State) x =>
    if x.2.port.val < portsOf x.1 then s.setArb x.1 { s.arb x.1 with queue := (s.arb x.1).queue ++ [x.2] } else s) s

/-- The class of a port as its register stands (R260). -/
def portClass (s : State) (a port : Nat) : Nat :=
  let w := if isDram a then s.reg Reg.DRAM_ARBCLASS
    else if port < 16 then s.reg (Reg.POOL_ARBCLASS (a / 16)) else s.reg (Reg.POOL_ARBCLASS_HI (a / 16))
  bits w.toNat (2 * (port % 16) + 1) (2 * (port % 16))

/-- STARVE_LIMIT, at least 64 (R263). -/
def starveLimit (s : State) (a : Nat) : Nat :=
  max 64 (bits (s.reg (if isDram a then Reg.DRAM_STARVE_LIMIT else Reg.POOL_STARVE_LIMIT (a / 16))).toNat 15 0)

/-- Unit kind and number of an arbiter's budget (14 R534). -/
def arbKind (a : Nat) : Nat := if isDram a then 2 else 1
def arbUnit (a : Nat) : Nat := if isDram a then a - 64 else a

/-- A scrubber's figure (positions at 0 to 4; in this period KiB of DRAM at 5, granules of the pools at 6 to 9, a refused
DRAM read at 10). -/
def scrubAt (s : State) (k : Nat) : Nat := tget (fun _ => 0) s.scrub k

/-- Sets a scrubber's figure. -/
def setScrub (k v : Nat) (s : State) : State := { s with scrub := tput (fun _ => 0) s.scrub k v }

/-- A period falls short of the DRAM scrub rate, once (R252; assumption 38). -/
def scrubBehind (s : State) : State :=
  if s.scrubAt 10 = 0 then (s.setScrub 10 1).event Reg.DRAM_STATUS Ev.DRAM_SCRUB_BEHIND else s

/-- The first of the ports waiting, after the last one granted in the class, with wrap-around (R256). -/
def roundRobin (s : State) (a : Nat) (x : Arb) (c : Nat) (cand : List ArbReq) : Option ArbReq :=
  let n := portsOf a
  let lastP := tget (fun _ => n - 1) x.last c
  ((List.range n).map fun i => (lastP + 1 + i) % n).findSome? fun p =>
    cand.find? fun r => r.b.port.val == p && s.portClass a p == c

/-- Class arbitration among requests (R256). -/
def byClass (s : State) (a : Nat) (x : Arb) (cand : List ArbReq) : Option ArbReq :=
  [3, 2, 1, 0].findSome? fun c => s.roundRobin a x c cand

/-- The minima owed to the background at a cycle close the period to the foreground (14 R537). -/
def closingAt (s : State) (a : Nat) (x : Arb) : Bool :=
  let owed := s.owed (arbKind a) (arbUnit a)
  decide (0 < owed ∧ periodOf (arbKind a) - (x.cyc - x.start) ≤ owed)

/-- Background requests with less than their minimum, of the lowest-numbered such activity. -/
def owedCand (s : State) (a : Nat) (wait : List ArbReq) : List ArbReq :=
  let k := arbKind a
  let u := arbUnit a
  match [1, 2, 3, 4, 5].find? fun b => decide (s.used k u b < s.minOf k b) && wait.any fun r => r.b.activity.val == b with
  | some b => wait.filter fun r => r.b.activity.val == b
  | none => []

/-- Background requests inside their allowances. -/
def allowedCand (s : State) (a : Nat) (wait : List ArbReq) : List ArbReq :=
  wait.filter fun r => r.b.activity.val ≠ 0 && s.allowed (arbKind a) (arbUnit a) r.b.activity.val (holdOf a r.b)

/-- The requests that a grant decision chooses among, and whether by the closing rule (14 R537). -/
def candidates (s : State) (a : Nat) (x : Arb) : List ArbReq × Bool :=
  let bg := s.owedCand a x.wait
  let fg := x.wait.filter fun r => r.b.activity.val == 0
  if s.closingAt a x && !bg.isEmpty then (bg, true)
  else if !fg.isEmpty then (fg, false)
  else (s.allowedCand a x.wait, false)

/-- Grants a request in the present cycle: its full length counts to its activity (14 R537). -/
def grantBurst (a : Nat) (x : Arb) (r : ArbReq) (closing : Bool) (s : State) : State :=
  let c := s.portClass a r.b.port.val
  let h := holdOf a r.b
  let x := { x with
    busy := some (r, x.cyc + h - 1)
    wait := x.wait.filter fun q => q.b.port ≠ r.b.port
    last := tset x.last c r.b.port.val
    cls := c
    from_ := x.cyc
    closing := closing }
  (s.setArb a x).charge (arbKind a) (arbUnit a) r.b.activity.val h

/-- Counts the cycle of foreground requests that wait under the closing rule (14 R538). -/
def fgWait (a : Nat) (s : State) : State :=
  let x := s.arb a
  let fg := (x.wait.filter fun r => r.b.activity.val == 0)
  if x.closing && x.busy.isSome && !fg.isEmpty then
    let s := s.count Reg.SCHED_FG_WAIT_CNT fg.length
    if x.from_ = x.cyc ∨ (fg.any fun r => r.since == x.cyc) then s.event Reg.SCHED_STATUS Ev.SCHED_FG_WAIT else s
  else s

/-- A background request that its allowance refuses is counted once in a period (14 R538); a scrub of DRAM that it refuses
leaves the period short (R252; assumption 38). -/
def denyAt (a : Nat) (s : State) : State :=
  let x := s.arb a
  let bad (r : ArbReq) : Bool :=
    r.b.activity.val ≠ 0 && !r.denied && !s.allowed (arbKind a) (arbUnit a) r.b.activity.val (holdOf a r.b)
  let gone := x.wait.filter bad
  if gone.isEmpty then s
  else
    let s := s.setArb a { x with wait := x.wait.map fun r => if bad r then { r with denied := true } else r }
    let s := gone.foldl (fun (s : State) _ => s.bgDeny) s
    if isDram a && gone.any fun r => r.b.port.val == scrubPort a then s.scrubBehind else s

/-- A grant decision with no burst in progress. -/
def freshGrant (a : Nat) (s : State) : State :=
  let x := s.arb a
  let cand := s.candidates a x
  match s.byClass a x cand.1 with
  | some r => s.grantBurst a x r cand.2
  | none => s.denyAt a

/-- A port of higher class began to wait in the cycle before: the burst in progress is revoked, to restart from its first
byte (R257, R258), and the decision between the two grants the highest class that waits. What a write burst has written
stands. A change of class alone revokes nothing (R260), and neither does anything in strict mode (R259). -/
def revokeAt (a : Nat) (r : ArbReq) (s : State) : State :=
  let x := s.arb a
  let y := { x with busy := none, wait := x.wait ++ [r] }
  let cand := s.candidates a y
  let begun := cand.1.any fun q => decide (q.b.port ≠ r.b.port ∧ q.since + 1 = x.cyc ∧ x.from_ < q.since ∧ x.cls < q.cls)
  match s.byClass a y cand.1 with
  | some q =>
    if begun && !s.strictEff && decide (x.cls < s.portClass a q.b.port.val) then
      let s := (s.count (if isDram a then Reg.DRAM_REVOKE_CNT else Reg.POOL_REVOKE_CNT (a / 16)) 1).choice Ev.DET_REVOKE
      let s := if r.b.write then s.writeMem r.b.addr (r.b.data.take (writtenBy a (x.cyc - x.from_) r.b)) else s
      s.grantBurst a y q cand.2
    else s
  | none => s

/-- The bursts that begin to wait in a cycle, one for each port that has none before it, and those that stay behind. -/
def beginWait (taken : List Nat) : List Burst → List Burst × List Burst
  | [] => ([], [])
  | b :: rest =>
    if taken.contains b.port.val then let r := beginWait taken rest; (r.1, b :: r.2)
    else let r := beginWait (b.port.val :: taken) rest; (b :: r.1, r.2)

/-- One cycle of an arbiter: the rows presented in it begin to wait, a burst of a port at a time; scrubbers present their own. -/
def arbCycle (a : Nat) (arriving : List Burst) (s : State) : State :=
  let s := (arriving.filter fun b => s.arbOf b.addr == some a && b.port.val != scrubPort a).foldl (fun (s : State) b => s.present b) s
  let x := s.arb a
  let busy := match x.busy with
    | some (r, _) => [r.b.port.val]
    | none => []
  let new := beginWait (busy ++ x.wait.map (·.b.port.val)) x.queue
  let x := { x with queue := new.2, wait := x.wait ++ new.1.map fun b => (⟨b, x.cyc, s.portClass a b.port.val, false, false⟩ : ArbReq) }
  let s := s.setArb a x
  let s := match x.busy with
    | none => s.freshGrant a
    | some (r, last) => if x.cyc ≤ last then s.revokeAt a r else s
  let s := s.fgWait a
  let y := s.arb a
  s.setArb a { y with cyc := y.cyc + 1 }

/-- An uncorrectable error that an access at `a` finds: the word is as stored, and poisoned (R244, R251). -/
def poisonAt (a : Nat) (stored : List Byte) (s : State) : State :=
  let z := protSize a
  let base := a / z * z
  let k := protKey a
  { s with
    mem := writeBytes s.mem base (stored.take z)
    poison := if k ∈ s.poison then s.poison else s.poison ++ [k] }

/-- The errors that an access of `n` bytes at `a` meets in memory, word by word; a write that covers the word whole meets none
(R244, R251). -/
def meetUpsets (a n : Nat) (write : Bool) (us : List MemUpset) (s : State) : State :=
  let z := protSize a
  let met (off : Nat) : Bool :=
    let w := (a + off) / z * z
    decide (off < n) && !(write && decide (a ≤ w ∧ w + z ≤ a + n))
  us.foldl (fun (s : State) u =>
    match u with
    | .corrected off => if met off then s.corrRead (a + off) else s
    | .uncorrectable off stored => if met off then s.poisonAt (a + off) stored else s) s

/-- The burst in progress at an arbiter, where its last data cycle is over. -/
def overBurst (s : State) (a : Nat) : Option Burst :=
  match (s.arb a).busy with
  | some (r, last) => if last < (s.arb a).cyc then some r.b else none
  | none => none

/-- The burst in progress leaves the arbiter, and its accesses have met `us`. -/
def leaveArb (a : Nat) (b : Burst) (us : List MemUpset) (s : State) : State :=
  (s.setArb a { s.arb a with busy := none, closing := false }).meetUpsets b.addr b.len b.write us

/-- BURST_COMPLETE: the burst whose last data cycle is over ends. A write's data stand in memory; a read's error is
recorded where its requester's access ends (assumption 25). A scrubber's burst ends with its own command. -/
def burstEnd (a : Nat) (us : List MemUpset) (s : State) : State :=
  match s.overBurst a with
  | some b =>
    if b.port.val = scrubPort a then s
    else
      let s := s.leaveArb a b us
      if b.write then s.writeMem b.addr (b.data.take b.len) else s
  | none => s

/-- STARVED: the wait of a port has reached the limit (R261, R263): once for each wait. -/
def starve (a port : Nat) (s : State) : State :=
  let x := s.arb a
  let due (r : ArbReq) : Bool := r.b.port.val == port && !r.starved && decide (s.starveLimit a ≤ x.cyc - r.since)
  let mark (r : ArbReq) : ArbReq := if due r then { r with starved := true } else r
  let busyDue := match x.busy with
    | some (r, _) => due r
    | none => false
  if x.wait.any due || busyDue then
    let s := s.setArb a { x with wait := x.wait.map mark, busy := x.busy.map fun b => (mark b.1, b.2) }
    let st := if isDram a then Reg.DRAM_STATUS else Reg.POOL_STATUS (a / 16)
    let info := if isDram a then Reg.DRAM_STARVE_INFO else Reg.POOL_STARVE_INFO (a / 16)
    let w := s.portClass a port * 4096 + (if isDram a then a - 64 else a % 16) * 256 + port
    let s := s.latchIf (!bitOf (s.reg st).toNat Ev.POOL_STARVED) info (BitVec.ofNat 32 w)
    s.event st Ev.POOL_STARVED
  else s

/-- A budget period starts at every arbiter: refused requests may be counted again (14 R534, R538). -/
def arbPeriods (s : State) : State :=
  let f (e : Nat × Arb) : Nat × Arb :=
    (e.1, { e.2 with start := e.2.cyc, wait := e.2.wait.map fun r => { r with denied := false } })
  { s with arbs := s.arbs.map f }

/-! ## Scrubbers -/

/-- A scrubber's burst waits or is served at an arbiter. -/
def scrubbing (s : State) (a : Nat) : Bool :=
  let x := s.arb a
  let mine (b : Burst) : Bool := b.port.val == scrubPort a
  x.queue.any mine || x.wait.any (fun r => mine r.b) || (match x.busy with
    | some (r, _) => mine r.b
    | none => false)

/-- A scrubber's burst at an arbiter, where its cycles are over. -/
def scrubOver (s : State) (a : Nat) : Option Burst := (s.overBurst a).filter fun b => b.port.val == scrubPort a

/-- POOL_SCRUB_READ (R245): the scrubber presents its next granule at port 29 if the rate allows it, and once its cycles are over
the granule is read and corrected. -/
def poolScrub (c : Nat) (us : List MemUpset) (s : State) : State :=
  let off := s.scrubAt c
  let bank := 16 * c + off / 0xC0000
  let a := 0x100000000000 + c * 0x1000000 + off
  match s.scrubOver bank with
  | some b =>
    let r := (s.leaveArb bank b us).readMem b.addr b.len
    let s := if r.2.2 then r.1 else r.1.event (Reg.POOL_FAULTWORD c) Ev.POOLFW_SCRUB_UNCORR
    (s.setScrub c (if off + 64 = 0xC00000 then 0 else off + 64)).setScrub (6 + c) (s.scrubAt (6 + c) + 1)
  | none =>
    if s.fence 5 c ≠ 0 ∨ bits (s.reg (Reg.POOL_SCRUB_RATE c)).toNat 15 0 ≤ s.scrubAt (6 + c) ∨ s.scrubbing bank = true then s
    else s.present ⟨29, a, 64, false, [], 3⟩

/-- DRAM_SCRUB_READ (R252): the scrubber presents its next KiB at port 13 of its pairs if the rate allows it; pieces whose cycles
are over are read and corrected, and the last of them ends the KiB. An error's offset counts from the KiB. -/
def dramScrub (us : List MemUpset) (s : State) : State :=
  let cfg := (s.reg Reg.DRAM_SCRUB).toNat
  let a := s.scrubAt 4 * 1024
  let pairs := (List.range 8).map (64 + ·)
  let ended := pairs.filter fun p => (s.scrubOver p).isSome
  if ended.isEmpty then
    if !bitOf cfg 31 ∨ bits cfg 15 0 ≤ s.scrubAt 5 ∨ !s.dramOn ∨ pairs.any s.scrubbing then s
    else s.present ⟨13, a, 1024, false, [], 3⟩
  else
    let s := ended.foldl (fun (s : State) p =>
      match s.scrubOver p with
      | none => s
      | some b =>
        let mine := us.filterMap fun u => match u with
          | .corrected off => if b.addr ≤ a + off then some (MemUpset.corrected (a + off - b.addr)) else none
          | .uncorrectable off st => if b.addr ≤ a + off then some (MemUpset.uncorrectable (a + off - b.addr) st) else none
        ((s.leaveArb p b mine).readMem b.addr b.len).1) s
    if pairs.any s.scrubbing then s
    else
      let wraps := decide (s.dramTop ≤ a + 1024)
      let s := (s.setScrub 4 (if wraps then 0 else a / 1024 + 1)).setScrub 5 (s.scrubAt 5 + 1)
      if wraps then s.count Reg.DRAM_SCRUB_PASS 1 else s

/-- A budget period starts for the scrubbers; a shortfall is not carried over (R245, R252). -/
def scrubPeriods (s : State) : State := { s with scrub := tclear s.scrub 5 11 }

/-- DRAM_REFRESH (R253): a channel's parts ask for doubled refresh, or no longer. -/
def refreshAt (ch : Nat) (hot : Bool) (s : State) : State :=
  if !s.dramOn ∨ ch / 2 ∉ s.dramPairs then s
  else if hot then
    if ch ∈ s.refreshX2 then s
    else { s with refreshX2 := s.refreshX2 ++ [ch] }.event Reg.DRAM_STATUS Ev.DRAM_REFRESH_X2
  else { s with refreshX2 := s.refreshX2.filter fun c => c ≠ ch }

end State

/-- A failure of a pool bank, its arbiter or the cluster's router: the collector's bit, which fences the cluster (15, table
"POOL.FAULTWORD fields"). -/
def State.poolFails (a : Nat) (f : PoolFail) (s : State) : State :=
  if isDram a then s
  else s.event (Reg.POOL_FAULTWORD (a / 16)) (match f with
    | .bank => Ev.POOLFW_BANK_FAIL + a % 16
    | .arbiter => Ev.POOLFW_ARB_PARITY
    | .router => Ev.POOLFW_ROUTER_PARITY)

/-- ARBITER_GRANT (07 R255 to R260; 14 R537), or the failure that its cycle meets (15 R559). -/
def execArbiterGrant (a : Fin 72) (arriving : List Burst) (fails : Option PoolFail) (s : State) : Host.Outcome State Fault Refusal :=
  s.run fun s => match fails with
    | some f => s.poolFails a.val f
    | none => s.arbCycle a.val arriving

/-- BURST_COMPLETE (07 R255). -/
def execBurstComplete (a : Fin 72) (upsets : List MemUpset) (s : State) : Host.Outcome State Fault Refusal :=
  s.run fun s => s.burstEnd a.val upsets

/-- STARVED (07 R261). -/
def execStarved (a : Fin 72) (port : Fin 32) (s : State) : Host.Outcome State Fault Refusal :=
  s.run fun s => s.starve a.val port.val

/-- POOL_SCRUB_READ (07 R245). -/
def execPoolScrubRead (c : Fin 4) (upsets : List MemUpset) (s : State) : Host.Outcome State Fault Refusal :=
  s.run fun s => s.poolScrub c.val upsets

/-- DRAM_SCRUB_READ (07 R252). -/
def execDramScrubRead (upsets : List MemUpset) (s : State) : Host.Outcome State Fault Refusal :=
  s.run fun s => s.dramScrub upsets

/-- DRAM_REFRESH (07 R253): it changes no data. -/
def execDramRefresh (channel : Fin 16) (hot : Bool) (s : State) : Host.Outcome State Fault Refusal :=
  s.run fun s => s.refreshAt channel.val hot

end Sys2Proof.Machine
end

