-- ==== Sys2Proof/Machine/JobOps.lean ====
section
/-! DEFINITION. Jobs (14 R524 to R533), their arming (14 R526, 12 R478) and pre-emption (14 R542 to R546). -/
namespace Sys2Proof.Machine

/-- Wellhead takes back its gate: a core that waits at it halts as after END (05 R193; DEDUCED, assumption 28). -/
def withdraw (c : Core) : Core :=
  if c.gate.wh && c.gate.armed then
    let d := disarm c
    if waitsAtGate c then { d with run := .halted .ended } else d
  else c

namespace State

/-! ## Records (R524, R525, R527) -/

/-- A record that completes at once with JOB_FAULT (R524; ranges of BATCH and PERIOD: assumption 28). -/
def jobBad (s : State) (b : Nat) (e : List Byte) : Bool :=
  let flags := fieldAt e 1 1
  let batch := fieldAt e 16 2
  let period := fieldAt e 20 4
  4 ≤ flags || 4096 ≤ fieldAt e 2 2 || fieldAt e 18 2 ≠ 0 || fieldAt e 28 36 ≠ 0
    || (s.catchment (fieldAt e 0 1)).isNone || !bitOf (s.basin b).catchments (fieldAt e 0 1)
    || batch = 0 || 4096 < batch || (bitOf flags 0 && decide (period < 125000 ∨ 10000000 < period))

/-- JOB_RECORD: the next fetched record of the basin. -/
def takeRecord (b : Nat) (s : State) : State :=
  if (s.basin b).st = 2 then s
  else match s.takeEntry b 2 with
  | (s, none) => s
  | (s, some e) =>
    if s.jobBad b e then
      let n := s.takeNumber b
      n.2.jobDone b n.1 jobFault
    else
      let flags := fieldAt e 1 1
      let r : JobRec :=
        { basin := b, catch_ := fieldAt e 0 1, repeat_ := bitOf flags 0, preempt := bitOf flags 1, entry := fieldAt e 2 2
          launch := fieldAt e 4 4, arg := fieldAt e 8 8, batch := fieldAt e 16 2, period := fieldAt e 20 4
          count := fieldAt e 24 4, taken := 0, ended := false }
      let i := s.sched.nextRec
      let s := { s with sched := { s.sched with nextRec := i + 1 } }
      s.newInstance i r

/-! ## Arming (R526 to R528; 12 R478) -/

/-- A job of a basin. -/
def jobOf (s : State) (b num : Nat) : Option Job := s.sched.jobs.find? fun j => j.basin == b && j.num == num

/-- Replaces a job. -/
def setJob (j : Job) (s : State) : State :=
  s.setJobs (s.sched.jobs.map fun k => if k.basin = j.basin ∧ k.num = j.num then j else k)

/-- Removes a job. -/
def dropJob (j : Job) (s : State) : State := s.setJobs (s.sched.jobs.filter fun k => !(k.basin == j.basin && k.num == j.num))

/-- TXP.LEAD in force, at least 20,000 ns (03, table). -/
def leadNs (s : State) : Nat := max 20000 (s.ctl.inForce Reg.TXP_LEAD).toNat

/-- Jobs of function `f` that launch at `launch` are armed: not from S on until those for slots from R onward, downlink
ones of which launch LEAD earlier (16 R620, R622; DEDUCED, assumption 28). -/
def mayArm (s : State) (f launch : Nat) : Bool :=
  let on := bitOf s.func.started f
  match s.func.proc with
  | none => on
  | some p =>
    if !bitOf p.mask f then on
    else
      let from_ := if f = 1 then p.r + 2 ^ 32 - s.leadNs % 2 ^ 32 else p.r
      (p.kind ≠ 1 && p.phase == 2 && decide (0 ≤ ns32Diff launch from_)) || (on && p.phase == 0)

/-- The ns from now to a launch, signed; negative once it has passed. -/
def nsAhead (s : State) (launch : Nat) : Int := -(gateL s.ns32 (BitVec.ofNat 32 launch))

/-- Local leaves of a catchment with their ranks; 255 where no core bears the number. -/
def localLeaves (s : State) (c : Catchment) : List (Nat × Nat) :=
  (c.leaves.zipIdx.filter fun l => s.leafHere l.1).map fun l => ((s.physOf l.1.core.val).getD 255, l.2)

/-- A launch that is skipped: LAUNCH_MISSED in the catchment's word, for the device's leaves in rank order (01 R28), JOB_FAULT,
and the next instance (12 R478). -/
def missJob (j : Job) (s : State) : State :=
  let s := match (s.jobRec j.rec_).bind fun r => s.catchment r.catch_ with
    | some c =>
      let i := c.desc.val
      let rank := ((s.localLeaves c).getD 0 (0, 0)).2
      { s with ctl := s.ctl.setArr bankCatch i (catchWord (s.ctl.arr bankCatch i) Ev.CATCHFW_LAUNCH_MISSED rank) }
    | none => s
  ((s.dropJob j).nextInstance j).jobDone j.basin j.num jobFault

/-- Writes a job's registers into a leaf and arms its gate; another job's gate that it replaces is missed (R526; 01
R26). -/
def armLeaf (r : JobRec) (j : Job) (p rank : Nat) (s : State) : State :=
  let z (_ : Nat) : Word := 0
  let w (n : Nat) : Word := BitVec.ofNat 32 n
  let s := s.leafMisses p
  let c := withdraw (s.core p)
  let g := tput z (tput z (tput z (tput z c.g 0 (w r.arg)) 1 (w (r.arg / 2 ^ 32))) 2 (w r.batch)) 3 (w j.num)
  let c := ({ c with g := g, rank := rank }).setReg cBASIN (w (r.basin + 8))
  s.setCore p (armWellhead s.ns32 (w j.launch) r.entry false c)

/-- Every leaf's gate holds the job: ARMED. -/
def armJob (r : JobRec) (c : Catchment) (j : Job) (s : State) : State :=
  let ls := s.localLeaves c
  let s := ls.foldl (fun (s : State) l => if l.1 = 255 then s else s.armLeaf r j l.1 l.2) s
  let j := { j with st := .armed, leaves := ls.map fun l => (l.1, if l.1 = 255 then 3 else 0) }
  (s.setJob j).closeJob j

/-! ## Pre-emption (R542 to R546) -/

/-- Running jobs, other than `j`, that hold any of the cores. -/
def holders (s : State) (j : Job) (ps : List Nat) : List Job :=
  s.sched.jobs.filter fun k => !(k.basin == j.basin && k.num == j.num) && k.st == .running && !k.preempted
    && k.leaves.any fun l => l.2 == 1 && ps.contains l.1

/-- Requests that every leaf of a running job stop at its next cheap point. -/
def requestPreempt (k : Job) (s : State) : State :=
  (k.leaves.filter fun l => l.2 == 1).foldl (fun (s : State) l =>
    let s := s.onCore l.1 fun c => { c with preempt := true }
    { s with sched := { s.sched with asked := tset s.sched.asked l.1 s.ns32.toNat } }) s

/-- A leaf's request is pending, or the leaf has taken it and not spilled. -/
def spilling (s : State) (k : Job) : Bool :=
  k.leaves.any fun l => l.2 == 1 && (tfind s.sched.spills l.1).isNone
    && ((s.core l.1).preempt || (s.core l.1).run == RunState.halted .preempted)

/-- A leaf takes part in no active job but `j`. -/
def leafFree (s : State) (j : Job) (p : Nat) : Bool :=
  !(s.sched.jobs.any fun k => !(k.basin == j.basin && k.num == j.num) && !k.preempted
    && k.leaves.any fun l => l.1 == p && decide (l.2 < 2))

/-- Restores a leaf from its spill slot and arms its gate at the cheap point (R545). -/
def restoreLeaf (resume : Word) (p : Nat) (s : State) : State :=
  match tfind s.sched.spills p with
  | none => s
  | some x =>
    let c := s.core p
    let c := { c with
      g := x.g, a := x.a, amode := x.amode, flags := x.flags, dec := x.dec, decVis := x.dec, lmask := x.lmask, gate := x.gate
      flight := [] }
    let c := (x.live.foldl restoreLive c).setReg cBASIN x.basin
    let s := s.setCore p (armWellhead s.ns32 resume x.cp false { c with run := .halted .preempted })
    { s with sched := { s.sched with spills := tdel s.sched.spills p } }

/-- A pre-empted job resumes, at a launch time at least 2,000 ns ahead, once its leaves are free (R545). -/
def resumeJob (j : Job) (resume : Word) (s : State) : State :=
  let ps := (j.leaves.filter fun l => l.2 == 1 && (tfind s.sched.spills l.1).isSome).map (·.1)
  if ps.isEmpty || s.spilling j || s.nsAhead resume.toNat < 2000 || ps.any fun p => s.coreFenced p || !s.leafFree j p then s
  else
    let s := ps.foldl (fun (s : State) p => s.restoreLeaf resume p) s
    s.setJob { j with preempted := false, leaves := j.leaves.map fun l => if ps.contains l.1 then (l.1, 0) else l }

/-- JOB_READY. -/
def readyJob (b num : Nat) (resume : Word) (s : State) : State :=
  match s.jobOf b num with
  | none => s
  | some j =>
    if j.st = .running then s.resumeJob j resume
    else if j.st = .armed then s
    else match s.jobRec j.rec_ with
    | none => s
    | some r =>
      let ahead := s.nsAhead j.launch
      if 20000 < ahead then s
      else match s.catchment r.catch_ with
      | none => s.missJob j
      | some c =>
        if ahead < 2000 then s.missJob j
        else if (match c.func with
            | some f => !s.mayArm f.val j.launch
            | none => false) then s
        else
          let hs := if r.preempt then s.holders j ((s.localLeaves c).map (·.1)) else []
          if j.st = .fetched && !hs.isEmpty then (hs.foldl (fun (s : State) k => s.requestPreempt k) s).setJob { j with st := .ready }
          else if j.st = .ready && hs.any s.spilling then s
          else s.armJob r c j

/-- A pre-emption request that found no cheap point within SCHED.PREEMPT_WAIT is withdrawn (R542). -/
def preemptExpire (p : Nat) (s : State) : State :=
  let since := (s.ns32.toNat + 2 ^ 32 - tget (fun _ => 0) s.sched.asked p) % 2 ^ 32
  if (s.core p).preempt && decide (bits (s.reg Reg.SCHED_PREEMPT_WAIT).toNat 19 0 ≤ since) then
    ((s.onCore p fun c => { c with preempt := false }).count Reg.SCHED_PREEMPT_DROP_CNT 1).event Reg.SCHED_STATUS Ev.SCHED_PREEMPT_DROP
  else s

/-- A leaf that has taken the request, and whose units are idle, spills what the image lists for the cheap point; the job counts as pre-empted when its last leaf
has spilled (R543, R544, R546). -/
def spillLeaf (p : Nat) (s : State) : State :=
  let c := s.core p
  let live := (((s.logOf p).bind fun k => s.cheapAt k c.pc).map (·.live)).getD []
  let quiet := c.pass.isNone && c.eddy.isNone && c.ldprog.isEmpty && c.si.isEmpty && c.so.isEmpty
  match s.sched.jobs.find? fun j => j.st == .running && !j.preempted && j.leaves.any fun l => l.1 == p && l.2 == 1 with
  | none => s
  | some j =>
    if c.run == RunState.halted .preempted && quiet && (tfind s.sched.spills p).isNone then
      let c := { c.flight.foldl Core.land c with flight := [] }
      let slot : SpillSlot :=
        { g := c.g, a := c.a, amode := c.amode, flags := c.flags, dec := c.dec, lmask := c.lmask, gate := c.gate
          basin := c.reg cBASIN, cp := c.pc, live := (live.take 32).map (liveOf c) }
      let s := s.setCore p c
      let s := { s with sched := { s.sched with spills := tset s.sched.spills p slot } }
      if j.leaves.all fun l => l.2 ≠ 1 || (tfind s.sched.spills l.1).isSome then
        ((s.setJob { j with preempted := true }).count Reg.SCHED_PREEMPT_CNT 1).event Reg.SCHED_STATUS Ev.SCHED_PREEMPTED
      else s
    else s

/-! ## Cancellation (R530 to R532) -/

/-- Takes back the gates that hold a job. -/
def disarmJob (j : Job) (s : State) : State :=
  (j.leaves.filter fun l => l.2 == 0).foldl (fun (s : State) l => s.onCore l.1 withdraw) s

/-- A job's record ends: no further instance takes a number. -/
def endRecord (i : Nat) (s : State) : State :=
  match s.jobRec i with
  | some r => s.setRec i { r with ended := true }
  | none => s

/-- JOB_CANCEL: the response code. -/
def cancelJob (b num : Nat) (s : State) : State × Nat :=
  match s.jobOf b num with
  | none => (s, rcState)
  | some j =>
    if j.st = .running then (s, rcState)
    else ((((s.disarmJob j).endRecord j.rec_).dropJob j).jobDone b num jobCancelled, rcOk)

end State

/-- JOB_RECORD (14 R524, R525). -/
def execJobRecord (b : Fin 8) (s : State) : Host.Outcome State Fault Refusal := s.run (State.takeRecord b.val)
/-- JOB_READY (14 R526 to R528, R545; 12 R478). -/
def execJobReady (b : Fin 8) (num : BitVec 48) (resume : Word) (s : State) : Host.Outcome State Fault Refusal :=
  s.run (State.readyJob b.val num.toNat resume)
/-- PREEMPT_WAIT_EXPIRY (14 R542). -/
def execPreemptWaitExpiry (p : Fin 52) (s : State) : Host.Outcome State Fault Refusal := s.run (State.preemptExpire p.val)
/-- SPILL (14 R543, R544). -/
def execSpill (p : Fin 52) (s : State) : Host.Outcome State Fault Refusal := s.run (State.spillLeaf p.val)

end Sys2Proof.Machine
end

