-- ==== Sys2Proof/Machine/MbxOps.lean ====
section
/-! DEFINITION. Wellhead's server (13 R497 to R503, R523; 16 R616): the command table, the checks before a command acts,
its answer, and JOB_CANCEL in its cycle of acceptance (14 R530, R531). -/
namespace Sys2Proof.Machine

/-- The command table: whether basin mailboxes may send it, and parameter bytes from the admin's and from a basin's mailbox
(13, table "Command set"). -/
def cmdInfo (op : Nat) : Option (Bool × Nat × Nat) :=
  let both (a b : Nat) : Option (Bool × Nat × Nat) := some (true, a, b)
  let admin (a : Nat) : Option (Bool × Nat × Nat) := some (false, a, 0)
  match op with
  | 0x01 => both 0 0
  | 0x02 => both 60 60
  | 0x03 => admin 0
  | 0x10 => admin 12
  | 0x11 => admin 0
  | 0x12 => admin 0
  | 0x18 => admin 13
  | 0x19 => admin 1
  | 0x20 => admin 4
  | 0x21 => admin 4
  | 0x22 => admin 4
  | 0x28 => admin 36
  | 0x29 => admin 1
  | 0x2A => both 1 0
  | 0x30 => both 22 22
  | 0x31 => both 7 6
  | 0x34 => admin 10
  | 0x35 => both 17 16
  | 0x40 => admin 48
  | 0x41 => both 1 1
  | 0x44 => admin 24
  | 0x45 => admin 8
  | 0x46 => admin 16
  | 0x47 => admin 8
  | 0x48 => admin 3
  | 0x49 => admin 3
  | 0x4A => admin 1
  | 0x50 => both 10 10
  | 0x51 => admin 14
  | 0x52 => admin 8
  | 0x58 => admin 13
  | 0x59 => admin 36
  | 0x60 => admin 13
  | 0x61 => admin 11
  | 0x62 => admin 21
  | 0x68 => admin 60
  | 0x69 => admin 1
  | 0x6A => admin 4
  | 0x70 => admin 12
  | 0x71 => admin 0
  | 0x72 => admin 0
  | 0x78 => admin 1
  | _ => none

/-- The commands of a boot ROM in recovery (16 R616). -/
def recoveryCmds : List Nat := [0x01, 0x70, 0x71, 0x72, 0x78]

namespace State

/-- Byte, and little-endian field, of the command that mailbox `m` has latched. -/
def par (s : State) (m off n : Nat) : Nat := fieldAt (s.mailbox m).latched off n

/-- HOST.BASIN_EN of basin `b`. -/
def basinOn (s : State) (b : Nat) : Bool := bitOf (s.reg Reg.HOST_BASIN_EN).toNat b

/-- The code that refuses mailbox `m`'s command before it acts, in the order BAD_OPCODE, BASIN_RESET, a disabled basin's
STATE, NOT_ADMIN, recovery's STATE, BAD_PARAM (13 R501, R503, R516, R523; the order: assumption 29). -/
def refusal (s : State) (m : Nat) : Option Nat :=
  let cmd := (s.mailbox m).latched
  let op := fieldAt cmd 0 1
  match cmdInfo op with
  | none => some rcBadOpcode
  | some (basins, plenA, plenB) =>
    let plen := if m = 0 then plenA else plenB
    if 0 < m ∧ (s.basin (m - 1)).st = 2 then some rcBasinReset
    else if 0 < m ∧ op ≠ 1 ∧ s.basinOn (m - 1) = false then some rcState
    else if 0 < m ∧ basins = false then some rcNotAdmin
    else if s.mode = .recovery ∧ op ∉ recoveryCmds then some rcState
    else if fieldAt cmd 1 1 ≠ 0 ∨ fieldAt cmd (4 + plen) (60 - plen) ≠ 0 then some rcBadParam
    else none

/-- The command at the server is answered and leaves it (R497, R499). -/
def reply (m code : Nat) (results : List Byte) (s : State) : State :=
  let s := s.answer m code results
  { s with wq := s.wq.filter (· ≠ m) }

/-- Commands at the server's front whose opcode the table does not have are answered at once. -/
def drainBad : Nat → State → State
  | 0, s => s
  | n + 1, s =>
    match s.wq with
    | m :: _ => if s.refusal m = some rcBadOpcode then drainBad n (s.reply m rcBadOpcode []) else s
    | [] => s

/-- The basin and job number that a JOB_CANCEL names. -/
def cancelArgs (s : State) (m : Nat) : Nat × Nat := if m = 0 then (s.par 0 4 1, s.par 0 5 6) else (m - 1, s.par m 4 6)

/-- JOB_CANCEL acts in the cycle of its acceptance (14 R530): its response waits for its turn. -/
def cancelAtOnce (m : Nat) (s : State) : State :=
  if s.par m 0 1 = 0x31 ∧ s.refusal m = none then
    let a := s.cancelArgs m
    let r := if a.1 < 8 then s.cancelJob a.1 a.2 else (s, rcBadParam)
    r.1.setMailbox m { r.1.mailbox m with pre := some r.2 }
  else s

/-- Runs the body of a mailbox command: at the front of the server, BUSY and of opcode `op`, else nothing changes; the body
answers a code and results, none while the answer waits for a later event. -/
def serve (m op : Nat) (f : State → State × Option (Nat × List Byte)) (s : State) : State :=
  if s.wq.head? = some m ∧ (s.mailbox m).st = 1 ∧ s.par m 0 1 = op then
    let s := match s.refusal m with
      | some code => s.reply m code []
      | none =>
        match f s with
        | (s, some (code, results)) => s.reply m code results
        | (s, none) => s
    s.drainBad s.wq.length
  else s

/-- A body that only answers a code. -/
def code (r : State × Nat) : State × Option (Nat × List Byte) := (r.1, some (r.2, []))

end State

end Sys2Proof.Machine
end

