-- ==== Sys2Proof/Machine/Csr.lean ====
section
/-! DEFINITION. CSR space (17_register_reference.md R628 to R655): what a read of a word shows and does, what a write of a
word does, for every register; starts and stops of ports (11 R404), the step of the timebase (12 R454, R455) and
doorbells of mailboxes (13 R494 to R496), which writes bring about. -/
namespace Sys2Proof.Machine

/-- Number of a path with copies of its own. -/
def pathNum : Path → Nat
  | .wellhead => 0
  | .bar2 => 1
  | .fabric => 2

/-- Selectors: CATCH.SELECT and the registers whose names end in _SEL (R632). WEIR.PARAM_SEL and TXP.BEAM_SEL act on the
device as last written (assumption 27). -/
def isSelector (a : Nat) : Bool :=
  [Reg.CATCH_SELECT, Reg.FAULT_LOG_SEL, Reg.PWR_TEMP_SEL, Reg.PWR_VSET_SEL, Reg.HOST_TAG_SEL, Reg.SCHED_BUDGET_SEL,
   Reg.BKW_REGION_SEL, Reg.TRIB_ROUTE_SEL, Reg.FH_EAXC_SEL, Reg.FH_PEER_SEL, Reg.DFE_LANE_SEL, Reg.DFE_AGC_ATT_SEL,
   Reg.TIME_RADIO_SEL, Reg.TXP_BEAM_SEL, Reg.WEIR_PARAM_SEL 0, Reg.WEIR_PARAM_SEL 1, Reg.WEIR_PARAM_SEL 2,
   Reg.WEIR_PARAM_SEL 3].contains a

/-- The array and entry that a register shows, by its selector: array kind, selector, its index bits. -/
def arrayOf (a : Nat) : Option (Nat × Nat × Nat) :=
  if a = Reg.TRIB_ROUTE_BASE then some (bankRouteBase, Reg.TRIB_ROUTE_SEL, 6)
  else if a = Reg.TRIB_ROUTE_MASK then some (bankRouteMask, Reg.TRIB_ROUTE_SEL, 6)
  else if a = Reg.FH_EAXC_DATA then some (bankEaxc, Reg.FH_EAXC_SEL, 10)
  else if a = Reg.FH_PEER_MAC_LO then some (bankPeerLo, Reg.FH_PEER_SEL, 4)
  else if a = Reg.FH_PEER_MAC_HI then some (bankPeerHi, Reg.FH_PEER_SEL, 4)
  else if a = Reg.SCHED_BUDGET_MIN then some (bankMin, Reg.SCHED_BUDGET_SEL, 7)
  else if a = Reg.SCHED_BUDGET_MAX then some (bankMax, Reg.SCHED_BUDGET_SEL, 7)
  else if a = Reg.DFE_LANE_CRC_CNT then some (bankLaneCrc, Reg.DFE_LANE_SEL, 4)
  else if a = Reg.PWR_TEMP then some (bankTemp, Reg.PWR_TEMP_SEL, 4)
  else none

/-- An offset of the front end's configuration memory that R644 assigns; all others of its slots are reserved (R635). -/
def cfgHeld (off : Nat) : Bool :=
  [(0x1000, 0x80), (0x1100, 0x100), (0x1200, 0xC0), (0x2000, 0x1000), (0x3000, 0x9000), (0xC000, 0x1000)].any fun r =>
    decide (r.1 ≤ off ∧ off < r.1 + r.2)

/-- The latched halves (R449, R554, RXP.REACH_HI). -/
def isLatch (a : Nat) : Bool :=
  [Reg.TIME_FRAC, Reg.TIME_SUBSEC, Reg.TIME_RADIO, Reg.DET_CHOICES_HI, Reg.RXP_REACH_HI 0, Reg.RXP_REACH_HI 1,
   Reg.RXP_REACH_HI 2, Reg.RXP_REACH_HI 3].contains a

namespace State

/-! ## Service (16 R625, R626) -/

/-- The records that the next start uses, by carrier: staged ones, else applied ones. -/
def records (s : State) : Tab CarrierRec := s.func.staged.foldl (fun (t : Tab CarrierRec) r => tset t r.1 r.2) s.func.applied

/-- The state with the front-end words of records written, for their checks (R393). -/
def overlay (rs : List CarrierRec) (s : State) : State :=
  let c := rs.foldl (fun (c : Ctl) r => r.dfeWords.foldl (fun (c : Ctl) w => c.setArr bankCfg (w.1 / 4) w.2) c) s.ctl
  { s with ctl := c }

/-- The receive set of R625 is available. -/
def receiveSet (s : State) : Bool :=
  let cluster (c : Nat) : Bool := s.fence 5 c == 0
    && ((List.range 13).any fun i => s.domOn (13 * c + i) && (s.logOf (13 * c + i)).isSome && !s.coreFenced (13 * c + i))
    && s.domOn (52 + c) && s.domOn (56 + c)
    && (List.range 6).any fun e => bitOf (s.reg (Reg.WEIR_ENGINE_EN c)).toNat e && s.fence 1 (6 * c + e) == 0
  let front := s.fence 6 0 == 0 && !((s.overlay (s.records.map (·.2))).links bankCfg false).isEmpty
  let port := (List.range 8).any fun k => s.portFh k && s.fence 4 k == 0
  s.dramOn && !s.dramPairs.isEmpty && (List.range 4).any cluster && (front || port)

/-! ## Ports (11 R399 to R404, R447) -/

/-- The compression fields of FH.CFG lie in the supported subset (11, table). -/
def fhCfgOk (s : State) : Bool :=
  let c := (s.reg Reg.FH_CFG).toNat
  let w := bits c 3 0
  (bits c 7 4 == 0 && w == 0) || (bits c 7 4 == 1 && [0, 8, 9, 10, 12, 14].contains w)

/-- Copies the entries of one array to another. -/
def copyBank (frm into : Nat) (s : State) : State :=
  let base := frm * 2 ^ 20
  let b := tclear s.ctl.bank (into * 2 ^ 20) ((into + 1) * 2 ^ 20)
  let es := b.filter fun e => decide (base ≤ e.1 ∧ e.1 < base + 2 ^ 20)
  let b := es.foldl (fun (t : Tab Word) e => tput bankDefault t (into * 2 ^ 20 + (e.1 - base)) e.2) b
  { s with ctl := { s.ctl with bank := b } }

/-- Starts port `k`, whose configuration is written (R404, R447): none where it starts, else the code of the refusal. -/
def startPort (k : Nat) (s : State) : State × Option Nat :=
  if s.portOn k then (s, none)
  else if s.cpCfg k 3 2 = 3 ∨ s.fence 4 k ≠ 0 ∨ s.receiveSet = false then (s, some rcConfigBad)
  else if s.portFh k && !s.fhCfgOk then (s, some rcFhConfig)
  else
    let s := s.powerUp (61 + k / 4)
    let c := ((s.ctl.take (Reg.CP_VLAN k)).take Reg.TRIB_ETYPE).take Reg.FH_CFG
    let s := { s with ctl := c }
    let s := if s.portFh k then ((s.copyBank bankEaxc bankEaxcEff).copyBank bankPeerLo bankPeerLoEff).copyBank bankPeerHi bankPeerHiEff
      else s
    (s.setReg (Reg.CP_CFG k) (s.reg (Reg.CP_CFG k) ||| 1), none)

/-- Stops port `k` at its next frame boundary (R404). -/
def stopPort (k : Nat) (s : State) : State :=
  let p := s.port k
  let s := if p.link then s.clocksLost k else s
  (s.setPort k { p with link := false, fwd := [] }).setReg (Reg.CP_CFG k) (s.reg (Reg.CP_CFG k) &&& ~~~1)

/-- A port group with no port started is off (R404); CP.CFG of its ports stays as written. -/
def idleGroup (g : Nat) (s : State) : State :=
  if (List.range 4).any fun i => s.portOn (4 * g + i) then s
  else
    let keep := (List.range 4).map fun i => (Reg.CP_CFG (4 * g + i), s.reg (Reg.CP_CFG (4 * g + i)))
    keep.foldl (fun (s : State) r => s.setReg r.1 r.2) (s.powerDown (61 + g))

/-- A keyed write of CP.CFG: on every field while the port is stopped, on EN alone while it is started (R404). -/
def writeCpCfg (k : Nat) (v : Word) (s : State) : State :=
  if s.portOn k then (if bitOf v.toNat 0 then s else (s.stopPort k).idleGroup (k / 4))
  else
    let s := s.setReg (Reg.CP_CFG k) (v &&& 0x1FFE)
    if bitOf v.toNat 0 then (s.startPort k).1 else s

/-- After a fence the device establishes again which service it offers: without the receive set every output is stopped (16 R625,
R626; DEDUCED for outputs that run, assumption 34). -/
def serviceCheck (s : State) : State :=
  if !s.flt.recheck then s
  else
    let s := { s with flt := { s.flt with recheck := false } }
    if s.receiveSet then s
    else
      let s := if s.dfe.tx.on then s.stopDir true else s
      let s := (List.range 8).foldl (fun (s : State) k => if s.portOn k then s.stopPort k else s) s
      { s with func := { s.func with started := s.func.started &&& 7 } }

/-- What the block does on an empty queue: one timebase tick, the gates it evaluates, the notify writes that waited for it, and the
service offered after a fence (assumption 10). -/
def idle (s : State) : State :=
  let t := s.clearOuts.tick
  (if t.mode == .running then t.tickGates.notifyTick.serviceCheck.settle else t).withPending s.pending

/-! ## Time (12 R454, R455, R480) -/

/-- A front-end direction or a fronthaul port is started. -/
def radioStarted (s : State) : Bool :=
  s.dfe.rx.on || s.dfe.tx.on || (List.range 8).any fun k => s.portOn k && s.portFh k

/-- A GO: refused while a gate is armed or a direction or fronthaul port is started (R455), else taken at the next
tick. -/
def writeGo (s : State) : State :=
  if s.radioStarted || (List.range 52).any fun p => (s.core p).gate.armed then s.event Reg.TIME_STATUS Ev.TIME_STEP_REFUSED
  else s.onTime fun t => { t with goPend := true }

/-- A write to TIME.FRAME_ADV (R480). -/
def writeFrameAdv (v : Word) (s : State) : State :=
  if s.radioStarted then s
  else
    let x := max (-5000000) (min 5000000 v.toInt)
    (s.setReg Reg.TIME_FRAME_ADV (wordOfInt x)).onTime fun t => { t with advPend := some x }

/-! ## Mailboxes (13 R494 to R496) -/

/-- A doorbell of mailbox `m`. -/
def ringMailbox (m : Nat) (v : Nat) (s : State) : State :=
  let x := s.mailbox m
  if 0 < m ∧ (s.basin (m - 1)).st = 2 then s
  else if x.st = 1 then s.setMailbox m { x with overrun := true }
  else if v = fieldAt x.cmd 2 2 ∧ v = (x.accepted + 1) % 65536 then
    let x := { x with latched := x.cmd, accepted := v, st := 1, overrun := false, reject := false, pre := none }
    let s := { s.setMailbox m x with wq := s.wq ++ [m] }
    (s.cancelAtOnce m).drainBad s.wq.length
  else s.setMailbox m { x with reject := true }

/-- Bytes written to the command slot of mailbox `m`: discarded while BUSY (R496). -/
def writeSlot (m off : Nat) (bs : List Byte) (s : State) : State :=
  let x := s.mailbox m
  if x.st = 1 then s
  else
    let cmd := x.cmd.zipIdx.map fun (e : Byte × Nat) => if off ≤ e.2 ∧ e.2 < off + bs.length then bs.getD (e.2 - off) e.1 else e.1
    s.setMailbox m { x with cmd := cmd }

/-- MBX.STATUS of mailbox `m` (13, table). -/
def mbxStatus (s : State) (m : Nat) : Word :=
  if s.mode == .spill then
    if m = 0 then BitVec.ofNat 32 (bits (s.reg Reg.FAULT_SPILL_CAUSE).toNat 7 0 * 65536 + 7) else 0
  else
    let x := s.mailbox m
    BitVec.ofNat 32 (x.st + (if x.overrun then 256 else 0) + (if x.reject then 512 else 0))

/-- MBX.SEQ of mailbox `m`. -/
def mbxSeq (s : State) (m : Nat) : Word :=
  let x := s.mailbox m
  if s.mode == .spill then 0 else BitVec.ofNat 32 (x.accepted + x.done * 65536)

/-! ## Cores (04 CORE.CTRL, R160) -/

/-- A keyed write of CORE.CTRL. -/
def writeCoreCtrl (p : Nat) (v : Word) (s : State) : State :=
  let c := s.core p
  let halt := bitOf v.toNat 0
  let halted := match c.run with
    | .halted _ => true
    | _ => false
  let c := { c with
    haltReq := halt
    scrub := c.scrub || (bitOf v.toNat 1 && halted)
    run := if !halt && c.run == RunState.halted .ctrl then .running else c.run }
  match c.run with
  | .unpowered => s
  | .fenced => s
  | _ => s.setCore p c

/-- CORE.STATE (04, table). -/
def coreState (s : State) (p : Nat) : Nat :=
  let c := s.core p
  if s.coreFenced p then 4
  else match c.run with
    | .halted _ => 0
    | .running => if c.stall = 0 then 1 else 3
    | .waiting => if c.stall = 0 then 2 else 3
    | .fenced => 4
    | .unpowered => 5

/-- What a register of a CORE block reads (04, table). -/
def coreRead (s : State) (p off : Nat) : Word :=
  let c := s.core p
  if off = 0x40 then BitVec.ofNat 32 (s.coreState p)
  else if off = 0x44 then BitVec.ofNat 32 ((s.logOf p).getD 255 * 256 + clusterOf p * 64 + p)
  else if off = 0x48 then BitVec.ofNat 32 ((if c.haltReq then 1 else 0) + (if c.scrub then 2 else 0))
  else if (Blk.coreB.row off).isSome ∧ off ≠ 0x3F0 then c.reg off
  else 0

/-! ## Backwater (09 R360, R362) -/

/-- A write of BKW.CTRL. -/
def writeBkwCtrl (v : Word) (s : State) : State :=
  let old := s.bkwCtl 1
  let s := s.setReg Reg.BKW_CTRL (v &&& 0xB)
  let s := if bitOf v.toNat 2 then s.onBkw fun b => { b with advPend := true } else s
  if old && !bitOf v.toNat 1 then (List.range 16).foldl (fun (s : State) i => s.abortTrain i) s else s

/-- A write of BKW.CACHE_BASE or BKW.CACHE_SIZE: taken only while capture is off and no update trains or validates. -/
def writeCache (a : Nat) (v : Word) (s : State) : State := if s.cacheFree then (s.setReg a v).resetCache else s

/-! ## What a word reads -/

/-- Milliseconds of the lease that are left (TRIB.LEASE_LEFT). -/
def leaseLeft (s : State) : Nat :=
  if s.fabric.isSome then s.trib.leaseMs - (s.time.ticks - s.trib.leasedAt) / 245760 else 0

/-- A field of one bit per unit. -/
def maskOf (f : Nat → Bool) (n : Nat) : Nat := ((List.range n).map fun i => if f i then 2 ^ i else 0).foldl (· + ·) 0

/-- Basin states, two bits each (HOST.BASIN_STATE). -/
def basinStates (s : State) : Nat := ((List.range 8).map fun b => (s.basin b).st * 4 ^ b).foldl (· + ·) 0

/-- Sluice transfers in progress that carry basin `b`'s tag. -/
def sluiceTags (s : State) (b : Nat) : Nat :=
  ((List.range 52).map fun p => (((s.core p).si ++ (s.core p).so).filter fun x => x.basin == b + 8).length).foldl (· + ·) 0

/-- HOST.TAG_CNT of a basin. -/
def tagCnt (s : State) (b : Nat) : Nat :=
  min 4095 (s.sluiceTags b) + min 4095 (s.weirTags b) * 4096 + min 255 (s.fabricTags b) * 2 ^ 24

/-- The word at an offset of a mailbox block. -/
def mbxWord (s : State) (m off : Nat) : Word :=
  let x := s.mailbox m
  if off < 0x40 then BitVec.ofNat 32 (fieldAt x.cmd off 4)
  else if off < 0x80 then BitVec.ofNat 32 (fieldAt x.resp (off - 0x40) 4)
  else if off = 0x84 then s.mbxSeq m
  else if off = 0x88 then s.mbxStatus m
  else 0

/-- A register that the device computes as it is read, by its CSR offset; none for one that holds its value. `sel` gives
what a selector holds for the reader. -/
def computed (s : State) (sel : Nat → Nat) (a : Nat) : Option Word :=
  let t := s.time
  let n (v : Nat) : Option Word := some (BitVec.ofNat 32 v)
  if a = Reg.CHIP_IDENT then
    n (0x48200000 + s.fuses.stepMajor.val * 2 ^ 18 + s.fuses.stepMinor.val * 2 ^ 16 + s.enabled * 256
      + (if s.fuses.tempI then 128 else 0))
  else if a = Reg.TIME_NS32 then some s.ns32
  else if a = Reg.TIME_ADJ then some t.adjRead
  else if a = Reg.TIME_STATE then n (t.source * 16 + t.clock)
  else if a = Reg.FAULT_LOG_DATA then
    let k := sel Reg.FAULT_LOG_SEL
    some (tget (fun _ => 0) s.ctl.log (bits k 7 0 * 8 + bits k 10 8))
  else if a = Reg.FAULT_FENCED_LO then n (maskOf (fun p => s.coreFenced p) 32)
  else if a = Reg.FAULT_FENCED_HI then
    n (maskOf (fun p => s.coreFenced (32 + p)) 20 + maskOf (fun c => s.fence 5 c != 0) 4 * 2 ^ 20
      + maskOf (fun k => s.fence 4 k != 0) 8 * 2 ^ 24)
  else if a = Reg.PWR_BUBBLE then n s.pwr.bubble
  else if a = Reg.PWR_DOM_CORE_LO then n (maskOf (fun p => s.domOn p) 32)
  else if a = Reg.PWR_DOM_CORE_HI then n (maskOf (fun p => s.domOn (32 + p)) 20)
  else if a = Reg.PWR_DOM_OTHER then n (maskOf (fun p => s.domOn (52 + p)) 13)
  else if a = Reg.PWR_VSET then n (tget (fun _ => 0) s.pwr.mv (sel Reg.PWR_VSET_SEL) / 10)
  else if a = Reg.CATCH_FAULTWORD then
    let d := sel Reg.CATCH_SELECT % 256
    if (s.catchment d).isSome then some (s.ctl.arr bankCatch d) else some 0x000FFF00
  else if a = Reg.HOST_BASIN_STATE then n s.basinStates
  else if a = Reg.HOST_TAG_CNT then n (s.tagCnt (sel Reg.HOST_TAG_SEL % 8))
  else if a = Reg.HOST_SMB_ADDR then
    n (s.smb.addr.toNat + (if s.smb.ar then 128 else 0) + (if s.smb.av then 256 else 0) + (if s.smb.fixed then 512 else 0))
  else if a = Reg.DET_CHOICES then n (s.sched.choices % 2 ^ 32)
  else if a = Reg.BKW_REGION_STATE then n (s.regionState (sel Reg.BKW_REGION_SEL % 16))
  else if a = Reg.TRIB_LEASE_LEFT then n (s.leaseLeft % 2 ^ 24)
  else if a = Reg.TRIB_UID0 then n (s.fuses.uid.toNat % 2 ^ 32)
  else if a = Reg.TRIB_UID1 then n (s.fuses.uid.toNat / 2 ^ 32 % 2 ^ 32)
  else if a = Reg.TRIB_UID2 then n (s.fuses.uid.toNat / 2 ^ 64 % 2 ^ 32)
  else if a = Reg.TRIB_UID3 then n (s.fuses.uid.toNat / 2 ^ 96 % 2 ^ 32)
  else if a = Reg.DFE_AGC_ATT then n (s.agcOf (sel Reg.DFE_AGC_ATT_SEL % 32)).att
  else if a = Reg.MBXS_STATE then n (((List.range 9).map fun m => (s.mbxStatus m).toNat % 8 * 8 ^ m).foldl (· + ·) 0)
  else
    let k := (a - 0x400000) / 0x1000
    if 0x400000 ≤ a ∧ a < 0x408000 then
      let p := s.port k
      if a % 0x1000 = 0x0C then n ((if p.link then 1 else 0) + (if p.an then 2 else 0) + p.fec % 16 * 4)
      else if a % 0x1000 = 0x14 then n (s.portMac k % 2 ^ 32)
      else if a % 0x1000 = 0x18 then n (s.portMac k / 2 ^ 32)
      else none
    else match (List.range 4).find? fun c => a == Reg.RXP_REACH_LO c with
      | some c => n ((tget (fun _ => Rx.reset) s.rx c).reaches % 2 ^ 32)
      | none => none

/-- What the registers outside the CORE blocks, the mailboxes and the memories read. -/
def regRead (s : State) (sel : Nat → Nat) (latch : Nat → Word) (a : Nat) : Word :=
  match s.computed sel a with
  | some w => w
  | none =>
    if isSelector a then BitVec.ofNat 32 (sel a)
    else if isLatch a then latch a
    else match arrayOf a with
      | some (kind, selr, n) => s.ctl.arr kind (sel selr % 2 ^ n)
      | none => match rowAt a with
        | some r => if r.acc == .wo then 0 else s.reg a
        | none => 0

/-- What offset `off` of CSR space reads as, without the read's side effects (R628, R633 to R644). -/
def wordAt (s : State) (sel : Nat → Nat) (latch : Nat → Word) (off : Nat) : Word :=
  let b := csrAt s.enabled off
  let a := b.2.1 + b.2.2
  let shown := s.mode != .spill || b.1 == .chipB || b.1 == .timeB || b.1 == .faultB || b.1 == .logWin
  if !shown then 0
  else match b.1 with
    | .coreB =>
      let k := (b.2.1 - 0x100000) / 0x1000 % 256
      if b.2.1 < 0x200000 then
        match s.physOf k with
        | some p => s.coreRead p b.2.2
        | none => 0
      else if s.fuses.disabled.any fun p => p.val == k then 0 else s.coreRead k b.2.2
    | .mbxB => s.mbxWord ((b.2.1 - 0x601000) / 0x1000) b.2.2
    | .cfgMem => if cfgHeld (a - 0x500000) then s.ctl.arr bankCfg ((a - 0x500000) / 4) else 0
    | .logWin => tget (fun _ => 0) s.ctl.log ((a - 0xC000) / 4)
    | _ => s.regRead sel latch a

/-- What a path's selectors and latches hold. -/
def pathSel (s : State) (p a : Nat) : Nat := (s.ctl.sel p a).toNat
def pathLatch (s : State) (p a : Nat) : Word := s.ctl.sel p a

/-- A read of the word at `off` by a path, with its side effects: TIME.NS32, DET.CHOICES and RXP.REACH_LO latch their
companions (R449, R554, R632). BAR2 reads as zero while a boot ROM is in recovery (16 R613). -/
def readWord (p off : Nat) (s : State) : State × Word :=
  if s.mode == .recovery && p == 1 then (s, 0) else
  let w := s.wordAt (s.pathSel p) (s.pathLatch p) off
  let b := csrAt s.enabled off
  let a := b.2.1 + b.2.2
  let put (r : Nat) (v : Word) (s : State) : State := { s with ctl := s.ctl.setSel p r v }
  let s :=
    if a = Reg.TIME_NS32 then
      let t := s.time
      let mu := s.pathSel p Reg.TIME_RADIO_SEL % 4
      ((put Reg.TIME_FRAC (BitVec.ofNat 32 (t.cnt.toNat % 2 ^ 40 / 256)) s)
        |> put Reg.TIME_SUBSEC (BitVec.ofNat 32 (t.sub / 2 ^ 40)))
        |> put Reg.TIME_RADIO (t.radio mu)
    else if s.mode == .spill then s
    else if a = Reg.DET_CHOICES then put Reg.DET_CHOICES_HI (BitVec.ofNat 32 (s.sched.choices / 2 ^ 32)) s
    else match (List.range 4).find? fun c => a == Reg.RXP_REACH_LO c with
      | some c => put (Reg.RXP_REACH_HI c) (BitVec.ofNat 32 ((tget (fun _ => Rx.reset) s.rx c).reaches / 2 ^ 32)) s
      | none => s
  (s, w)

/-- The bytes of a read of any length and alignment (R630). -/
def readCsr (p off n : Nat) (s : State) : State × List Byte :=
  let first := off / 4
  let count := (off + n + 3) / 4 - first
  let r := (List.range count).foldl (fun (acc : State × List Byte) i =>
    let x := acc.1.readWord p ((first + i) * 4)
    (x.1, acc.2 ++ leBytes 4 x.2.toNat)) (s, [])
  (r.1, (r.2.drop (off % 4)).take n)

/-! ## What a write of a word does -/

/-- The lock of the block of a KEYED register or UNLOCK register: its UNLOCK offset, or 2^24 + the physical core. -/
def lockKey (s : State) (b : Blk × Nat × Nat) : Option Nat :=
  match b.1 with
  | .coreB =>
    let k := (b.2.1 - 0x100000) / 0x1000 % 256
    if b.2.1 < 0x200000 then (s.physOf k).map fun p => 2 ^ 24 + p else some (2 ^ 24 + k)
  | _ => some (b.2.1 + 0x3F0)

/-- Opens or closes a lock (R651); the latest opening write counts for its 100 µs (DEDUCED, assumption 91). -/
def setLock (key : Nat) (on : Bool) (s : State) : State :=
  let l := s.ctl.locks.filter fun k => k ≠ key
  { s with ctl := { s.ctl with
      locks := if on then l ++ [key] else l
      lockAt := if on then tset s.ctl.lockAt key s.time.ticks else s.ctl.lockAt } }

/-- The 100 µs of an open lock are over: 12,288 cycles of the peripheral clock, 24,576 ticks (R653; 16 R584). -/
def lockOver (s : State) (key : Nat) : Bool := decide (tget (fun _ => 0) s.ctl.lockAt key + 24576 ≤ s.time.ticks)

/-- A lock is open (R652, R653). -/
def lockOpen (s : State) (key : Nat) : Bool := s.ctl.locks.contains key && !s.lockOver key

/-- An accepted KEYED write outside the CORE blocks (R652, R655). -/
def writeKeyed (a : Nat) (v : Word) (s : State) : State :=
  if a = Reg.TIME_SET_CTL then (if bitOf v.toNat 0 then s.writeGo else s)
  else if a = Reg.HOST_BASIN_EN then
    let busy := match s.wq.head? with
      | some m => fieldAt (s.mailbox m).latched 0 1 == 0x28
      | none => false
    if busy then s
    else
      let s := s.setReg a (v &&& 0xFF)
      (List.range 8).foldl (fun (s : State) b =>
        let x := s.basin b
        if x.st = 2 then s else s.setBasin b { x with st := if bitOf v.toNat b then 1 else 0 }) s
  else if a = Reg.DET_STRICT then s.setReg a (s.reg a &&& ~~~1 ||| (v &&& 1))
  else if a = Reg.DRAM_CFG then (if s.dramOn then s else s.setReg a (v &&& 0x63))
  else match (List.range 4).find? fun q => a == Reg.WEIR_ENGINE_EN q with
    | some q =>
      let off := maskOf (fun e => s.fence 1 (q * 6 + e) != 0) 6 + maskOf (fun e => s.fence 2 (q * 2 + e) != 0) 2 * 64
        + (if s.fence 3 q != 0 then 256 else 0)
      let s := s.setReg a (v &&& 0x1FF &&& ~~~(BitVec.ofNat 32 off))
      ((s.moveEncoder (2 * q)).moveEncoder (2 * q + 1)).assignEngines q
    | none => match (List.range 8).find? fun k => a == Reg.CP_CFG k with
      | some k => s.writeCpCfg k v
      | none => match rowAt a with
        | some r => s.setReg a (s.reg a &&& ~~~(BitVec.ofNat 32 r.key) ||| (v &&& BitVec.ofNat 32 r.key))
        | none => s

/-- A write to an RW register (R632, and the rules of each chapter). -/
def writeRw (p a : Nat) (r : RegRow) (v : Word) (s : State) : State :=
  let m := BitVec.ofNat 32 r.rw
  let w := v &&& m
  if isSelector a then
    { s with ctl := s.ctl.setSel p a w }.setReg a w
  else match arrayOf a with
    | some (kind, selr, n) => { s with ctl := s.ctl.setArr kind (s.pathSel p selr % 2 ^ n) w }
    | none =>
      if a = Reg.TIME_INCREMENT_HI then (s.setReg a w).putIncrement ((s.reg Reg.TIME_INCREMENT).toNat + w.toNat * 2 ^ 32)
      else if a = Reg.TIME_ADJ then s.onTime fun t => { t with adjPend := some w }
      else if a = Reg.TIME_FRAME_ADV then s.writeFrameAdv v
      else if a = Reg.BKW_CTRL then s.writeBkwCtrl v
      else if a = Reg.BKW_CACHE_BASE ∨ a = Reg.BKW_CACHE_SIZE then s.writeCache a w
      else if 0x400000 ≤ a ∧ a < 0x408000 ∧ (a % 0x1000 = 0x14 ∨ a % 0x1000 = 0x18) then
        if s.portFh ((a - 0x400000) / 0x1000) then s.setReg a w else s
      else s.setReg a (s.reg a &&& ~~~m ||| w)

/-- A clear-by-sequence write (R647; 01 R29 for the fault word of a catchment). -/
def writeSeq (p a : Nat) (r : RegRow) (v : Word) (s : State) : State :=
  if a = Reg.CATCH_FAULTWORD then
    let d := s.pathSel p Reg.CATCH_SELECT % 256
    if (s.catchment d).isNone then s
    else
      let w := evClear (s.ctl.arr bankCatch d) v r.ev
      let w := if v.toNat / 2 ^ 24 = (s.ctl.arr bankCatch d).toNat / 2 ^ 24 ∧ bits w.toNat 4 0 = 0 then setBits w 19 8 0xFFF else w
      { s with ctl := s.ctl.setArr bankCatch d w }
  else s.setReg a (evClear (s.reg a) v r.ev)

/-- A write of a word to a CORE block of physical core `q` (04; R638, R639). -/
def writeCore (q off : Nat) (v : Word) (s : State) : State :=
  match Blk.coreB.row off with
  | none => s
  | some r =>
    match r.acc with
    | .wseq => s.setCore q ((s.core q).setReg off (evClear ((s.core q).reg off) v r.ev))
    | .rw =>
      let m := BitVec.ofNat 32 r.rw
      s.setCore q ((s.core q).setReg off (((s.core q).reg off &&& ~~~m) ||| (v &&& m)))
    | .keyed =>
      if s.lockOpen (2 ^ 24 + q) then (s.setLock (2 ^ 24 + q) false).writeCoreCtrl q v else s
    | .wo => s.setLock (2 ^ 24 + q) (v == 0x5A3C)
    | .ro => s

/-- A write of the aligned word at CSR offset `off` by a path (R629, R635 to R640, R651 to R655). -/
def writeWord (p off : Nat) (v : Word) (s : State) : State :=
  let b := csrAt s.enabled off
  let a := b.2.1 + b.2.2
  if s.mode != .running then s
  else match b.1 with
    | .coreB =>
      let k := (b.2.1 - 0x100000) / 0x1000 % 256
      if b.2.1 < 0x200000 then
        match s.physOf k with
        | some q => s.writeCore q b.2.2 v
        | none => s
      else if p ≠ 0 ∨ (s.fuses.disabled.any fun d => d.val == k) then s
      else s.writeCore k b.2.2 v
    | .mbxB =>
      let m := (b.2.1 - 0x601000) / 0x1000
      if b.2.2 < 0x40 then s.writeSlot m b.2.2 (leBytes 4 v.toNat)
      else if b.2.2 = 0x80 then s.ringMailbox m (v.toNat % 65536) else s
    | .cfgMem => if cfgHeld (a - 0x500000) then { s with ctl := s.ctl.setArr bankCfg ((a - 0x500000) / 4) v } else s
    | .logWin => s
    | _ => match rowAt a with
      | none => s
      | some r => match r.acc with
        | .ro => s
        | .wseq => s.writeSeq p a r v
        | .rw => s.writeRw p a r v
        | .wo => s.setLock a (v == 0x5A3C)
        | .keyed =>
          let key := b.2.1 + 0x3F0
          if s.lockOpen key then (s.setLock key false).writeKeyed a v else s

/-- A write of any length and alignment: the aligned words it covers whole, in ascending order (R630). -/
def writeCsr (p off : Nat) (bs : List Byte) (s : State) : State :=
  let first := (off + 3) / 4
  let count := (off + bs.length) / 4 - first
  (List.range count).foldl (fun (s : State) i =>
    s.writeWord p ((first + i) * 4) (BitVec.ofNat 32 (fieldAt bs ((first + i) * 4 - off) 4))) s

/-- The access of the register at an offset. -/
def accAt (s : State) (off : Nat) : Option Acc :=
  let b := csrAt s.enabled off
  (b.1.row b.2.2).map (·.acc)

end State

/-- The CSR offset of a CORE register as a write names its core (17 R638, R639). -/
def coreOffset (sel : CoreSel) (off : Nat) : Nat :=
  match sel with
  | .logical k => 0x100000 + k.val * 0x1000 + off
  | .physical p => 0x200000 + p.val * 0x1000 + off

/-! ## The commands -/

/-- HALT (04 R160; CORE.CTRL): a keyed write of HALT. -/
def execHalt (path : Path) (sel : CoreSel) (on : Bool) (s : State) : Host.Outcome State Fault Refusal :=
  s.run fun s => s.writeWord (pathNum path) (coreOffset sel 0x48) (if on then 1 else 0)

/-- SCRUB (04, CORE.CTRL): a keyed write of SCRUB that leaves HALT set. -/
def execScrub (path : Path) (sel : CoreSel) (s : State) : Host.Outcome State Fault Refusal :=
  s.run fun s => s.writeWord (pathNum path) (coreOffset sel 0x48) 3

/-- INCREMENT_WRITE (12 R451): a write of TIME.INCREMENT_HI. -/
def execIncrementWrite (path : Path) (v : Word) (s : State) : Host.Outcome State Fault Refusal :=
  s.run fun s => s.writeWord (pathNum path) Reg.TIME_INCREMENT_HI v

/-- ADJ_WRITE (12 R453). -/
def execAdjWrite (path : Path) (v : Word) (s : State) : Host.Outcome State Fault Refusal :=
  s.run fun s => s.writeWord (pathNum path) Reg.TIME_ADJ v

/-- GO (12 R454, R455): a keyed write of TIME.SET_CTL. -/
def execGo (path : Path) (v : Word) (s : State) : Host.Outcome State Fault Refusal :=
  s.run fun s => s.writeWord (pathNum path) Reg.TIME_SET_CTL v

/-- FRAME_ADV_WRITE (12 R480). -/
def execFrameAdvWrite (path : Path) (v : Word) (s : State) : Host.Outcome State Fault Refusal :=
  s.run fun s => s.writeWord (pathNum path) Reg.TIME_FRAME_ADV v

/-- A read by a path that puts out the word read. -/
def State.showRead (p off : Nat) (s : State) : State :=
  let r := s.readWord p off
  r.1.emit (.csr r.2)

/-- NS32_READ (12 R449): it latches on in the spillway state too (17 R640). -/
def execNs32Read (path : Path) (s : State) : Host.Outcome State Fault Refusal :=
  s.runOn fun s => s.showRead (pathNum path) Reg.TIME_NS32

/-- REACH_LO_READ (02 R80; 17 R632). -/
def execReachLoRead (path : Path) (c : Fin 4) (s : State) : Host.Outcome State Fault Refusal :=
  s.run fun s => s.showRead (pathNum path) (Reg.RXP_REACH_LO c.val)

/-- CHOICES_READ (14 R554). -/
def execChoicesRead (path : Path) (s : State) : Host.Outcome State Fault Refusal :=
  s.run fun s => s.showRead (pathNum path) Reg.DET_CHOICES

/-- WSEQ_CLEAR (17 R647): a write to a register that clears by sequence. -/
def execWseqClear (path : Path) (off : BitVec 24) (v : Word) (s : State) : Host.Outcome State Fault Refusal :=
  s.run fun s => if s.accAt off.toNat = some .wseq then s.writeWord (pathNum path) off.toNat v else s

/-- UNLOCK (17 R651). -/
def execUnlock (path : Path) (off : BitVec 24) (v : Word) (s : State) : Host.Outcome State Fault Refusal :=
  s.run fun s => if s.accAt off.toNat = some .wo then s.writeWord (pathNum path) off.toNat v else s

/-- LOCK_TIMEOUT (17 R653): the lock of the block of an UNLOCK register closes 100 µs after it opened. -/
def execLockTimeout (off : BitVec 24) (s : State) : Host.Outcome State Fault Refusal :=
  s.run fun s =>
    match s.lockKey (csrAt s.enabled off.toNat) with
    | some k => if s.lockOver k then s.setLock k false else s
    | none => s

/-- PORT_START (11 R404): a keyed write of CP.CFG with EN set. -/
def execPortStart (path : Path) (port : Fin 8) (v : Word) (s : State) : Host.Outcome State Fault Refusal :=
  s.run fun s => if bitOf v.toNat 0 then s.writeWord (pathNum path) (Reg.CP_CFG port.val) v else s

/-- PORT_STOP (11 R404): a keyed write of CP.CFG with EN clear. -/
def execPortStop (path : Path) (port : Fin 8) (v : Word) (s : State) : Host.Outcome State Fault Refusal :=
  s.run fun s => if bitOf v.toNat 0 then s else s.writeWord (pathNum path) (Reg.CP_CFG port.val) v

/-- DRAM_CFG_WRITE (07 R273). -/
def execDramCfgWrite (path : Path) (v : Word) (s : State) : Host.Outcome State Fault Refusal :=
  s.run fun s => s.writeWord (pathNum path) Reg.DRAM_CFG v

/-- EPOCH_ADV (09 R333): a write of BKW.CTRL with EPOCH_ADV set. -/
def execEpochAdv (path : Path) (v : Word) (s : State) : Host.Outcome State Fault Refusal :=
  s.run fun s => s.writeWord (pathNum path) Reg.BKW_CTRL (v ||| 4)

/-- TRAIN_DISABLE (09 R360): a write of BKW.CTRL with TRAIN_EN clear. -/
def execTrainDisable (path : Path) (v : Word) (s : State) : Host.Outcome State Fault Refusal :=
  s.run fun s => s.writeWord (pathNum path) Reg.BKW_CTRL (v &&& ~~~2)

/-- CACHE_CONFIG_WRITE (09 R362): BKW.CACHE_BASE, or BKW.CACHE_SIZE. -/
def execCacheConfigWrite (path : Path) (size : Bool) (v : Word) (s : State) : Host.Outcome State Fault Refusal :=
  s.run fun s => s.writeWord (pathNum path) (if size then Reg.BKW_CACHE_SIZE else Reg.BKW_CACHE_BASE) v

/-- A mailbox takes writes and doorbells: in recovery the admin mailbox alone (16 R613). -/
def State.mbxOpen (s : State) (m : Nat) : Bool := s.mode != .recovery || m == 0

/-- COMMAND_SLOT_WRITE (13 R496): bytes of MBX.COMMAND of mailbox `m`. -/
def execCommandSlotWrite (f : PFunc) (m : Fin 9) (off : Fin 64) (bytes : List Byte) (s : State) : Host.Outcome State Fault Refusal :=
  s.run fun s => if s.fnServes f m.val && s.mbxOpen m.val then s.writeSlot m.val off.val (bytes.take (64 - off.val)) else s

/-- REGISTER_WRITE (17 R630): a write of any length at any CSR offset. -/
def execRegisterWrite (path : Path) (off : BitVec 24) (bytes : List Byte) (s : State) : Host.Outcome State Fault Refusal :=
  s.run fun s => s.writeCsr (pathNum path) off.toNat bytes

/-- DOORBELL (13 R494, R495): a doorbell of mailbox `m`; while the boot ROM is in recovery only the admin mailbox's. -/
def execDoorbell (f : PFunc) (m : Fin 9) (v : BitVec 16) (s : State) : Host.Outcome State Fault Refusal :=
  s.run fun s => if s.fnServes f m.val && s.mbxOpen m.val then s.ringMailbox m.val v.toNat else s

end Sys2Proof.Machine
end

