-- ==== Sys2Proof/Machine/Trib.lean ====
section
/-! DEFINITION. The Tributary transport as a receiver and as a source of frames, retries, and the lease of the fabric
address (11_confluence_ports.md R406 to R434). -/
namespace Sys2Proof.Machine

/-- Timebase ticks in one millisecond (12: 245.76 MHz). -/
@[reducible] def ticksPerMs : Nat := 245760

/-- `n` units of 10 ns have passed between two ticks (a tick is 3,125 / 768 ns). -/
def passed10 (n frm now : Nat) : Bool := decide (n * 10 * 768 ≤ (now - frm) * 3125)

/-- A sequence value lies below another (R417: comparisons modulo 2^24). -/
def seqBelow (a c : Nat) : Bool := decide ((c + 2 ^ 24 - 1 - a) % 2 ^ 24 < 2 ^ 23)

/-- A frame's fields that must be zero are zero (R406, R407). -/
def zeroFields (f : Frame) : Bool :=
  f.flags.toNat < 32 && f.dst.toNat < 2 ^ 18 && f.src.toNat < 2 ^ 18 && f.basin.toNat < 16 && f.addr.toNat < 2 ^ 46 && f.zero == 0

/-- A source with nothing received. -/
def SrcSt.reset : SrcSt := ⟨0, [], [], [], none, false, 0⟩

/-- The fields of a discovery payload (table): UID, leaser, address, lease in ms. -/
def discUid (f : Frame) : Nat := fieldAt f.payload 0 16
def discLeaser (f : Frame) : Nat := fieldAt f.payload 16 16
def discAddr (f : Frame) : Nat := fieldAt f.payload 32 4 % 2 ^ 18
def discMs (f : Frame) : Nat := fieldAt f.payload 36 4
def discPayload (uid leaser addr ms : Nat) : List Byte := leBytes 16 uid ++ leBytes 16 leaser ++ leBytes 4 addr ++ leBytes 4 ms

namespace State

/-- A source's record. -/
def srcSt (s : State) (a : Nat) : SrcSt := tget (fun _ => SrcSt.reset) s.trib.src a

/-- Replaces a source's record. -/
def setSrc (a : Nat) (x : SrcSt) (s : State) : State := { s with trib := { s.trib with src := tset s.trib.src a x } }

/-- Updates the transport. -/
def onTrib (f : Trib → Trib) (s : State) : State := { s with trib := f s.trib }

/-! ## Transfers of this device that end (R421, R422) -/

/-- The transfer that waits under a number has its answer. -/
def answerXfer (who : Nat) (ok : Bool) (s : State) : State :=
  if who = whoNone then s
  else
    let p := who / 65536 / 2
    let so := who / 65536 % 2 == 1
    let f (l : List Xfer) : List Xfer := l.map fun x => if x.num = who % 65536 then { x with remote := .answered ok } else x
    s.onCore p fun c => if so then { c with so := f c.so } else { c with si := f c.si }

/-- A part of a transfer is over: the transfer has its answer once none is left. -/
def endRemote (r : Remote) (s : State) : State :=
  let rest := s.trib.remotes.filter fun q => q ≠ r
  let mine (q : Remote) : Bool := q.who == r.who && r.who != whoNone
  let s := s.onTrib fun t => { t with remotes := rest.map fun q => if mine q then { q with err := q.err || r.err } else q }
  if rest.any mine then s else s.answerXfer r.who (!r.err)

/-- Parts with nothing left to come end. -/
def endRemotes (s : State) : State :=
  (s.trib.remotes.filter fun r => r.left == 0).foldl (fun (s : State) r =>
    match s.trib.remotes.find? fun q => q.xfer == r.xfer && q.dst == r.dst && q.write == r.write && q.who == r.who with
    | some q => s.endRemote q
    | none => s) s

/-- Every transfer to device `d` ends in error (R422, R433). -/
def failRemotes (d : Nat) (s : State) : State :=
  (s.onTrib fun t => { t with remotes := t.remotes.map fun r => if r.dst = d then { r with left := 0, err := true } else r }).endRemotes

/-! ## Frames held for retry (R420 to R423) -/

/-- Frames that wait for room in a port's replay buffer are sent in order as they fit. -/
def sendWaiting (d : Nat) (s : State) : State :=
  let t := s.destSt d
  (List.range t.out.length).foldl (fun (s : State) i =>
    let t := s.destSt d
    match t.out[i]? with
    | some o =>
      let p := s.port o.port
      if o.sends = 0 ∧ p.replay + frameSize o.f ≤ 2 * 1024 * 1024 ∧ !((t.out.take i).any fun q => q.sends == 0) then
        let s := s.setDest d { t with out := t.out.set i { o with sends := 1, lastSent := s.time.ticks } }
        (s.setPort o.port { p with replay := p.replay + frameSize o.f }).sendFrame o.port o.f
      else s
    | none => s) s

/-- A frame leaves its replay buffer. -/
def freeReplay (o : OutFrame) (s : State) : State :=
  if o.sends = 0 then s else let p := s.port o.port; s.setPort o.port { p with replay := p.replay - frameSize o.f }

/-- A destination is unreachable: its transfers end in error, its frames are dropped (R422). -/
def unreachable (d : Nat) (s : State) : State :=
  let t := s.destSt d
  let s := t.out.foldl (fun (s : State) o => s.freeReplay o) s
  let s := s.setDest d { t with out := [], unreach := true }
  let s := s.failRemotes d
  let s := s.latchIf (!bitOf (s.reg Reg.TRIB_STATUS).toNat Ev.TRIB_UNREACH) Reg.TRIB_UNREACH_ADDR (BitVec.ofNat 32 d)
  (s.count Reg.TRIB_UNREACH_CNT 1).event Reg.TRIB_STATUS Ev.TRIB_UNREACH

/-- Sends a held frame again, on its port while that is usable, else on the port that R414 chooses among those still up;
after RETRY_MAX + 1 sends its destination is unreachable (R414, R420, R422). -/
def resend (d i : Nat) (s : State) : State :=
  let t := s.destSt d
  match t.out[i]? with
  | none => s
  | some o =>
    if bits o.cfg.toNat 19 16 + 1 ≤ o.sends then s.unreachable d
    else
      let k := if s.portUsable o.port then some o.port else portOf d o.f.xfer.toNat (s.routePorts d)
      match k with
      | none => s.unreachable d
      | some k =>
        let s := if k = o.port then s
          else (s.freeReplay o).setPort k { s.port k with replay := (s.port k).replay + frameSize o.f }
        let s := s.setDest d { t with out := t.out.set i { o with port := k, sends := o.sends + 1, lastSent := s.time.ticks } }
        (s.sendFrame k (retryFrame o.f)).count Reg.TRIB_RETRY_CNT 1

/-- ACK: every frame below its SEQ is covered; writes it covers have been performed; ERR ends its transfer in error
(R418, R421; 07 R271). -/
def takeAck (f : Frame) (s : State) : State :=
  let d := f.src.toNat
  let t := s.destSt d
  let cov (o : OutFrame) : Bool := decide (0 < o.sends) && seqBelow o.f.seq.toNat f.seq.toNat
  let done := t.out.filter cov
  let s := s.setDest d { t with out := t.out.filter fun o => !cov o }
  let s := done.foldl (fun (s : State) o => s.freeReplay o) s
  let n (x : Nat) : Nat := (done.filter fun o => o.f.typ == 1 && o.f.xfer.toNat == x).length
  let err := bitOf f.flags.toNat 3
  let g (r : Remote) : Remote :=
    if r.dst = d ∧ r.write = true then
      { r with left := r.left - n r.xfer, err := r.err || (err && r.xfer == f.xfer.toNat) }
    else r
  (s.onTrib fun t => { t with remotes := t.remotes.map g }).endRemotes.sendWaiting d

/-- NACK: the frame it names is sent again (R420). -/
def takeNack (f : Frame) (s : State) : State :=
  let d := f.src.toNat
  let i := (s.destSt d).out.findIdx fun o => decide (0 < o.sends) && o.f.seq.toNat == f.seq.toNat
  s.resend d i

/-- RETRY_TIMEOUT: a frame unacknowledged for TIMEOUT since it was last sent (R420). -/
def retryTimeout (d seq : Nat) (s : State) : State :=
  let out := (s.destSt d).out
  let i := out.findIdx fun o => decide (0 < o.sends) && o.f.seq.toNat == seq
  match out[i]? with
  | some o => if passed10 (max 1 (bits o.cfg.toNat 15 0)) o.lastSent s.time.ticks then s.resend d i else s
  | none => s

/-! ## Landing (R408 to R411, R424 to R427) -/

/-- Sends an ACK or NACK to a source, on the port its last frame came in on. -/
def sendCtl (typ flags a seq xfer : Nat) (s : State) : State :=
  s.sendFrame (s.srcSt a).port (mkFrame typ flags a s.srcAddr seq 0 xfer 0 [])

/-- Acknowledges a source once every frame below its cumulative point has landed (R418): the transfers that have ended in error
first (07 R271), each in an ACK of its own. -/
def sendAck (a : Nat) (s : State) : State :=
  let x := s.srcSt a
  if x.held.any fun f => seqBelow f.seq.toNat x.c then s
  else
    let s := s.setSrc a { x with ackOwed := false, errs := [] }
    if x.errs.isEmpty then s.sendCtl 4 0 a x.c 0
    else x.errs.foldl (fun (s : State) xfer => s.sendCtl 4 8 a x.c xfer) s

/-- A local CSR address. -/
def csrOff (a : Nat) : Option Nat := if 0x1F0000000000 ≤ a ∧ a < 0x1F0001000000 then some (a - 0x1F0000000000) else none

/-- The requester code of a port. -/
def reqPort (k : Nat) : Nat := 0x300 + k

/-- A segment descriptor of another device of the group lands in its part of an LLR ring: its segment is unread (02 R67, R69). -/
def landedDesc (a : Nat) (bs : List Byte) (s : State) : State :=
  match s.img.file.bind fun x => x.parts.find? fun p =>
    p.dec.val == s.groupRank && p.rank.val != s.groupRank && decide (llrRing p.quad.val + p.desc ≤ a ∧ a + 16 ≤ llrRing p.quad.val + p.desc + p.descLen) with
  | some p => if bs.length = 16 then s.noteSegment p.quad.val (fieldAt bs 0 4) (llrBytes (fieldAt bs 4 3)) else s
  | none => s

/-- The data of a remote access enter the target's arbiters: a pool's through port 28, DRAM's through the port of the Confluence
group (07 R270). The bytes stand in memory as the frame lands (assumption 25). -/
def inbound (k a n : Nat) (write : Bool) (s : State) : State :=
  let port := if a < 0x001000000000 then (if k < 4 then 10 else 11) else 28
  s.present ⟨BitVec.toFin (BitVec.ofNat 5 port), a, n, write, [], 0⟩

/-- A WRITE frame lands; false where it ends in error (R410, R411; 07 R270). -/
def landWrite (k : Nat) (f : Frame) (s : State) : State × Bool :=
  let a := f.addr.toNat
  match csrOff a with
  | some o => if bitOf f.flags.toNat 4 then (s.writeCsr 2 o f.payload, true) else (s, false)
  | none =>
    if s.labelsLate a f.payload then (s.capSkip, true)
    else
      let w := writeG (reqPort k) f.basin.toNat f.payload.length s (selfAddr a) f.payload
      (if w.2 then (w.1.landedDesc a f.payload).inbound k a f.payload.length true else w.1, w.2)

/-- A READ_REQ lands: its READ_RESP frames go to its source (R409, R410). -/
def landRead (k : Nat) (f : Frame) (s : State) : State :=
  let a := f.addr.toNat
  let dest := fieldAt f.payload 0 8
  let n := fieldAt f.payload 8 4
  let r : State × List Byte × Bool :=
    if n < 4 ∨ 65536 < n then (s, [], false)
    else match csrOff a with
      | some o => if bitOf f.flags.toNat 4 then let x := s.readCsr 2 o n; (x.1, x.2, true) else (s, [], false)
      | none => let x := readG (reqPort k) f.basin.toNat n s (selfAddr a) n; (x.1.inbound k a n false, x.2)
  let s := r.1
  let d := f.src.toNat
  match portOf d f.xfer.toNat (s.routePorts d) with
  | none => s.hole .trib
  | some j =>
    if r.2.2 then s.sendPieces d j 3 0 f.basin.toNat f.xfer.toNat (cutRow n dest r.2.1)
    else s.sendSeq d j fun seq sync => mkFrame 3 (9 + sync) d s.srcAddr seq f.basin.toNat f.xfer.toNat dest []

/-- A READ_RESP lands: its data go to the address that the request named, or to the transfer that waits for them. -/
def landResp (k : Nat) (f : Frame) (s : State) : State :=
  match s.trib.remotes.find? fun r => r.xfer == f.xfer.toNat && r.dst == f.src.toNat && !r.write with
  | none => s
  | some r =>
    let err := bitOf f.flags.toNat 3
    let p := r.who / 65536 / 2
    let buffered := r.who != whoNone && (s.core p).si.any fun x => x.num == r.who % 65536 && x.target != 0
    let s :=
      if err then s
      else if buffered then
        s.onCore p fun c => { c with si := c.si.map fun x =>
          if x.num = r.who % 65536 then
            { x with buf := writeBytes x.buf f.addr.toNat f.payload, came := x.came ++ [(f.addr.toNat, f.payload.length)] }
          else x }
      else (writeG (reqPort k) f.basin.toNat f.payload.length s (selfAddr f.addr.toNat) f.payload).1
    let g (q : Remote) : Remote :=
      if q = r then { q with left := if err then 0 else q.left - f.payload.length, err := q.err || err } else q
    (s.onTrib fun t => { t with remotes := t.remotes.map g }).endRemotes

/-- A sequenced frame lands at port `k`; an error of a WRITE is answered at once (07 R271). -/
def land (k : Nat) (f : Frame) (s : State) : State :=
  if f.typ = 1 then
    let r := s.landWrite k f
    if r.2 then r.1
    else
      let x := r.1.srcSt f.src.toNat
      (r.1.setSrc f.src.toNat { x with errs := x.errs ++ [f.xfer.toNat] }).sendAck f.src.toNat
  else if f.typ = 2 then s.landRead k f
  else s.landResp k f

/-- After a frame has landed: an ACK is owed, and sent at once after a frame with LAST (R418). -/
def afterLanding (f : Frame) (s : State) : State :=
  let a := f.src.toNat
  let s := s.setSrc a { s.srcSt a with ackOwed := true }
  if bitOf f.flags.toNat 0 then s.sendAck a else s

/-- Moves the cumulative point over what has been received; the gap above it opens or closes (R417, R419). -/
def advanceC (now : Nat) : Nat → SrcSt → SrcSt
  | 0, x => x
  | n + 1, x =>
    if x.c ∈ x.got then advanceC now n { x with c := (x.c + 1) % 2 ^ 24, got := x.got.filter (· ≠ x.c), gapAt := none }
    else { x with gapAt := if x.got.isEmpty then none else some (x.gapAt.getD now) }

/-- Bytes held for all sources (R427). -/
def heldBytes (s : State) : Nat :=
  (s.trib.src.map fun e => (e.2.held.map frameSize).foldl (· + ·) 0).foldl (· + ·) 0

/-- A frame lands ahead of a missing predecessor: a timing-dependent choice (R425). -/
def reordered (s : State) : State := (s.count Reg.TRIB_REORDER_CNT 1).choice Ev.DET_TRIB_REORDER

/-- A sequenced frame that passed R407: SYNC, window and duplicates, then it lands or is held (R417, R423 to R427). -/
def receiveSeq (k : Nat) (f : Frame) (ownGap : Bool) (s : State) : State :=
  let a := f.src.toNat
  let x : SrcSt := { s.srcSt a with port := k }
  let x : SrcSt := if bitOf f.flags.toNat 2 then { SrcSt.reset with port := k, c := 0 } else x
  let n := f.seq.toNat
  let d : Nat := (n + 2 ^ 24 - x.c) % 2 ^ 24
  let s := s.setSrc a x
  if 1024 ≤ d ∨ n ∈ x.got then
    let s := s.count Reg.TRIB_DUP_CNT 1
    if f.typ = 1 then s.sendAck a else s
  else
    let gap := decide (0 < d)
    let earlier := x.held.any fun h => seqBelow h.seq.toNat n && (s.strictEff || h.xfer == f.xfer)
    let hold := earlier || (gap && (s.strictEff || ownGap))
    if hold && decide (4 * 1024 * 1024 < s.heldBytes + frameSize f) then
      (s.count Reg.TRIB_HOLD_DROP_CNT 1).event Reg.TRIB_STATUS Ev.TRIB_HOLD_DROP
    else
      let y := advanceC s.time.ticks 1025 { x with got := x.got ++ [n], held := if hold then x.held ++ [f] else x.held }
      let s := s.setSrc a y
      if hold then s
      else
        let s := s.land k f
        let s := if gap then s.reordered else s
        s.afterLanding f

/-- A frame received on port `k` in fabric mode, of type `typ` (R407, R434); `f` what an accepted one does. -/
def receive (k typ : Nat) (fr : Frame) (f : State → State) (s : State) : State :=
  if !s.portUsable k then s
  else
    let s := s.count (Reg.CP_RX_FRAMES k) 1
    let bad := (s.count Reg.TRIB_MISROUTE_CNT 1).event Reg.TRIB_STATUS Ev.TRIB_MISROUTE
    let disc := decide (6 ≤ fr.typ.toNat)
    if fr.ver ≠ 1 ∨ fr.typ = 0 ∨ 9 < fr.typ.toNat ∨ !zeroFields fr then bad
    else if fr.crc ≠ frameCrc fr ∨ fr.length.toNat ≠ fr.payload.length ∨ 4096 < fr.payload.length then
      (s.count Reg.TRIB_CRC_ERR_CNT 1).event Reg.TRIB_STATUS Ev.TRIB_CRC_ERR
    else if !(s.fabric == some fr.dst.toNat || (disc && fr.dst == 0x3FFFF)) then bad
    else if s.fabric == some fr.src.toNat then s.event Reg.TRIB_STATUS Ev.TRIB_ADDR_CONFLICT
    else if fr.typ.toNat = typ then f s
    else s

/-- HELD_FRAME_LANDING: a held frame whose predecessors have landed lands (R424 to R426). -/
def heldLands (a n : Nat) (ownGap : Bool) (s : State) : State :=
  let x := s.srcSt a
  match x.held.find? fun f => f.seq.toNat == n with
  | none => s
  | some f =>
    let before (h : Frame) : Bool := seqBelow h.seq.toNat n && (s.strictEff || h.xfer == f.xfer)
    let clear := seqBelow n x.c
    if (x.held.any fun h => h != f && before h) || (!clear && (s.strictEff || ownGap)) then s
    else
      let s := s.setSrc a { x with held := x.held.filter fun h => h != f }
      let s := s.land x.port f
      let s := if clear then s else s.reordered
      s.afterLanding f

/-- NACK_DELAY_EXPIRY: the gap of a source has stayed open for NACK_DELAY (R419). -/
def nackDelay (a : Nat) (s : State) : State :=
  let x := s.srcSt a
  match x.gapAt with
  | some t =>
    if passed10 (bits (s.reg Reg.TRIB_RETRY_CFG).toNat 31 24) t s.time.ticks then
      let s := s.setSrc a { x with gapAt := some s.time.ticks }
      (s.sendCtl 5 0 a x.c 0).count Reg.TRIB_NACK_CNT 1
    else s
  | none => s

/-- ACK_TIMER: at most 0.25 µs after a landing that advanced the point (R418). -/
def ackTimer (a : Nat) (s : State) : State := if (s.srcSt a).ackOwed then s.sendAck a else s

/-- A basin reset drops the frames tagged with the basin that have not been sent (R428). -/
def fabricBasinReset (b : Nat) (s : State) : State :=
  (s.trib.dest.map (·.1)).foldl (fun (s : State) d =>
    let t := s.destSt d
    let unsent (o : OutFrame) : Bool := o.sends == 0 && o.f.basin.toNat == b + 8
    let gone := t.out.filter unsent
    if gone.isEmpty then s
    else
      let s := s.setDest d { t with out := t.out.filter fun o => !unsent o }
      let n (r : Remote) : Nat := (gone.filter fun o => o.f.xfer.toNat == r.xfer).length
      let g (r : Remote) : Remote := if r.dst = d ∧ n r ≠ 0 then { r with left := if r.write then r.left - n r else 0, err := true } else r
      (s.onTrib fun t => { t with remotes := t.remotes.map g }).endRemotes) s

/-! ## Discovery and leasing (R429 to R433) -/

/-- Sends a discovery frame on port `k` to the port with MAC address `mac`. -/
def sendDisc (k typ uid leaser addr ms : Nat) (mac : BitVec 48) (s : State) : State :=
  s.portOut k mac.toNat (.offer k (mkFrame typ 1 0x3FFFF s.srcAddr 0 0 0 0 (discPayload uid leaser addr ms)) mac)

/-- The discovery group address, 03:4F:48:00:00:01 (table). -/
@[reducible] def discGroup : BitVec 48 := 0x034F48000001

/-- The address that the lease service offers a UID: the one last granted, else the lowest free one of the pool
(R430, R432). -/
def offerAddr (s : State) (uid : Nat) : Option Nat :=
  match s.trib.table.find? fun (e : BitVec 128 × Nat) => e.1.toNat == uid with
  | some e => some e.2
  | none =>
    let used (a : Nat) : Bool := (s.trib.table.any fun e => e.2 == a) || (s.trib.open_.any fun e => e.2.1 == a && e.1.toNat != uid)
    ((List.range s.trib.poolCount).map (s.trib.poolBase + ·)).find? fun a => !used a && a != 0x3FFFF && decide (a < 2 ^ 18)

/-- DISCOVER at a leaser (R430). -/
def discover (k : Nat) (f : Frame) (mac : BitVec 48) (s : State) : State :=
  if !s.trib.service then s
  else
    let uid := discUid f
    match s.offerAddr uid with
    | none => s
    | some a =>
      let key := BitVec.ofNat 128 uid
      let s := s.onTrib fun t => { t with open_ := (t.open_.filter fun (e : BitVec 128 × Nat × Nat) => e.1 ≠ key) ++ [(key, a, s.time.ticks)] }
      s.sendDisc k 7 uid s.fuses.uid.toNat a s.trib.poolMs mac

/-- REQUEST at the leaser it names: the grant of an open offer, or a renewal (R432, R433). -/
def requested (k : Nat) (f : Frame) (mac : BitVec 48) (s : State) : State :=
  let uid := BitVec.ofNat 128 (discUid f)
  if !s.trib.service ∨ discLeaser f ≠ s.fuses.uid.toNat then s
  else
    let a : Option Nat := match s.trib.open_.find? fun e => e.1 == uid with
      | some e => some e.2.1
      | none => (s.trib.table.find? fun e => e.1 == uid).map (·.2)
    match a with
    | none => s
    | some a =>
      let s := s.onTrib fun t => { t with
        open_ := t.open_.filter fun (e : BitVec 128 × Nat × Nat) => e.1 ≠ uid
        table := (t.table.filter fun (e : BitVec 128 × Nat) => e.1 ≠ uid) ++ [(uid, a)] }
      s.sendDisc k 9 uid.toNat s.fuses.uid.toNat a s.trib.poolMs mac

/-- OFFER at a device that seeks a lease (R431). -/
def offered (k : Nat) (f : Frame) (s : State) : State :=
  if s.fabric.isSome ∨ discUid f ≠ s.fuses.uid.toNat then s
  else
    s.onTrib fun t => { t with
      offers := t.offers ++ [⟨BitVec.ofNat 128 (discLeaser f), discAddr f, discMs f, k⟩]
      firstOffer := some (t.firstOffer.getD s.time.ticks) }

/-- The collection of offers ends 2 ms after the first: a REQUEST for the numerically lowest leaser's (R431). -/
def collectEnd (s : State) : State :=
  match s.trib.firstOffer with
  | none => s
  | some t0 =>
    if s.time.ticks < t0 + 2 * ticksPerMs then s
    else
      let best := s.trib.offers.foldl (fun (b : Option LeaseOffer) o => match b with
        | some x => if o.leaser.toNat < x.leaser.toNat then some o else some x
        | none => some o) none
      let s := s.onTrib fun t => { t with offers := [], firstOffer := none, requested := best.map (·.leaser) }
      match best with
      | none => s
      | some o => (s.sendDisc o.port 8 s.fuses.uid.toNat o.leaser.toNat o.addr 0 discGroup).choice Ev.DET_LEASE

/-- GRANT of the leaser that the device asked (R431, R433). -/
def granted (k : Nat) (f : Frame) (s : State) : State :=
  let l := BitVec.ofNat 128 (discLeaser f)
  let mine := s.trib.requested == some l || (s.fabric.isSome && s.trib.leaser == l)
  if discUid f ≠ s.fuses.uid.toNat ∨ !mine ∨ discAddr f = 0x3FFFF then s
  else
    let fresh := s.fabric.isNone
    let s := s.onTrib fun t => { t with leaser := l, leaseMs := discMs f, leasedAt := s.time.ticks, leasePort := k, requested := none, offers := [], firstOffer := none }
    let s := ((s.setReg Reg.TRIB_ADDR (BitVec.ofNat 32 (2 ^ 31 + discAddr f))).event Reg.TRIB_STATUS Ev.TRIB_LEASED).choice Ev.DET_LEASE
    if fresh then s.adminEvent 6 rcOk 0 0 (Config.eventDetail 6 [discAddr f]) else s

/-- DISCOVER_TIMER: a device without a lease asks on every fabric-mode port whose link is up (R429). -/
def discoverTick (s : State) : State :=
  if s.fabric.isSome then s
  else (List.range 8).foldl (fun (s : State) k =>
    if s.portUsable k then s.sendDisc k 6 s.fuses.uid.toNat 0 0 0 discGroup else s) s

/-- OFFER_WITHDRAW: an offer not requested within 4 ms (R432). -/
def withdraw (uid : BitVec 128) (s : State) : State :=
  s.onTrib fun t => { t with open_ := t.open_.filter fun e => !(e.1 == uid && decide (e.2.2 + 4 * ticksPerMs ≤ s.time.ticks)) }

/-- LEASE_RENEW: at half the lease time and every 1 ms after that (R433). -/
def renew (s : State) : State :=
  match s.fabric with
  | some a =>
    if s.time.ticks < s.trib.leasedAt + s.trib.leaseMs * ticksPerMs / 2 then s
    else (s.sendDisc s.trib.leasePort 8 s.fuses.uid.toNat s.trib.leaser.toNat a 0 discGroup).choice Ev.DET_LEASE
  | none => s

/-- LEASE_LOST: the lease ends unrenewed (R433). -/
def leaseEnds (s : State) : State :=
  if s.fabric.isNone ∨ s.time.ticks < s.trib.leasedAt + s.trib.leaseMs * ticksPerMs then s
  else
    let s := s.setReg Reg.TRIB_ADDR 0x3FFFF
    let ds := s.trib.dest.map (·.1)
    let s := ds.foldl (fun (s : State) d =>
      let t := s.destSt d
      let s := t.out.foldl (fun (s : State) o => s.freeReplay o) s
      (s.setDest d { t with out := [] }).failRemotes d) s
    let s := (s.event Reg.TRIB_STATUS Ev.TRIB_LEASE_LOST).choice Ev.DET_LEASE
    s.adminEvent 6 rcNoLease 0 0 (Config.eventDetail 6 [])

end State

/-- WRITE (11 R408, R417 to R427). -/
def execWrite (port : Fin 8) (f : Frame) (ownGap : Bool) (s : State) : Host.Outcome State Fault Refusal :=
  s.run (State.receive port.val 1 f (State.receiveSeq port.val f ownGap))
/-- READ_REQ (11 R409). -/
def execReadReq (port : Fin 8) (f : Frame) (ownGap : Bool) (s : State) : Host.Outcome State Fault Refusal :=
  s.run (State.receive port.val 2 f (State.receiveSeq port.val f ownGap))
/-- READ_RESP (11 R409). -/
def execReadResp (port : Fin 8) (f : Frame) (ownGap : Bool) (s : State) : Host.Outcome State Fault Refusal :=
  s.run (State.receive port.val 3 f (State.receiveSeq port.val f ownGap))
/-- ACK (11 R418, R421). -/
def execAck (port : Fin 8) (f : Frame) (s : State) : Host.Outcome State Fault Refusal :=
  s.run (State.receive port.val 4 f (State.takeAck f))
/-- NACK (11 R419, R420). -/
def execNack (port : Fin 8) (f : Frame) (s : State) : Host.Outcome State Fault Refusal :=
  s.run (State.receive port.val 5 f (State.takeNack f))
/-- DISCOVER (11 R430). -/
def execDiscover (port : Fin 8) (f : Frame) (mac : BitVec 48) (s : State) : Host.Outcome State Fault Refusal :=
  s.run (State.receive port.val 6 f (State.discover port.val f mac))
/-- OFFER (11 R431). -/
def execOffer (port : Fin 8) (f : Frame) (s : State) : Host.Outcome State Fault Refusal :=
  s.run (State.receive port.val 7 f (State.offered port.val f))
/-- REQUEST (11 R432). -/
def execRequest (port : Fin 8) (f : Frame) (mac : BitVec 48) (s : State) : Host.Outcome State Fault Refusal :=
  s.run (State.receive port.val 8 f (State.requested port.val f mac))
/-- GRANT (11 R431, R433). -/
def execGrant (port : Fin 8) (f : Frame) (s : State) : Host.Outcome State Fault Refusal :=
  s.run (State.receive port.val 9 f (State.granted port.val f))
/-- ACK_TIMER (11 R418). -/
def execAckTimer (src : BitVec 18) (s : State) : Host.Outcome State Fault Refusal := s.run (State.ackTimer src.toNat)
/-- NACK_DELAY_EXPIRY (11 R419). -/
def execNackDelayExpiry (src : BitVec 18) (s : State) : Host.Outcome State Fault Refusal := s.run (State.nackDelay src.toNat)
/-- RETRY_TIMEOUT (11 R420, R422). -/
def execRetryTimeout (dst : BitVec 18) (seq : BitVec 24) (s : State) : Host.Outcome State Fault Refusal :=
  s.run (State.retryTimeout dst.toNat seq.toNat)
/-- HELD_FRAME_LANDING (11 R424 to R426). -/
def execHeldFrameLanding (src : BitVec 18) (seq : BitVec 24) (ownGap : Bool) (s : State) : Host.Outcome State Fault Refusal :=
  s.run (State.heldLands src.toNat seq.toNat ownGap)
/-- DISCOVER_TIMER (11 R429). -/
def execDiscoverTimer (s : State) : Host.Outcome State Fault Refusal := s.run State.discoverTick
/-- OFFER_COLLECT_END (11 R431). -/
def execOfferCollectEnd (s : State) : Host.Outcome State Fault Refusal := s.run State.collectEnd
/-- OFFER_WITHDRAW (11 R432). -/
def execOfferWithdraw (uid : BitVec 128) (s : State) : Host.Outcome State Fault Refusal := s.run (State.withdraw uid)
/-- LEASE_RENEW (11 R433). -/
def execLeaseRenew (s : State) : Host.Outcome State Fault Refusal := s.run State.renew
/-- LEASE_LOST (11 R433). -/
def execLeaseLost (s : State) : Host.Outcome State Fault Refusal := s.run State.leaseEnds

end Sys2Proof.Machine
end

