-- ==== Sys2Proof/Machine/Fh.lean ====
section
/-! DEFINITION. Fronthaul, cascade forwarding and the links of the Confluence ports (11 R399 to R402, R435 to R446;
12 R464, R465, R470; 03 R107; 10 R387). -/
namespace Sys2Proof.Machine

/-- The block of a PRB (R439): exponent, mantissas, and whether it had to be saturated. `w` is iqWidth; without block
floating point the components go out as they are. -/
def compressPrb (bfp : Bool) (w : Nat) (xs : List Int) : Nat × List Int × Bool :=
  let lim : Int := (2 ^ (w - 1) : Nat)
  let fits (e : Nat) : Bool := xs.all fun x => decide (-lim ≤ x / (2 ^ e : Nat) ∧ x / (2 ^ e : Nat) < lim)
  if !bfp then (0, xs, false)
  else match (List.range 16).find? fits with
    | some e => (e, xs.map fun x => x / (2 ^ e : Nat), false)
    | none => (15, xs.map fun x => max (-lim) (min (lim - 1) (x / 32768)), true)

/-- The index of the frame that leaves first (R445): the highest priority that may leave, the oldest of equal ones. -/
def firstOf (held : Nat → Bool) (l : List FwdFrame) : Option Nat :=
  (l.zipIdx.foldl (fun (b : Option (FwdFrame × Nat)) x =>
    if held x.1.prio then b
    else match b with
      | some y => if y.1.prio < x.1.prio then some x else b
      | none => some x) none).map (·.2)

namespace State

/-- Port `k` receives and sends fronthaul traffic. -/
def fhUp (s : State) (k : Nat) : Bool := s.portOn k && s.portFh k && (s.port k).link && s.fence 4 k == 0

/-- Updates the fronthaul unit. -/
def onFh (f : Fh → Fh) (s : State) : State := { s with fh := f s.fh }

/-- Counts and records an event of the fronthaul unit. -/
def fhEvent (cnt b n : Nat) (s : State) : State := (s.count cnt n).event Reg.FH_STATUS b
def fhUnknown (s : State) : State := s.fhEvent Reg.FH_UNKNOWN_CNT Ev.FH_UNKNOWN 1
def fhMalformed (s : State) : State := s.fhEvent Reg.FH_MALFORMED_CNT Ev.FH_MALFORMED 1

/-- The lowest valid eAxC entry in force from `base` upward that `f` takes. -/
def eaxcFind (s : State) (base : Nat) (f : Nat → Bool) : Option Nat :=
  ((List.range 512).map (base + ·)).find? fun i =>
    let e := (s.ctl.arr bankEaxcEff i).toNat
    bitOf e 16 && f e

/-- The MAC address and port of a peer entry in force, if it is valid and its port is up (R437). -/
def peerOf (s : State) (i : Nat) : Option (Nat × Nat) :=
  let h := (s.ctl.arr bankPeerHiEff i).toNat
  let k := bits h 18 16
  if bitOf h 31 && s.fhUp k then some (bits h 15 0 * 2 ^ 32 + (s.ctl.arr bankPeerLoEff i).toNat, k) else none

/-- The next ecpriSeqid of a transmit entry (R437). -/
def nextSeqid (i : Nat) (s : State) : Nat × State :=
  let n := tget (fun _ => 0) s.fh.seqTx i
  (n, s.onFh fun f => { f with seqTx := tput (fun _ => 0) f.seqTx i ((n + 1) % 256) })

/-! ## Uplink (R435, R436, R438, R440, R441) -/

/-- Resource blocks of a carrier. -/
def gridRbs (s : State) (c : Nat) : Nat :=
  match s.carrierOf c with
  | some r => r.nrb
  | none => 0

/-- Writes a PRB of an antenna into the grid blocks of the positions that hold it (02 R60). -/
def putPrb (c ant : Nat) (y : SymId) (prb : Nat) (ws : List Word) (s : State) : State :=
  match s.carrierOf c with
  | none => s
  | some r => ws.zipIdx.foldl (fun (s : State) w =>
    match gridPlace r (12 * prb + w.2) with
    | some p => s.gridWord r.mu.val p.1 p.2.1 ((p.2.2 * s.gridAnts r + ant) * 4) y w.1
    | none => s) s

/-- The padding places of an antenna in the grid blocks of a symbol, as zero (02 R46, R60). -/
def putPadding (c ant : Nat) (y : SymId) (s : State) : State :=
  match s.carrierOf c with
  | none => s
  | some r => (rxSpots r).foldl (fun (s : State) p =>
    ((List.range 256).drop (posSpan r.group (12 * r.nrb) p.1 p.2.1).2).foldl (fun (s : State) i =>
      s.gridWord r.mu.val p.2.2.cluster.val p.2.2.block.val ((i * s.gridAnts r + ant) * 4) y 0) s) s

/-- The twelve grid words of a received PRB (R438). -/
def decodePrb (shift : Nat) (b : Nat × List Int) : List Word :=
  let half (i : Nat) : Int := b.2.getD i 0 * (2 ^ b.1 : Nat) / (2 ^ shift : Nat)
  (List.range 12).map fun j => (cqWord ⟨half (2 * j), half (2 * j + 1)⟩).1

/-- The time from a radio time to the present in 2^-40 ns, signed: of the occurrences 1,024 frames apart, the nearest. -/
def sinceTime (s : State) (at_ : Nat) : Int :=
  let round := 1024 * frameUnits
  let d := (s.time.sfn * frameUnits + s.time.inFrame + round - at_ % round) % round
  if d < round / 2 then d else (d : Int) - (round : Nat)

/-- The numerology of a carrier. -/
def muOfCarrier (s : State) (c : Nat) : Nat := match s.carrierOf c with
  | some r => r.mu.val
  | none => 0

/-- A section of an accepted message, inside the window of its symbol at its arrival (R440). -/
def fhSection (c ant : Nat) (m : UMsg) (s : State) (x : USection) : State :=
  let mu := s.muOfCarrier c
  if s.sinceTime (symStart mu m.symId) < (s.reg Reg.FH_RX_WIN_OPEN).toInt * 2 ^ 40 then s.fhEvent Reg.FH_EARLY_CNT Ev.FH_EARLY 1
  else if ((s.reg Reg.FH_RX_WIN_CLOSE).toNat : Int) * 2 ^ 40 < s.sinceTime (symEnd mu m.symId) then s.fhEvent Reg.FH_LATE_CNT Ev.FH_LATE 1
  else if s.gridRbs c < x.startPrb + x.prbs.length then s.fhMalformed
  else
    let shift := bits (s.ctl.inForce Reg.FH_CFG).toNat 12 8
    x.prbs.zipIdx.foldl (fun (s : State) b =>
      let key := (c, m.symId, ant, x.startPrb + b.2)
      let s := if s.fh.prbs.contains key then s.fhEvent Reg.FH_DUP_PRB_CNT Ev.FH_DUP_PRB 1
        else s.onFh fun f => { f with prbs := f.prbs ++ [key] }
      s.putPrb c ant m.symId (x.startPrb + b.2) (decodePrb shift b.1)) s

/-- A U-plane message reaches port `k`. -/
def uplane (k : Nat) (m : UMsg) (s : State) : State :=
  if !s.fhUp k then s
  else
    let s := s.count (Reg.CP_RX_FRAMES k) 1
    if !m.known then s.fhUnknown
    else if !m.inSubset then s.fhMalformed
    else match s.eaxcFind 0 (fun e => bits e 15 0 == m.pcid.toNat) with
      | none => s.fhUnknown
      | some i =>
        let e := (s.ctl.arr bankEaxcEff i).toNat
        -- the value expected next, plus one; 0 before the first message
        let want := tget (fun _ => 0) s.fh.seqRx i
        let gap := want != 0 && want != m.seqid.toNat + 1
        let s := s.onFh fun f => { f with seqRx := tput (fun _ => 0) f.seqRx i ((m.seqid.toNat + 1) % 256 + 1) }
        let s := if gap then s.fhEvent Reg.FH_SEQ_GAP_CNT Ev.FH_SEQ_GAP 1 else s
        m.sections.foldl (State.fhSection (bits e 20 17) (bits e 25 21) m) s

/-- The last tick has passed the close of a symbol's window (R441). -/
def windowDue (s : State) (c : Nat) (y : SymId) : Bool :=
  s.leadDue (symEnd (s.muOfCarrier c) y + (s.reg Reg.FH_RX_WIN_CLOSE).toNat * 2 ^ 40) 0

/-- The window of a symbol closes: what has not been delivered is written as zero samples (R441), and the padding of its blocks
(02 R60). -/
def windowClose (c : Nat) (y : SymId) (s : State) : State :=
  if !s.isFronthaul c || !s.windowDue c y then s
  else
    let ants := List.range (match s.carrierOf c with
      | some r => s.gridAnts r
      | none => 0)
    let missing := ants.flatMap fun a =>
      ((List.range (s.gridRbs c)).filter fun p => !s.fh.prbs.contains (c, y, a, p)).map fun p => (a, p)
    let s := missing.foldl (fun (s : State) x => s.putPrb c x.1 y x.2 (List.replicate 12 0)) s
    let s := ants.foldl (fun (s : State) a => s.putPadding c a y) s
    let s := s.onFh fun f => { f with prbs := f.prbs.filter fun (e : Nat × SymId × Nat × Nat) => !(e.1 == c && e.2.1 == y) }
    if missing.isEmpty then s else s.fhEvent Reg.FH_MISSING_CNT Ev.FH_MISSING missing.length

/-! ## Downlink and C-plane (R439, R442, R443) -/

/-- The 24 components of a PRB of an output stream in the transmit grid. -/
def prbOf (s : State) (r : CarrierRec) (y : SymId) (a p : Nat) : List Int :=
  (List.range 12).flatMap fun j =>
    match txSample r y (12 * p + j) a with
    | some at_ => let w := cqPair (s.txWord at_); [w.re, w.im]
    | none => [0, 0]

/-- iqWidth of the transmit side in force. -/
def iqWidth (s : State) : Nat :=
  let w := bits (s.ctl.inForce Reg.FH_CFG).toNat 3 0
  if w = 0 then 16 else w

/-- The messages of one output stream of a symbol; `zero`: the symbol was not complete (01 R38). -/
def sendStream (c : Nat) (y : SymId) (zero : Bool) (s : State) (a : Nat) : State :=
  match s.carrierOf c, s.eaxcFind 512 (fun e => bits e 20 17 == c && bits e 25 21 == a) with
  | some r, some i =>
    let e := (s.ctl.arr bankEaxcEff i).toNat
    match s.peerOf (bits e 29 26) with
    | none => s
    | some (mac, k) =>
      let bfp := bits (s.ctl.inForce Reg.FH_CFG).toNat 7 4 == 1
      let w := s.iqWidth
      let n := 9000 / (24 * w / 8 + if bfp then 1 else 0)
      (List.range ((r.nrb + n - 1) / n)).foldl (fun (s : State) j =>
        let ps := ((List.range n).map (n * j + ·)).filter (· < r.nrb)
        let bs := ps.map fun p => compressPrb bfp w (if zero then List.replicate 24 0 else s.prbOf r y a p)
        let sats := (bs.filter (·.2.2)).length
        let s := if sats = 0 then s else (s.count Reg.TXP_SAT_CNT sats).event Reg.TXP_STATUS Ev.TXP_SAT
        let q := s.nextSeqid i
        q.2.portOut k mac (.uplane k mac (bits e 15 0) q.1 y a (n * j) (bs.map fun b => (b.1, b.2.1)))) s
  | _, _ => s

/-- The record of a symbol's work on a carrier is dropped as it leaves. -/
def dropSym (c : Nat) (y : SymId) (s : State) : State :=
  let f (x : TxSym) : TxSym := if x.sym = y then { x with carriers := x.carriers.filter (· ≠ c) } else x
  s.onTx fun t => { t with
    lateSyms := t.lateSyms.filter fun (x : Nat × SymId) => x ≠ (c, y)
    syms := (t.syms.map f).filter fun x => !(x.sym == y && x.carriers.isEmpty) }

/-- The first sample of a symbol leaves (R387, R442; 01 R38): in fronthaul mode its U-plane messages do, stream by
stream. -/
def firstOut (c : Nat) (y : SymId) (s : State) : State :=
  if !s.leadDue (symStart (s.muOfCarrier c) y) 0 then s
  else if !s.downOn 0 then s.dropSym c y
  else if s.isFronthaul c then
    let handed := s.symHanded c y
    let s := if handed then s else s.symLate c y
    let streams := match s.carrierOf c with
      | some r => r.txStreams
      | none => 0
    ((List.range streams).foldl (State.sendStream c y (!handed)) s).dropSym c y
  else if s.dfe.tx.on then (s.emit (.symbol c y (s.tx.lateSyms.contains (c, y)))).dropSym c y
  else s.dropSym c y

/-- A C-plane message of a transmit entry (R443). -/
def cplane (entry : Nat) (sections : List Byte) (s : State) : State :=
  let e := (s.ctl.arr bankEaxcEff (512 + entry)).toNat
  match s.peerOf (bits e 29 26) with
  | some (mac, k) =>
    if bitOf e 16 then
      let q := s.nextSeqid (512 + entry)
      q.2.portOut k mac (.cplane k mac (bits e 15 0) q.1 sections)
    else s
  | none => s

/-! ## One-way delay (R435) -/

/-- A request is answered at once, to the MAC address that it came from. -/
def owdRequest (k src : Nat) (id : Byte) (subset : Bool) (s : State) : State :=
  if !s.fhUp k then s
  else
    let s := s.count (Reg.CP_RX_FRAMES k) 1
    if subset then s.portOut k src (.owd k id.toNat) else s.fhMalformed

/-- The response to the device's own request. -/
def owdResponse (k : Nat) (delay : Word) (subset : Bool) (s : State) : State :=
  if !s.fhUp k then s
  else
    let s := s.count (Reg.CP_RX_FRAMES k) 1
    if subset then s.setReg Reg.FH_OWD_LAST delay else s.fhMalformed

/-! ## Frames and forwarding (R401, R402, R444 to R446; 12 R463, R465) -/

/-- A timestamp: integer nanoseconds and 8 fractional bits of the counter (12 R463). -/
def stamp (s : State) : Nat := s.time.cnt.toNat / 2 ^ 32

/-- A frame to forward that came in on port `k` is dropped and counted (R446). -/
def fwdDrop (k : Nat) (s : State) : State := (s.count (Reg.CP_FWD_DROP_CNT k) 1).event (Reg.CP_STATUS k) Ev.CP_FWD_DROP

/-- An event bit of the collector of port `k`'s group; the first one is latched in PGRP.FAULT_INFO (15, table "PGRP registers"). -/
def groupEvent (k b : Nat) (s : State) : State :=
  let w := Reg.PGRP_FAULTWORD (k / 4)
  (s.latchIf (s.quiet w) (Reg.PGRP_FAULT_INFO (k / 4)) (BitVec.ofNat 32 (b + k % 4 * 256))).event w b

/-- Queues a frame of port `k` for forwarding, where the port forwards (R444, R446). -/
def forward (k : Nat) (f : EthFrame) (s : State) : State :=
  let d := s.cpCfg k 8 6
  if !(s.fhUp k && s.cpCfg k 5 5 == 1 && d != k && s.portOn d && s.portFh d) then s
  else
    let p := s.port d
    let held := ((p.fwd.filter fun x => x.from_ == k).map (·.size)).foldl (· + ·) 0
    if held + f.size ≤ 262144 then
      s.setPort d { p with fwd := p.fwd ++ [⟨k, f.size, if f.tags = 0 then 0 else f.pcp.val, s.stamp, f.ptpEvent, f.bytes⟩] }
    else s.fwdDrop k

/-- The multicast frame that carried a message is forwarded too (R444). -/
def forwardToo (k : Nat) (f : Option EthFrame) (s : State) : State :=
  match f with
  | some f => s.forward k f
  | none => s

/-- The EtherType goes to a unit of port `k` (R402). -/
def etypeTaken (s : State) (k : Nat) (e : BitVec 16) : Bool :=
  e == 0x88F7 || (if s.portFh k then e == 0xAEFE else e.toNat == bits (s.ctl.inForce Reg.TRIB_ETYPE).toNat 15 0)

/-- An error of a buffer of port `k` (15, table "PGRP.FAULTWORD fields"): a corrected one, or an uncorrectable one with its bit. -/
def bufEvent (k bit : Nat) (u : PortUpset) (s : State) : State :=
  match u with
  | .none => s
  | .corrected => s.groupEvent k Ev.PGRPFW_CORR
  | .uncorrectable => s.groupEvent k bit

/-- A frame that no type-specific command takes; one that an uncorrectable error of the receive buffer hits is dropped (15,
PGRP.FAULTWORD). -/
def ethIn (k : Nat) (f : EthFrame) (s : State) : State :=
  if !(s.portOn k && (s.port k).link && s.fence 4 k == 0) then s
  else
    let s := (s.count (Reg.CP_RX_FRAMES k) 1).count (Reg.CP_FEC_CORR_CNT k) f.fecCorr
    let s := if f.fecUncorr = 0 then s
      else (s.count (Reg.CP_FEC_UNCORR_CNT k) f.fecUncorr).event (Reg.CP_STATUS k) Ev.CP_FEC_UNCORR
    let s := s.bufEvent k Ev.PGRPFW_RX_UNCORR f.buf
    if f.buf == .uncorrectable then s
    else if !f.fcsOk then s.count (Reg.CP_FCS_ERR_CNT k) 1
    else if f.size < 64 ∨ 9216 < f.size ∨ 1 < f.tags then s.count (Reg.CP_DROP_CNT k) 1
    else match f.pfc, s.cpCfg k 9 9 == 1 with
      | some (prio, on), true =>
        if prio.val = s.cpCfg k 12 10 then s.setPort k { s.port k with paused := on } else s
      | _, _ =>
        if !s.etypeTaken k f.etype then s.count (Reg.CP_DROP_CNT k) 1
        else if s.portFh k && (f.dstMac.toNat != s.portMac k || bitOf f.dstMac.toNat 40) then s.forward k f else s

/-- The next forwarded frame leaves port `d` (R445, R465); one that an uncorrectable error of its queue hits is dropped and counted
(15, PGRP.FAULTWORD). -/
def egress (d : Nat) (u : PortUpset) (s : State) : State :=
  let p := s.port d
  let held (prio : Nat) : Bool := p.paused && s.cpCfg d 9 9 == 1 && prio == s.cpCfg d 12 10
  match if s.fhUp d && !s.txStopped d then firstOf held p.fwd else none with
  | none => s
  | some i =>
    match p.fwd[i]? with
    | none => s
    | some f =>
      let stay : Int := if f.event then ((s.stamp + 2 ^ 40 - f.stamp) % 2 ^ 40 * 256 : Nat) else 0
      let s := (s.setPort d { p with fwd := p.fwd.eraseIdx i }).bufEvent d Ev.PGRPFW_FWD_UNCORR u
      if u == .uncorrectable then s.fwdDrop f.from_
      else
        let s := (s.portSend d [.fwd d (s.vlanTag d) stay f.bytes]).count (Reg.CP_FWD_CNT f.from_) 1
        if f.event then s.count Reg.TIME_TC_CNT 1 else s

/-! ## Links (12 R464, R470) -/

/-- Port `k` loses its link. -/
def linkLoss (k : Nat) (s : State) : State :=
  let p := s.port k
  if !p.link then s
  else
    let s := s.setPort k { p with link := false, an := false, fec := 0, paused := false }
    let s := (s.count (Reg.CP_LINK_DROP_CNT k) 1).event (Reg.CP_STATUS k) Ev.CP_LINK_DOWN
    s.clocksLost k

/-- A failure of port `k`'s replay buffer, MAC or PCS: the collector's bit, which fences the port (15 R559, R563). -/
def portFails (k : Nat) (s : State) : State := s.groupEvent k (Ev.PGRPFW_PORT_FAIL + k % 4)

/-- Port `k`'s link comes up. -/
def linkUp (k fec : Nat) (s : State) : State :=
  if !s.portOn k ∨ s.fence 4 k ≠ 0 then s
  else
    let s := s.setPort k { s.port k with link := true, an := s.cpCfg k 4 4 == 1, fec := fec }
    if s.synceOf k ∧ fec = 15 then s.onTime fun t => { t with synceLow := false } else s

/-- The named port loses FEC lock. -/
def fecLoss (s : State) : State :=
  let k := bits (s.ctl.inForce Reg.TIME_SYNCE).toNat 2 0
  if s.synceOf k then (s.setPort k { s.port k with fec := 0 }).squelch else s

/-- A command of the always-on domain that other units see. -/
def runLink (f : State → State) (s : State) : Host.Outcome State Fault Refusal :=
  let t := s.clearOuts
  .next ((if t.awake then (f t).settle else if t.timeRuns then (f t).sortLog else t).withPending s.pending)

end State

/-- U_PLANE_MESSAGE (11 R435 to R440). -/
def execUPlaneMessage (port : Fin 8) (m : UMsg) (frame : Option EthFrame) (s : State) : Host.Outcome State Fault Refusal :=
  s.run fun s => (s.uplane port.val m).forwardToo port.val frame
/-- ONE_WAY_DELAY_REQUEST (11 R435). -/
def execOneWayDelayRequest (port : Fin 8) (src : BitVec 48) (id : Byte) (subset : Bool) (frame : Option EthFrame) (s : State) :
    Host.Outcome State Fault Refusal := s.run fun s => (s.owdRequest port.val src.toNat id subset).forwardToo port.val frame
/-- ONE_WAY_DELAY_RESPONSE (11 R435). -/
def execOneWayDelayResponse (port : Fin 8) (delayNs : Word) (subset : Bool) (frame : Option EthFrame) (s : State) :
    Host.Outcome State Fault Refusal := s.run fun s => (s.owdResponse port.val delayNs subset).forwardToo port.val frame
/-- RX_WINDOW_CLOSE (11 R441). -/
def execRxWindowClose (carrier : Fin 16) (sym : SymId) (s : State) : Host.Outcome State Fault Refusal :=
  s.run (State.windowClose carrier.val sym)
/-- FIRST_SAMPLE_OUT (10 R387; 11 R439, R442; 03 R107). -/
def execFirstSampleOut (carrier : Fin 16) (sym : SymId) (s : State) : Host.Outcome State Fault Refusal :=
  s.run (State.firstOut carrier.val sym)
/-- C_PLANE_SEND (11 R443). -/
def execCPlaneSend (entry : Fin 512) (sections : List Byte) (s : State) : Host.Outcome State Fault Refusal :=
  s.run (State.cplane entry.val sections)
/-- ETHERNET_FRAME (11 R401, R402, R444). -/
def execEthernetFrame (port : Fin 8) (f : EthFrame) (s : State) : Host.Outcome State Fault Refusal := s.run (State.ethIn port.val f)
/-- FORWARD_EGRESS (11 R445; 12 R465). -/
def execForwardEgress (port : Fin 8) (buf : PortUpset) (s : State) : Host.Outcome State Fault Refusal := s.run (State.egress port.val buf)
/-- PORT_LINK_LOSS (11 R414, CP.STATUS; 12 R464, R470): the link is lost, or the port fails for good (15 R559). -/
def execPortLinkLoss (port : Fin 8) (fails : Bool) (s : State) : Host.Outcome State Fault Refusal :=
  s.runLink fun s => if fails && s.portOn port.val && s.awake then s.portFails port.val else s.linkLoss port.val
/-- PORT_LINK_UP (12 R470). -/
def execPortLinkUp (port : Fin 8) (fecLanes : BitVec 4) (s : State) : Host.Outcome State Fault Refusal :=
  s.runLink (State.linkUp port.val fecLanes.toNat)
/-- SYNCE_LOS (12 R470). -/
def execSynceLos (s : State) : Host.Outcome State Fault Refusal := s.runLink State.fecLoss

end Sys2Proof.Machine
end

