-- ==== Sys2Proof/Machine/Time.lean ====
section
/-! DEFINITION. Time sources and radio boundaries (12_time.md R458 to R467, R471 to R473; 14 R534), periodic telemetry
(14 R535). -/
namespace Sys2Proof.Machine
namespace State

/-! ## PTP and 1PPS (R459, R461 to R464, R467) -/

/-- A PTP message of the client at its port: the servo measures at each Sync whose origin is known, with the mean path
delay of the last Delay_Req exchange. Timestamps hold 8 fractional bits (R463); all times are in units of 2^-16 ns, those of the
correctionField. -/
def ptpClient (k : Nat) (m : PtpMsg) (c : Int) (s : State) : State :=
  let now : Int := (s.stamp * 256 : Nat)
  let path := Config.portCorrection (tget (fun _ => 0) s.time.portDelay k) * 65536
  let synced (t1 t2 : Int) (s : State) : State :=
    (s.onTime fun t => { t with t1 := some t1, t2 := some t2, corr := none }).measure
      ((ns32Diff t2 t1 - s.time.pathDelay - path) / 65536)
  match m with
  | .sync origin two =>
    if two then s.onTime fun t => { t with t1 := none, t2 := some now, corr := some c } else synced (origin * 65536 + c) now s
  | .followUp origin =>
    match s.time.corr, s.time.t2 with
    | some c0, some t2 => synced (origin * 65536 + c0 + c) t2 s
    | _, _ => s
  | .delayReqSent => s.onTime fun t => { t with t3 := some now }
  | .delayResp recv =>
    match s.time.t1, s.time.t2, s.time.t3 with
    | some t1, some t2, some t3 =>
      s.onTime fun t => { t with t3 := none, pathDelay := (ns32Diff t2 t1 + ns32Diff (recv * 65536 - c) t3) / 2 }
    | _, _, _ => s
  | .announce master best =>
    if best ∧ s.time.master ≠ some master then
      let s := s.onTime fun t => { t with master := some master, inLock := 0, clock := if t.clock = 2 then 1 else t.clock }
      (s.event Reg.TIME_STATUS Ev.TIME_MASTER_CHANGE).choice Ev.DET_PTP_MASTER
    else s

/-- A PTP message at port `k`: only those of the PTP port, in the domain set in DOMAIN, reach the client (R461, R462). -/
def ptp (k : Nat) (domain : Byte) (m : PtpMsg) (c : Int) (s : State) : State :=
  if !(s.portOn k && (s.port k).link && s.fence 4 k == 0) then s
  else
    let sent := match m with
      | .delayReqSent => true
      | _ => false
    let s := s.count (if sent then Reg.CP_TX_FRAMES k else Reg.CP_RX_FRAMES k) 1
    if s.ptpPort k && bits (s.ctl.inForce Reg.TIME_PTP_CFG).toNat 31 24 == domain.toNat then s.ptpClient k m c else s

/-- The PTP source is lost (R464). -/
def ptpLost (why : SourceLoss) (s : State) : State :=
  if s.time.source ≠ 1 then s
  else
    let s := match why with
      | .announce => s.onTime fun t => { t with master := none }
      | .syncs => s
    s.loseSource

/-- A rising edge on PPS_IN (R467): its offset is the distance to the nearest whole second of SUBSEC. -/
def ppsEdge (s : State) : State :=
  let s := (s.setReg Reg.TIME_PPS_IN_TS s.ns32).onTime fun t => { t with ppsMissed := 0 }
  if s.awake ∧ s.time.source = 2 then
    let n : Int := (s.time.sub / 2 ^ 40 : Nat)
    s.measure (if n < 500000000 then n else n - 1000000000)
  else s

/-- A second without an edge while 1PPS is the source (R467). -/
def ppsMiss (s : State) : State :=
  if s.time.source ≠ 2 then s
  else
    let n := s.time.ppsMissed + 1
    let s := (s.onTime fun t => { t with ppsMissed := n }).event Reg.TIME_STATUS Ev.TIME_PPS_MISSING
    if n = 3 then s.loseSource else s

/-! ## Radio boundaries -/

/-- The numerologies of the carriers started on the device. -/
def startedMus (s : State) : List Nat :=
  (s.func.applied.filter fun c => (c.2.uplink && bitOf s.func.started 0) || (c.2.downlink && bitOf s.func.started 1)).map (·.2.mu.val)

/-- The numerology of device-wide slot boundaries (R473): the lowest started one, else subframes. -/
def deviceMu (s : State) : Nat :=
  match s.startedMus with
  | [] => 0
  | l => l.foldl min 3

/-- The registers that a device-wide slot boundary takes into force (R473). -/
def slotRegs : List Nat :=
  [Reg.TXP_LEAD, Reg.BKW_CAPCFG, Reg.BKW_REPLAY_CFG, Reg.BKW_REFSIG0, Reg.BKW_REFSIG0 + 4, Reg.BKW_REFSIG0 + 8, Reg.BKW_REFSIG0 + 12]
    ++ (List.range 4).flatMap fun q => [Reg.RXP_MONCFG q, Reg.WEIR_CFG q, Reg.WEIR_LLR_WAIT q, Reg.WEIR_DEADLINE q]

/-- Takes registers into force. -/
def takeRegs (rs : List Nat) (s : State) : State := { s with ctl := rs.foldl (fun (c : Ctl) a => c.take a) s.ctl }

/-- A slot boundary of numerology μ (R472, R473): at a device-wide boundary the settings and the parameter tables; what the receivers
take with it (02 R71, R81); swaps of its regions; the capture epoch of its carrier. -/
def slotStart (mu : Nat) (s : State) : State :=
  if !s.slotDue mu then s else
  let s :=
    if mu = s.deviceMu then
      (List.range 4).foldl (fun (s : State) q => if s.domOn (56 + q) then s.latchTable q mu (s.slotField' mu) else s)
        (s.takeRegs slotRegs)
    else s
  let s := (List.range 4).foldl (fun (s : State) c => s.rxSlot c mu s.time.sfn (s.time.slotOf mu)) s
  (s.takeSwaps mu).epochSlot mu

/-! ## Budget periods (14 R534, R535, R541; 15 R583) -/

/-- A telemetry transfer of a counter group, under activity 5; none where its allowance refuses it (R535, R538). -/
def sendTele (group dest : Nat) (s : State) : State × Option Bool :=
  let f := s.free
  let bs := Config.telemetryBytes group f.1
  let send (s : State) : State × Option Bool := let w := writeG reqWellhead 0 bs.length s dest bs; (w.1, some w.2)
  match (f.2.place dest).1 with
  | .mem a => match f.2.chargeMem a bs.length 5 with
    | some t => send t
    | none => (s.bgDeny, none)
  | _ => send f.2

/-- Periodic telemetry at a period start: the groups that are due, and those that waited. -/
def telePeriods (s : State) : State :=
  let now (t : Telemetry) : Nat := (if t.left ≤ 1 then t.mask else 0) ||| t.wait
  let r := s.sched.tele.foldl (fun (a : State × List Telemetry) t =>
    let sent := ((List.range 32).filter fun g => bitOf (now t) g).foldl (fun (b : State × Nat) g =>
      let w := b.1.sendTele g t.dest
      (w.1, if w.2.isNone then b.2 ||| 2 ^ g else b.2)) (a.1, 0)
    (sent.1, a.2 ++ [{ t with left := if t.left ≤ 1 then t.period else t.left - 1, wait := sent.2 }])) (s, [])
  { r.1 with sched := { r.1.sched with tele := r.2 } }

/-- A budget period starts: on the first tick at or after a multiple of 125 µs of TIME.SUBSEC. -/
def periodStart (s : State) : State :=
  if !s.periodDue 125000 then s else
  let s := { s with sched := { s.sched with used := [] } }.count Reg.SCHED_PERIOD 1
  let s := (s.takeBudgets.takeRegs [Reg.FAULT_SUSPECT_CFG, Reg.FAULT_TEST_CFG]).arbPeriods.scrubPeriods
  s.telePeriods

/-- A tick at which `f` holds of the timebase, with what the tick brings. -/
def tickIf (f : TimeSt → Bool) (s : State) : State := if s.timeRuns && !s.time.goPend && f s.nextTick then s.idle else s.clearOuts

end State

/-- PTP_EVENT_MESSAGE (12 R459, R461 to R463): `correction` is the correctionField in units of 2^-16 ns. -/
def execPtpEventMessage (port : Fin 8) (domain : Byte) (m : PtpMsg) (correction : Int) (frame : Option EthFrame) (s : State) :
    Host.Outcome State Fault Refusal := s.run fun s => (s.ptp port.val domain m correction).forwardToo port.val frame
/-- ANNOUNCE_TIMEOUT (12 R464). -/
def execAnnounceTimeout (why : SourceLoss) (s : State) : Host.Outcome State Fault Refusal := s.run (State.ptpLost why)
/-- PPS_IN_EDGE (12 R467). -/
def execPpsInEdge (s : State) : Host.Outcome State Fault Refusal := s.runLink State.ppsEdge
/-- PPS_MISSING (12 R467). -/
def execPpsMissing (s : State) : Host.Outcome State Fault Refusal := s.runLink State.ppsMiss
/-- SLOT_BOUNDARY (12 R473). -/
def execSlotBoundary (mu : Fin 4) (s : State) : Host.Outcome State Fault Refusal := s.run (State.slotStart mu.val)
/-- FRAME_BOUNDARY (12 R471): the tick on which a radio frame boundary falls. -/
def execFrameBoundary (s : State) : Host.Outcome State Fault Refusal := .next (s.tickIf TimeSt.crosses)
/-- SUBSEC_WRAP (12 R450, R468): the tick at which TIME.SUBSEC wraps. -/
def execSubsecWrap (s : State) : Host.Outcome State Fault Refusal := .next (s.tickIf TimeSt.wraps)
/-- BUDGET_PERIOD_START (14 R534). -/
def execBudgetPeriodStart (s : State) : Host.Outcome State Fault Refusal := s.run State.periodStart

end Sys2Proof.Machine
end

