-- ==== Sys2Proof/Machine/Rings.lean ====
section
/-! DEFINITION. The host rings (13 R484, R507 to R511): doorbells, fetches, waiting completions, shadows, MSI-X messages. -/
namespace Sys2Proof.Machine

/-- Bytes of an entry of a submission ring (13, table "Rings"). -/
def sqEntrySize (ring : Nat) : Nat := if ring = 0 then 32 else 64

/-- Submission ring `ring` of a basin. -/
def Basin.sq (x : Basin) (ring : Nat) : Ring := if ring = 0 then x.sq0 else if ring = 1 then x.sq1 else x.sq2

/-- Replaces submission ring `ring`. -/
def Basin.setSq (x : Basin) (ring : Nat) (r : Ring) : Basin :=
  if ring = 0 then { x with sq0 := r } else if ring = 1 then { x with sq1 := r } else { x with sq2 := r }

/-- Entries fetched and not taken join those of the ring. -/
def Basin.addFetched (x : Basin) (ring : Nat) (es : List (List Byte)) : Basin :=
  if ring = 0 then { x with f0 := x.f0 ++ es } else if ring = 1 then { x with f1 := x.f1 ++ es } else { x with f2 := x.f2 ++ es }

namespace State

/-- The host reaches its rings and mailboxes through its PCIe functions: the host domain is up, and boot is done (16 R613). -/
def hostRings (s : State) : Bool := s.mode == .running

/-- A producer index written to a submission ring's doorbell (R507): ignored with RING_ERR where it would leave more than
2^k entries outstanding; ignored while the basin resets (R513). -/
def sqRing (b ring v : Nat) (s : State) : State :=
  let x := s.basin b
  let r := x.sq ring
  if !s.hostRings || x.st = 2 then s
  else if r.log2 = 0 ∨ 2 ^ r.log2 < (v + 65536 - r.cons) % 65536 then s.event Reg.HOST_STATUS Ev.HOST_RING_ERR
  else s.setBasin b (x.setSq ring { r with prod := v })

/-- A consumer index written to the doorbell of the event ring (0) or of a basin's completion ring (1 + b) (R507, R513). -/
def cqRing (ring v : Nat) (s : State) : State :=
  if !s.hostRings then s
  else if ring = 0 then { s with aeq := { s.aeq with cons := v } }
  else
    let x := s.basin (ring - 1)
    if x.st = 2 then s else s.setBasin (ring - 1) { x with cq := { x.cq with cons := v } }

/-- Reads entry `i` of a submission ring. The bytes of an entry whose read ends in error are free values (assumption 9). -/
def fetchEntry (r : Ring) (n i : Nat) (s : State) : State × List Byte :=
  let x := readG reqRings 0 n s (r.base + i % 2 ^ r.log2 * n) n
  if x.2.2 then (x.1, x.2.1)
  else
    let f := x.1.free
    (f.2, (x.2.1 ++ (List.range n).map (Config.remoteByte f.1)).take n)

/-- Fetches every posted entry of a submission ring, in ring order (R508). -/
def fetchRing (b ring : Nat) (s : State) : State :=
  let x := s.basin b
  let r := x.sq ring
  if !s.hostRings || x.st = 2 || r.log2 = 0 then s
  else
    let n := (r.prod + 65536 - r.cons) % 65536
    if n = 0 then s
    else
      let es := (List.range n).foldl (fun (a : State × List (List Byte)) i =>
        let e := a.1.fetchEntry r (sqEntrySize ring) ((r.cons + i) % 65536)
        (e.1, a.2 ++ [e.2])) (s, [])
      let y := es.1.basin b
      es.1.setBasin b { (y.setSq ring { r with cons := r.prod }).addFetched ring es.2 with shadowDue := true }

/-- The overflow entry of a completion ring (R510). -/
def overflowBytes (b n : Nat) : List Byte := completionBytes 4 0 0 0 (leBytes 4 n) 0 b

/-- The oldest waiting completion of a basin is written once its ring has room, after an overflow entry where some were
dropped (R510). -/
def dequeue (b : Nat) (s : State) : State :=
  let x := s.basin b
  match x.waiting with
  | [] => s
  | e :: rest =>
    if x.st = 2 ∨ x.cq.full then s
    else
      let s := if x.dropped = 0 then s else (s.cqPut b (overflowBytes b x.dropped)) |> fun s => s.setBasin b { s.basin b with dropped := 0 }
      if (s.basin b).cq.full then s
      else (s.setBasin b { s.basin b with waiting := rest }).cqPut b e

/-- Writes waiting completions while the ring has room. -/
def flush (b : Nat) : Nat → State → State
  | 0, s => s
  | n + 1, s => if (s.basin b).waiting.isEmpty || (s.basin b).cq.full then s else flush b n (s.dequeue b)

/-- Writes a ring shadow whose indices have changed, at most once per microsecond (246 ticks; R508; 13, table "Rings"): the admin
context's (0) or basin b's (1 + b). -/
def writeShadow (ring : Nat) (s : State) : State :=
  if !s.spaced s.ctl.shadowAt ring 246 then s
  else if ring = 0 then
    if s.aeqDue && s.aeqShadow.log2 != 0 then
      { s with aeqDue := false, ctl := { s.ctl with shadowAt := tset s.ctl.shadowAt ring s.time.ticks } }.ringWrite s.aeqShadow.base (List.replicate 6 0 ++ leBytes 2 s.aeq.prod)
    else s
  else
    let x := s.basin (ring - 1)
    if x.shadowDue && x.shadow.log2 != 0 then
      { s.setBasin (ring - 1) { x with shadowDue := false } with
        ctl := { s.ctl with shadowAt := tset s.ctl.shadowAt ring s.time.ticks } }.ringWrite x.shadow.base
        (leBytes 2 x.sq0.cons ++ leBytes 2 x.sq1.cons ++ leBytes 2 x.sq2.cons ++ leBytes 2 x.cq.prod)
    else s

/-- The number of a PCIe function. -/
def pfuncNum : PFunc → Nat
  | .pf => 0
  | .vf n => n.val + 1

/-- A waiting MSI-X message is sent, at most one per vector in any 2 µs (492 ticks: R484). -/
def sendMsix (f vec : Nat) (s : State) : State :=
  let k := f * 32 + vec
  let paced := s.spaced s.ctl.msixAt k 492
  if s.pcieUp && k ∈ s.ctl.msix && paced then
    { s with ctl := { s.ctl with msix := s.ctl.msix.filter (· ≠ k), msixAt := tset s.ctl.msixAt k s.time.ticks } }.emit (.msix f vec)
  else s

end State

/-- SQ_DOORBELL (13 R507). -/
def execSqDoorbell (f : PFunc) (b : Fin 8) (ring : Fin 3) (v : BitVec 16) (s : State) : Host.Outcome State Fault Refusal :=
  s.run fun s => if s.fnServes f (1 + b.val) then s.sqRing b.val ring.val v.toNat else s
/-- CQ_DOORBELL (13 R507): ring 0 is the admin event ring, 1 + b the completion ring of basin b. -/
def execCqDoorbell (f : PFunc) (ring : Fin 9) (v : BitVec 16) (s : State) : Host.Outcome State Fault Refusal :=
  s.run fun s => if s.fnServes f ring.val then s.cqRing ring.val v.toNat else s
/-- RING_FETCH (13 R508). -/
def execRingFetch (b : Fin 8) (ring : Fin 3) (s : State) : Host.Outcome State Fault Refusal :=
  s.run (State.fetchRing b.val ring.val)
/-- COMPLETION_DEQUEUE (13 R509, R510). -/
def execCompletionDequeue (b : Fin 8) (s : State) : Host.Outcome State Fault Refusal := s.run (State.dequeue b.val)
/-- SHADOW_WRITE (13 R508). -/
def execShadowWrite (ring : Fin 9) (s : State) : Host.Outcome State Fault Refusal := s.run (State.writeShadow ring.val)
/-- MSIX_MESSAGE (13 R484). -/
def execMsixMessage (f : PFunc) (vec : Fin 32) (s : State) : Host.Outcome State Fault Refusal :=
  s.run (State.sendMsix (State.pfuncNum f) vec.val)

end Sys2Proof.Machine
end

