-- ==== Sys2Proof/Machine/HostCmds.lean ====
section
/-! DEFINITION. Mailbox commands of the host interface, jobs, budgets, fabric, time source, telemetry and firmware (13, table
"Command set"; results stand in the order that table names them, assumption 30). -/
namespace Sys2Proof.Machine

/-- What a command body answers. -/
abbrev Reply := State × Option (Nat × List Byte)

/-- The bytes of a ring entry (13, table "Rings"). -/
def ringEntry (ring : Nat) : Nat := if ring = 1 ∨ ring = 2 then 64 else if ring = 5 then 8 else 32

namespace State

/-- A refusal. -/
def no (c : Nat) (s : State) : Reply := (s, some (c, []))
/-- OK with results. -/
def ok (rs : List Byte) (s : State) : Reply := (s, some (rcOk, rs))

/-! ## IDENTIFY to IMAGE_INFO -/

/-- The device's identity: CHIP.IDENT and UID. -/
def identity (s : State) : List Byte :=
  leBytes 4 ((s.computed (fun _ => 0) Reg.CHIP_IDENT).getD 0).toNat ++ leBytes 16 s.fuses.uid.toNat

/-- The firmware slot that runs, and its version. -/
def slotOf (s : State) (b : Bool) : Option FwSlot := if b then s.boot.slotB else s.boot.slotA
def versionOf (x : Option FwSlot) : Nat := match x with
  | some f => f.version.toNat
  | none => Config.noVersion.toNat
def running (s : State) : Option FwSlot := if s.mode == .recovery then none else s.slotOf s.boot.runB

/-- IDENTIFY. -/
def cmdIdentify (m : Nat) (s : State) : Reply :=
  s.ok (s.identity ++ leBytes 4 (versionOf s.running) ++ [if m = 0 then 0xFF else BitVec.ofNat 8 (m - 1)])

/-- ECHO. -/
def cmdEcho (m : Nat) (s : State) : Reply := s.ok ((s.mailbox m).latched.drop 4)

/-- A function starts or is started; a procedure of the kind is under way. -/
def funcBusy (s : State) : Bool := s.func.started != 0 || s.func.proc.isSome

/-- The FLOW_TAG of the loaded image, zero without one. -/
def tagNow (s : State) : Nat := match s.img.file with
  | some f => f.tag.toNat
  | none => 0

/-- GET_STATE. -/
def cmdGetState (s : State) : Reply :=
  s.ok ([Config.stateByte s.img.file.isSome (s.func.started != 0)] ++ leBytes 4 s.tagNow ++ leBytes 4 s.func.started
    ++ leBytes 4 ((s.computed (fun _ => 0) Reg.FAULT_FENCED_LO).getD 0).toNat
    ++ leBytes 4 ((s.computed (fun _ => 0) Reg.FAULT_FENCED_HI).getD 0).toNat)

/-- IMAGE_INFO; STATE without an image. -/
def cmdImageInfo (s : State) : Reply :=
  match s.img.file with
  | none => s.no rcState
  | some f => s.ok (leBytes 4 f.tag.toNat ++ leBytes 2 f.catchments.length ++ leBytes 1 f.regions.length ++ [Config.carrierSlots f.tag])

/-- Background work of an opcode is running (R500). -/
def working (s : State) (op : Nat) : Bool := s.async.any fun a => a.opcode == op

/-- IMAGE_UNLOAD: STATE while a function is started (13), or an image is being loaded. -/
def cmdImageUnload (s : State) : Reply :=
  if s.funcBusy || s.working 0x10 then s.no rcState
  else
    let s := s.abortUpdates
    ({ s with img := ⟨none⟩, flt := { s.flt with remaps := [], taken := [] } }.setReg Reg.PWR_ENVELOPE 0).ok []

/-! ## Basins and rings (R506, R511, R523, R533) -/

/-- BASIN_CONFIG. -/
def cmdBasinConfig (s : State) : Reply :=
  let b := s.par 0 4 1
  let en := s.par 0 5 1
  if 8 ≤ b ∨ 2 ≤ en then s.no rcBadParam
  else
    let x := s.basin b
    if x.st = 2 then s.no rcState
    else
      let m := BitVec.ofNat 32 (2 ^ b)
      let r := s.reg Reg.HOST_BASIN_EN
      let s := s.setBasin b { x with st := en, carriers := s.par 0 6 2, catchments := s.par 0 8 32 }
      (s.setReg Reg.HOST_BASIN_EN (if en = 1 then r ||| m else r &&& ~~~m)).ok []

/-- BASIN_STATS. -/
def cmdBasinStats (m : Nat) (s : State) : Reply :=
  let b := if m = 0 then s.par 0 4 1 else m - 1
  if 8 ≤ b then s.no rcBadParam
  else
    let x := s.basin b
    s.ok (leBytes 6 x.submitted ++ leBytes 6 x.completed ++ leBytes 6 x.cancelled ++ leBytes 6 x.reset)

/-- Ring `ring` of a mailbox's context. -/
def ringOf (s : State) (m ring : Nat) : Ring :=
  let x := s.basin (m - 1)
  match ring with
  | 0 => x.sq0
  | 1 => x.sq1
  | 2 => x.sq2
  | 3 => x.cq
  | 4 => s.aeq
  | _ => if m = 0 then s.aeqShadow else x.shadow

/-- Replaces a ring; waiting completions enter a completion ring that has room (R510). -/
def setRing (m ring : Nat) (r : Ring) (s : State) : State :=
  let b := m - 1
  let x := s.basin b
  match ring with
  | 0 => s.setBasin b { x with sq0 := r }
  | 1 => s.setBasin b { x with sq1 := r }
  | 2 => s.setBasin b { x with sq2 := r }
  | 3 => (s.setBasin b { x with cq := r }).flush b 256
  | 4 => { s with aeq := r }
  | _ => if m = 0 then { s with aeqShadow := r } else s.setBasin b { x with shadow := r }

/-- RING_CONFIG (R506, R511): a ring is configured while it is disabled; log2 entries 0 disables it. -/
def cmdRingConfig (m : Nat) (s : State) : Reply :=
  let ring := s.par m 4 1
  let k := s.par m 5 1
  let base := s.par m 6 8
  let align := if ring = 5 then 8 else ringEntry ring * 2 ^ k
  let mine := if m = 0 then ring = 4 ∨ ring = 5 else ring = 5 ∨ ring < 4
  if ¬mine ∨ ¬(k = 0 ∨ (4 ≤ k ∧ k ≤ 15)) then s.no rcBadParam
  else if k = 0 then (s.setRing m ring { s.ringOf m ring with log2 := 0 }).ok []
  else if (s.ringOf m ring).log2 ≠ 0 then s.no rcState
  else if base % align ≠ 0 then s.no rcBadParam
  else (s.setRing m ring ⟨base, k, s.par m 14 8, s.par m 22 4, 0, 0⟩).ok []

/-- JOB_CANCEL: the code of what it did in the cycle of its acceptance (14 R530, R532). -/
def cmdJobCancel (m : Nat) (s : State) : Reply := s.no ((s.mailbox m).pre.getD rcState)

/-! ## The ATU (R489, R491) -/

/-- Drops cached translations of a slice that `hit` picks. -/
def dropAtu (slice : Nat) (hit : AtuEntry → Bool) (s : State) : State :=
  { s with atu := { s.atu with cache := s.atu.cache.filter fun e => !(e.slice == slice && hit e) } }

/-- ATU_CONTEXT. -/
def cmdAtuContext (s : State) : Reply :=
  let c := s.par 0 4 1
  let en := s.par 0 5 1
  let root := s.par 0 6 8
  if 9 ≤ c ∨ 2 ≤ en ∨ root % 16384 ≠ 0 then s.no rcBadParam
  else
    let s := s.dropAtu c fun _ => true
    { s with atu := { s.atu with ctx := tput (fun _ => 0) s.atu.ctx c (if en = 1 then 2 ^ 64 + root else 0) } }.ok []

/-- ATU_INVAL: length 0 is the whole slice. -/
def cmdAtuInval (m : Nat) (s : State) : Reply :=
  let o := if m = 0 then 5 else 4
  let slice := if m = 0 then s.par 0 4 1 else m - 1
  let a := s.par m o 8
  let n := s.par m (o + 8) 8
  if 16 ≤ slice ∨ 2 ^ 41 < a + n then s.no rcBadParam
  else
    (s.dropAtu slice fun e =>
      let size := 2 ^ (39 - 9 * e.level)
      n == 0 || decide (e.vpage * size < a + n ∧ a < e.vpage * size + size)).ok []

/-! ## Backwater (09 R329, R339, R344, R354, R362; 13, 0x40 to 0x47) -/

/-- MODEL_UPDATE of the record kinds that `kinds` picks. -/
def cmdUpdate (m : Nat) (s : State) : Reply :=
  let x := s.mailbox m
  code (s.takeUpdate m (fieldAt x.latched 2 2) (updRecOf ((x.latched.drop 4).take 48)))

/-- The latched command's update record is one that a row of the table serves: LOAD, SWAP, and TRAIN for every other KIND. -/
def updKind (s : State) (m : Nat) : Nat :=
  let k := s.par m 5 1
  if k = 2 ∨ k = 3 then k else 1

/-- MODEL_STATUS; STATE for a region that the image does not declare. -/
def cmdModelStatus (m : Nat) (s : State) : Reply :=
  let i := s.par m 4 1
  if 16 ≤ i then s.no rcBadParam
  else match s.regionDecl i with
    | none => s.no rcState
    | some d => s.ok (leBytes 4 (s.regionState i) ++ leBytes 8 (s.slotVersion d 0) ++ leBytes 8 (s.slotVersion d 1))

/-- A register written by Wellhead as a plain write of its RW bits. -/
def putRw (a : Nat) (v : Nat) (s : State) : State :=
  match rowAt a with
  | some r => s.setReg a (BitVec.ofNat 32 v &&& BitVec.ofNat 32 r.rw)
  | none => s

/-- BKW_CTRL: mask bit i selects value i. -/
def cmdBkwCtrl (s : State) : Reply :=
  let mask := s.par 0 4 4
  let v (i : Nat) : Nat := s.par 0 (8 + 4 * i) 4
  if 32 ≤ mask then s.no rcBadParam
  else
    let w0 := v 0
    let w1 := v 1
    let w2 := v 2
    let w3 := v 3
    let w4 := v 4
    let put (i a w : Nat) (s : State) : State := if bitOf mask i then s.putRw a w else s
    let s := if bitOf mask 0 then s.writeBkwCtrl (BitVec.ofNat 32 w0) else s
    (put 4 Reg.BKW_SWAP_LEAD w4 (put 3 Reg.BKW_EPOCH_LEN w3 (put 2 Reg.BKW_REPLAY_CFG w2 (put 1 Reg.BKW_CAPCFG w1 s)))).ok []

/-- BKW_CACHE (09 R362). -/
def cmdBkwCache (s : State) : Reply :=
  if s.cacheFree then
    (((s.putRw Reg.BKW_CACHE_BASE (s.par 0 4 4)).putRw Reg.BKW_CACHE_SIZE (s.par 0 8 4)).resetCache).ok []
  else s.no rcState

/-- BKW_REFSIG. -/
def cmdBkwRefsig (s : State) : Reply :=
  ((List.range 4).foldl (fun (t : State) i => t.putRw (Reg.BKW_REFSIG0 + 4 * i) (s.par 0 (4 + 4 * i) 4)) s).ok []

/-- BKW_PERM: 256 rows of 16 bytes (assumption 30). -/
def cmdBkwPerm (s : State) : Reply :=
  let r := readG reqWellhead 0 4096 s (s.par 0 4 8) 4096
  if r.2.2 then ((r.1.onBkw fun b => { b with perm := writeBytes [] 0 r.2.1 })).ok [] else r.1.no rcHostFault

/-! ## Telemetry and the fault log (14 R535, 15 R562) -/

/-- TELEMETRY; a transfer that its allowance refuses is tried again in the next period (14 R538). -/
def cmdTelemetry (m : Nat) (s : State) : Reply :=
  if 32 ≤ s.par m 4 2 then s.no rcBadParam
  else if s.sched.teleWait = some (s.reg Reg.SCHED_PERIOD) then (s, none)
  else
    let r := s.sendTele (s.par m 4 2) (s.par m 6 8)
    match r.2 with
    | some done => if done then r.1.ok [] else r.1.no rcHostFault
    | none => ({ r.1 with sched := { r.1.sched with teleWait := some (r.1.reg Reg.SCHED_PERIOD) } }, none)

/-- TELEMETRY_PERIOD: the setting of a destination; an empty mask or period 0 removes it. -/
def cmdTelemetryPeriod (s : State) : Reply :=
  let mask := s.par 0 4 4
  let period := s.par 0 8 2
  let dest := s.par 0 10 8
  let rest := s.sched.tele.filter fun t => t.dest != dest
  let tele := if mask = 0 ∨ period = 0 then rest else rest ++ [⟨mask, period, period, dest, 0⟩]
  { s with sched := { s.sched with tele := tele } }.ok []

/-- The slots of the retained fault-log entries, oldest first (R562). -/
def logSlots (s : State) : List Nat :=
  let head := (s.reg Reg.FAULT_LOG_HEAD).toNat
  (List.range (min head 256)).map fun i => (head - min head 256 + i) % 256

/-- FAULT_LOG: copied entries count as copied (R560). -/
def cmdFaultLog (s : State) : Reply :=
  let slots := s.logSlots
  let bytes := slots.flatMap fun k => (List.range 8).flatMap fun w => leBytes 4 (tget (fun _ => 0) s.ctl.log (k * 8 + w)).toNat
  let r := writeG reqWellhead 0 bytes.length s (s.par 0 4 8) bytes
  if r.2 then
    { r.1 with ctl := { r.1.ctl with copied := slots } }.ok
      (leBytes 4 slots.length ++ leBytes 4 (r.1.reg Reg.FAULT_LOG_OVF).toNat)
  else r.1.no rcHostFault

/-! ## Time source, fabric (12 R461; 11 R413, R430; 13 R505) -/

/-- TIME_SOURCE. -/
def cmdTimeSource (s : State) : Reply :=
  let t := (List.range 8).foldl (fun (t : Tab Word) k => tput (fun _ => 0) t k (BitVec.ofNat 32 (s.par 0 (8 + 4 * k) 4))) s.time.portDelay
  ((s.putRw Reg.TIME_PTP_CFG (s.par 0 4 4)).onTime fun x => { x with portDelay := t }).ok []

/-- FABRIC_LEASE: LEASE_CONFLICT while the device's own address is leased by another device (assumption 30). -/
def cmdFabricLease (s : State) : Reply :=
  let en := s.par 0 4 1
  let base := s.par 0 5 4
  let n := s.par 0 9 4
  let ms := s.par 0 13 4
  let other := s.fabric.isSome && s.trib.leaser != 0 && s.trib.leaser != s.fuses.uid
  if 2 ≤ en ∨ (en = 1 ∧ (2 ^ 18 < base + n ∨ n = 0 ∨ ms = 0)) then s.no rcBadParam
  else if en = 1 && other then s.no rcLeaseConflict
  else if en = 1 then
    let keep (e : BitVec 128 × Nat) : Bool := decide (base ≤ e.2 ∧ e.2 < base + n)
    { s with trib := { s.trib with
        service := true, poolBase := base, poolCount := n, poolMs := ms, table := s.trib.table.filter keep } }.ok []
  else { s with trib := { s.trib with service := false, open_ := [] } }.ok []

/-- FABRIC_ROUTE (11 R413). -/
def cmdFabricRoute (s : State) : Reply :=
  let i := s.par 0 4 1
  let base := s.par 0 5 4
  let mask := s.par 0 9 4
  let ports := s.par 0 13 1
  let valid := s.par 0 14 1
  if 64 ≤ i ∨ 2 ^ 18 ≤ base ∨ 2 ^ 18 ≤ mask ∨ 2 ≤ valid then s.no rcBadParam
  else
    let c := s.ctl.setArr bankRouteBase i (BitVec.ofNat 32 (base + valid * 2 ^ 31))
    { s with ctl := c.setArr bankRouteMask i (BitVec.ofNat 32 (mask + ports * 2 ^ 24)) }.ok []

/-- The background work of mailbox `m`'s command begins: ACCEPTED, or STATE where its opcode has work running (R498, R500). -/
def startWork (m op : Nat) (s : State) : Reply :=
  if s.working op then s.no rcState
  else
    let x := s.mailbox m
    let w : AsyncWork := ⟨op, m, fieldAt x.latched 2 2, (x.latched.drop 4).take 60⟩
    { s with async := s.async ++ [w] }.no rcAccepted

/-- REMOTE_MBX (R505): the command is read and posted to the named mailbox. -/
def cmdRemoteMbx (s : State) : Reply :=
  let d := s.par 0 4 4
  let mbx := s.par 0 8 1
  if 2 ^ 18 ≤ d ∨ 9 ≤ mbx then s.no rcBadParam
  else if s.fabric.isNone then s.no rcNoLease
  else if s.working 0x62 then s.no rcState
  else
    let r := readG reqWellhead 0 64 s (s.par 0 9 8) 64
    if !r.2.2 then r.1.no rcHostFault
    else
      let s := if r.1.isSelf d then (r.1.writeSlot mbx 0 r.2.1).ringMailbox mbx (fieldAt r.2.1 2 2)
        else r.1.emit (.remoteCmd d mbx r.2.1)
      s.startWork 0 0x62

/-! ## Budgets, modes, power (14 R536, R540, R547; 16 R591, R595) -/

/-- Every row has MIN at most MAX at most P, and no unit is left fewer idle unit-cycles than the minima (R536, R540). -/
def budgetOk (s : State) (rows : List BudgetRow) : Bool :=
  let minAfter (k a : Nat) : Nat := match (rows.reverse.find? fun r => r.kind.val == k && r.activity.val == a) with
    | some r => r.min
    | none => (s.ctl.arr bankMin (a + k * 16)).toNat
  let total (k : Nat) : Nat := ([1, 2, 3, 4, 5].map (minAfter k)).foldl (· + ·) 0
  rows.all (fun r => r.activity.val != 0 && decide (r.min ≤ r.max ∧ r.max ≤ periodOf r.kind.val))
    && (match s.img.file with
      | some f => (List.range 5).all fun k => decide (total k ≤ f.idle.getD k (periodOf k))
      | none => true)

/-- BUDGET_SET. -/
def cmdBudgetSet (rows : List BudgetRow) (s : State) : Reply :=
  if s.budgetOk rows then
    (rows.foldl (fun (s : State) r =>
      let i := r.activity.val + r.kind.val * 16
      { s with ctl := (s.ctl.setArr bankMin i (BitVec.ofNat 32 r.min)).setArr bankMax i (BitVec.ofNat 32 r.max) }) s).ok []
  else s.no rcBadParam

/-- DET_MODE. -/
def cmdDetMode (s : State) : Reply :=
  let v := s.par 0 4 1
  if 2 ≤ v then s.no rcBadParam
  else if s.funcBusy then s.no rcState
  else (s.setReg Reg.DET_STRICT (setBits (s.reg Reg.DET_STRICT) 0 0 v)).ok []

/-- The cap that a PWR.CAP value sets (R591). -/
def capOf (v : Nat) : Nat := min 60000 (max 10000 v)

/-- POWER_CAP: not below the envelope of a started image. -/
def cmdPowerCap (s : State) : Reply :=
  let v := s.par 0 4 4
  if 2 ^ 16 ≤ v then s.no rcBadParam
  else if s.func.started ≠ 0 ∧ capOf v < (s.reg Reg.PWR_ENVELOPE).toNat then s.no rcBadParam
  else (s.setReg Reg.PWR_CAP (BitVec.ofNat 32 v)).ok []

/-! ## Firmware and reset (16 R611, R614, R615) -/

/-- A slot is valid (R614). -/
def slotValid (s : State) (x : Option FwSlot) : Bool :=
  match x with
  | some f => f.wellFormed && f.sigOk && !(s.fuses.revoked.contains f.key) && decide (s.fuses.rollback.val ≤ f.rollback.val)
  | none => false

/-- FW_ACTIVATE: the staged slot, verified, is preferred from the next reset on. -/
def cmdFwActivate (s : State) : Reply :=
  match s.boot.staged with
  | some b => if s.slotValid (s.slotOf b) then { s with boot := { s.boot with preferB := b } }.ok [] else s.no rcFwBad
  | none => s.no rcFwBad

/-- FW_STATUS. -/
def cmdFwStatus (s : State) : Reply :=
  s.ok (leBytes 4 (versionOf s.running) ++ leBytes 4 (versionOf (s.boot.staged.bind fun b => s.slotOf b)))

/-- DEVICE_RESET answers OK before its reset begins (R611): kind 1 warm, 2 cold. -/
def cmdDeviceReset (s : State) : Reply :=
  let k := s.par 0 4 1
  if k = 1 ∨ k = 2 then { s with boot := { s.boot with resetReq := some k } }.ok [] else s.no rcBadParam

end State

/-! ## The commands -/

/-- IDENTIFY (13 R503). -/
def execIdentify (m : Fin 9) (s : State) : Host.Outcome State Fault Refusal := s.run (State.serve m.val 0x01 (State.cmdIdentify m.val))
/-- ECHO (13 R503). -/
def execEcho (m : Fin 9) (s : State) : Host.Outcome State Fault Refusal := s.run (State.serve m.val 0x02 (State.cmdEcho m.val))
/-- GET_STATE (13 R503). -/
def execGetState (m : Fin 9) (s : State) : Host.Outcome State Fault Refusal := s.run (State.serve m.val 0x03 State.cmdGetState)
/-- IMAGE_INFO (13 R503). -/
def execImageInfo (m : Fin 9) (s : State) : Host.Outcome State Fault Refusal := s.run (State.serve m.val 0x11 State.cmdImageInfo)
/-- IMAGE_UNLOAD (13 R503). -/
def execImageUnload (m : Fin 9) (s : State) : Host.Outcome State Fault Refusal := s.run (State.serve m.val 0x12 State.cmdImageUnload)
/-- BASIN_CONFIG (13 R523). -/
def execBasinConfig (m : Fin 9) (s : State) : Host.Outcome State Fault Refusal := s.run (State.serve m.val 0x28 State.cmdBasinConfig)
/-- BASIN_STATS (14 R533). -/
def execBasinStats (m : Fin 9) (s : State) : Host.Outcome State Fault Refusal :=
  s.run (State.serve m.val 0x2A (State.cmdBasinStats m.val))
/-- RING_CONFIG (13 R506). -/
def execRingConfig (m : Fin 9) (s : State) : Host.Outcome State Fault Refusal :=
  s.run (State.serve m.val 0x30 (State.cmdRingConfig m.val))
/-- JOB_CANCEL (14 R530): its response; it acted as it was accepted. -/
def execJobCancel (m : Fin 9) (s : State) : Host.Outcome State Fault Refusal :=
  s.run (State.serve m.val 0x31 (State.cmdJobCancel m.val))
/-- ATU_CONTEXT (13 R489, R491). -/
def execAtuContext (m : Fin 9) (s : State) : Host.Outcome State Fault Refusal := s.run (State.serve m.val 0x34 State.cmdAtuContext)
/-- ATU_INVAL (13 R491). -/
def execAtuInval (m : Fin 9) (s : State) : Host.Outcome State Fault Refusal :=
  s.run (State.serve m.val 0x35 (State.cmdAtuInval m.val))
/-- TRAIN (09 R317 to R320, R344): a MODEL_UPDATE of KIND TRAIN, or of a KIND that names no update. -/
def execTrain (m : Fin 9) (s : State) : Host.Outcome State Fault Refusal :=
  s.run fun s => if s.updKind m.val = 1 then s.serve m.val 0x40 (State.cmdUpdate m.val) else s
/-- LOAD (09 R354). -/
def execLoad (m : Fin 9) (s : State) : Host.Outcome State Fault Refusal :=
  s.run fun s => if s.updKind m.val = 2 then s.serve m.val 0x40 (State.cmdUpdate m.val) else s
/-- SWAP (09 R319, R320). -/
def execSwap (m : Fin 9) (s : State) : Host.Outcome State Fault Refusal :=
  s.run fun s => if s.updKind m.val = 3 then s.serve m.val 0x40 (State.cmdUpdate m.val) else s
/-- MODEL_STATUS (13 R503). -/
def execModelStatus (m : Fin 9) (s : State) : Host.Outcome State Fault Refusal :=
  s.run (State.serve m.val 0x41 (State.cmdModelStatus m.val))
/-- BKW_CTRL (13 R503). -/
def execBkwCtrl (m : Fin 9) (s : State) : Host.Outcome State Fault Refusal := s.run (State.serve m.val 0x44 State.cmdBkwCtrl)
/-- BKW_CACHE (09 R362). -/
def execBkwCache (m : Fin 9) (s : State) : Host.Outcome State Fault Refusal := s.run (State.serve m.val 0x45 State.cmdBkwCache)
/-- BKW_REFSIG (09 R329). -/
def execBkwRefsig (m : Fin 9) (s : State) : Host.Outcome State Fault Refusal := s.run (State.serve m.val 0x46 State.cmdBkwRefsig)
/-- BKW_PERM (09 R339). -/
def execBkwPerm (m : Fin 9) (s : State) : Host.Outcome State Fault Refusal := s.run (State.serve m.val 0x47 State.cmdBkwPerm)
/-- TELEMETRY (13 R503). -/
def execTelemetry (m : Fin 9) (s : State) : Host.Outcome State Fault Refusal :=
  s.run (State.serve m.val 0x50 (State.cmdTelemetry m.val))
/-- TELEMETRY_PERIOD (13 R503). -/
def execTelemetryPeriod (m : Fin 9) (s : State) : Host.Outcome State Fault Refusal :=
  s.run (State.serve m.val 0x51 State.cmdTelemetryPeriod)
/-- FAULT_LOG (15 R562). -/
def execFaultLog (m : Fin 9) (s : State) : Host.Outcome State Fault Refusal := s.run (State.serve m.val 0x52 State.cmdFaultLog)
/-- TIME_SOURCE (13 R503). -/
def execTimeSource (m : Fin 9) (s : State) : Host.Outcome State Fault Refusal := s.run (State.serve m.val 0x59 State.cmdTimeSource)
/-- FABRIC_LEASE (13 R503). -/
def execFabricLease (m : Fin 9) (s : State) : Host.Outcome State Fault Refusal := s.run (State.serve m.val 0x60 State.cmdFabricLease)
/-- FABRIC_ROUTE (11 R413). -/
def execFabricRoute (m : Fin 9) (s : State) : Host.Outcome State Fault Refusal := s.run (State.serve m.val 0x61 State.cmdFabricRoute)
/-- REMOTE_MBX (13 R505). -/
def execRemoteMbx (m : Fin 9) (s : State) : Host.Outcome State Fault Refusal := s.run (State.serve m.val 0x62 State.cmdRemoteMbx)
/-- BUDGET_SET (14 R540): the table's rows stand in the parameters, in the firmware's format. -/
def execBudgetSet (m : Fin 9) (rows : List BudgetRow) (s : State) : Host.Outcome State Fault Refusal :=
  s.run (State.serve m.val 0x68 (State.cmdBudgetSet rows))
/-- DET_MODE (14 R547). -/
def execDetMode (m : Fin 9) (s : State) : Host.Outcome State Fault Refusal := s.run (State.serve m.val 0x69 State.cmdDetMode)
/-- POWER_CAP (16 R595). -/
def execPowerCap (m : Fin 9) (s : State) : Host.Outcome State Fault Refusal := s.run (State.serve m.val 0x6A State.cmdPowerCap)
/-- FW_STAGE (16 R615): the image is read and written in the background. -/
def execFwStage (m : Fin 9) (s : State) : Host.Outcome State Fault Refusal :=
  s.run (State.serve m.val 0x70 (State.startWork m.val 0x70))
/-- FW_ACTIVATE (16 R615). -/
def execFwActivate (m : Fin 9) (s : State) : Host.Outcome State Fault Refusal := s.run (State.serve m.val 0x71 State.cmdFwActivate)
/-- FW_STATUS (13 R503). -/
def execFwStatus (m : Fin 9) (s : State) : Host.Outcome State Fault Refusal := s.run (State.serve m.val 0x72 State.cmdFwStatus)
/-- DEVICE_RESET (16 R611). -/
def execDeviceReset (m : Fin 9) (s : State) : Host.Outcome State Fault Refusal := s.run (State.serve m.val 0x78 State.cmdDeviceReset)

end Sys2Proof.Machine
end

