-- ==== Sys2Proof/Machine/Power.lean ====
section
/-! DEFINITION. Power (16 R586 to R609): failed domains, the current estimate, bubbles and floors, temperature, voltage
margin; and the grave faults that leave nothing but the spillway state (15 R556, R578; 16 R585, R618). -/
namespace Sys2Proof.Machine
namespace State

/-- Updates the power state. -/
def onPwr (f : Pwr → Pwr) (s : State) : State := { s with pwr := f s.pwr }

/-- A failed domain (R589, R606): DOMAIN_FAIL, its units fenced as fencing-class faults; a failed Delta domain is marked (6),
a failed host domain leaves the host interface down, a failed DRAM domain is a grave fault. -/
def domainFail (d : Nat) (s : State) : State :=
  let s := s.event Reg.PWR_STATUS Ev.PWR_DOMAIN_FAIL
  if d < 52 then s.fenceUnit 0 d 1
  else if d < 56 then s.fenceUnit 5 (d - 52) 1
  else if d < 60 then
    let q := d - 56
    let s := (List.range 6).foldl (fun (s : State) e => s.fenceUnit 1 (6 * q + e) 1) s
    (((s.fenceUnit 2 (2 * q) 1).fenceUnit 2 (2 * q + 1) 1).fenceUnit 3 q 1)
  else if d = 60 then s.setFence 6 0 1
  else if d < 63 then (List.range 4).foldl (fun (s : State) i => s.fenceUnit 4 (4 * (d - 61) + i) 1) s
  else if d = 63 then s.spill 5
  else { s with boot := { s.boot with hostUp := false } }.setReg Reg.HOST_LINK 0

/-! ## Floors (R597 to R602) -/

/-- Catchments of function `f`: their local leaves as physical cores. -/
def funcCores (s : State) (f : Nat) : List Nat :=
  ((s.catchments.filter fun c => match c.func with
    | some g => g.val == f
    | none => false).flatMap fun c => s.leavesOf c.desc.val).eraseDups

/-- A ns value of the procedure has come. -/
def reached (s : State) (ns : Nat) : Bool := decide (0 ≤ ns32Diff s.ns32.toNat ns)

/-- Function `f` follows its ramp schedule: while it is started and not stopped, and from R - TXP.LEAD of its start or
restart on (R601, R620, R622). -/
def rampOn (s : State) (f : Nat) : Bool :=
  match s.func.proc with
  | some p =>
    if bitOf p.mask f then (p.kind != 0 && p.phase == 0) || (p.phase == 2 && s.reached (p.r + 2 ^ 32 - s.leadNs % 2 ^ 32))
    else bitOf s.func.started f
  | none => bitOf s.func.started f

/-- The target of a core's ramp schedule now: that of the last entry whose offset has passed in the ramp period, the slot of the
image's highest numerology; before the first, that of the period before (R598). -/
def rampTarget (s : State) (p : Nat) : Nat :=
  match s.img.file with
  | none => 0
  | some f =>
    let es := (((f.ramps.find? fun r => some r.1.val == s.logOf p).map (·.2)).getD []).take 32
    let ns := s.time.inFrame % (1000000 * 2 ^ 40 / 2 ^ f.rampMu.val) / 2 ^ 40
    match (es.filter fun e => decide (e.1 ≤ ns)).getLast? with
    | some e => min 1024 e.2
    | none => match es.getLast? with
      | some e => min 1024 e.2
      | none => 0

/-- The standing target of a core: its schedule's; zero while the functions that use it are stopped, and for a core that
only background work uses while no function is started (R601). -/
def standing (s : State) (p : Nat) : Nat :=
  let sched := s.rampTarget p
  let fs := [0, 1].filter fun f => (s.funcCores f).contains p
  if fs.isEmpty then (if s.func.started = 0 then 0 else sched)
  else if fs.any s.rampOn then sched else 0

/-- A floor after an interval (R599). -/
def floorStep (slope f target : Nat) : Nat := if f < target then min target (f + slope) else max target (f - slope)

/-- Core domains of stopped functions go off once their floors are zero, and the pool and Weir domains of a cluster without
a core domain that is on (R586, R587, R624). -/
def buryCores (s : State) : State :=
  let ready := s.pwr.dying.filter fun p => tget (fun _ => 0) s.pwr.floor p == 0
  let s := ready.foldl (fun (s : State) p => s.powerDown p) s
  let s := s.onPwr fun x => { x with dying := x.dying.filter fun p => !(ready.contains p) }
  ((ready.map clusterOf).eraseDups).foldl (fun (s : State) c =>
    if (List.range 13).any fun i => s.domOn (13 * c + i) then s else (s.powerDown (56 + c)).powerDown (52 + c)) s

/-! ## The estimator (R590 to R596) -/

/-- The bubble target of R592. -/
def bubbleTarget (e c gain : Nat) : Nat := if c < e then min 48 ((64 * gain * (e - c) + c - 1) / c) else 0

/-- Bubbles of the next interval: at most 3 more or fewer (R592). -/
def bubbleStep (b target : Nat) : Nat := if b < target then min target (b + 3) else max target (b - 3)

/-- The two channels differ by more than 2 % of the larger (R596). -/
def channelsDiffer (a b : Nat) : Bool := decide (max a b * 2 < ((a : Int) - b).natAbs * 100)

/-- An estimator interval ends, on the first tick at or after a multiple of 1 µs of TIME.SUBSEC, with the estimates of its two channels. -/
def intervalEnd (a b : Nat) (s : State) : State :=
  if !s.periodDue 1000 then s else
  let s := (s.setReg Reg.PWR_EST (BitVec.ofNat 32 a)).setReg Reg.PWR_EST_PEAK
    (BitVec.ofNat 32 (max a (s.reg Reg.PWR_EST_PEAK).toNat))
  let cfg := (s.ctl.inForce Reg.PWR_CFG).toNat
  let cap := capOf (bits (s.ctl.inForce Reg.PWR_CAP).toNat 15 0)
  let n := bubbleStep s.pwr.bubble (bubbleTarget a cap (max 1 (bits cfg 11 8)))
  let slope := min 51 (max 1 (bits cfg 5 0))
  let target := (List.range 52).foldl (fun (t : Tab Nat) p => tput (fun _ => 0) t p (s.standing p)) []
  let floor := (List.range 52).foldl (fun (t : Tab Nat) p =>
    tput (fun _ => 0) t p (floorStep slope (tget (fun _ => 0) s.pwr.floor p) (tget (fun _ => 0) target p))) []
  let div := if channelsDiffer a b then s.pwr.diverge + 1 else 0
  let s := s.onPwr fun x => { x with bubble := n, target := target, floor := floor, diverge := div }
  let s := if n = 0 then s else (s.count Reg.PWR_THROTTLE_CNT 1).event Reg.PWR_STATUS Ev.PWR_THROTTLE
  let s := (s.takeRegs [Reg.PWR_CAP, Reg.PWR_CFG]).buryCores
  if 4 ≤ div then s.spill 5 else s

/-! ## Temperature (R608, R609) -/

/-- A reading of a sensor in 1/16 °C. -/
def senseTemp (k : Nat) (reading : Word) (s : State) : State :=
  let s := s.takeRegs [Reg.PWR_THERM_CFG]
  let cfg := (s.ctl.inForce Reg.PWR_THERM_CFG).toNat
  let s := { s with ctl := s.ctl.setArr bankTemp k reading }
  let v := sext 16 reading.toNat
  let s := if sext 16 (s.reg Reg.PWR_TEMP_MAX).toNat < v then s.setReg Reg.PWR_TEMP_MAX reading else s
  let hottest := (List.range 9).foldl (fun (m : Int) i => max m (sext 16 (s.ctl.arr bankTemp i).toNat)) (-32768)
  let warn : Int := bits cfg 7 0 * 16
  let hot : Int := bits cfg 15 8 * 16
  let trip : Int := bits cfg 23 16 * 16
  let wasWarn := s.pwr.warnArmed
  let wasHot := s.pwr.hotArmed
  let run := if trip < v then tget (fun _ => 0) s.pwr.tripRun k + 1 else 0
  let s := s.onPwr fun x => { x with
    warnArmed := if warn < hottest then false else wasWarn || decide (hottest ≤ warn - 32)
    hotArmed := if hot < hottest then false else wasHot || decide (hottest ≤ hot - 32)
    tripRun := tput (fun _ => 0) x.tripRun k run }
  let s := if wasWarn && decide (warn < hottest) then s.event Reg.PWR_STATUS Ev.PWR_THERM_WARN else s
  let s := if wasHot && decide (hot < hottest) then s.event Reg.PWR_STATUS Ev.PWR_THERM_HOT else s
  if 2 ≤ run then s.spill 6 else s

/-! ## Voltage margin (R603 to R606) -/

/-- The rail that feeds a domain (16): 1 for the pool and DRAM domains. -/
def railOf (d : Nat) : Nat := if (52 ≤ d ∧ d < 56) ∨ d = 63 then 1 else 0

/-- Output of a domain (0 to 64) or rail (65, 66) in 0.1 mV. -/
def millivolts (s : State) (d : Nat) : Nat := tget (fun _ => 0) s.pwr.mv d

/-- Sets an output. -/
def setVolts (d v : Nat) (s : State) : State := s.onPwr fun x => { x with mv := tput (fun _ => 0) x.mv d v }

/-- A monitor report, one for each microsecond: slack below the low threshold raises the LDO by one step inside the fused limits;
without headroom Wellhead raises the rail by AVSBus; slack that stayed low for 1 ms at the maximum fails the domain. -/
def margin (d : Nat) (slack : Slack) (headroom avsOk : Bool) (s : State) : State :=
  let v := s.millivolts d
  let z (_ : Nat) : Nat := 0
  let n := if slack == .low && decide (s.fuses.vMax ≤ v) then tget z s.pwr.slackLow d + 1 else 0
  let s := if s.domOn d then s.onPwr fun x => { x with
      slackLow := tput z x.slackLow d n
      notHigh := if slack == .high then x.notHigh else tset x.notHigh d s.time.ticks }
    else s
  if !s.domOn d || slack != .low then s
  else
    if s.fuses.vMax ≤ v then (if 1000 ≤ n then s.domainFail d else s)
    else
      let s := if headroom then s
        else if avsOk then s.setVolts (65 + railOf d) (s.millivolts (65 + railOf d) + Config.railStep)
        else s.event Reg.PWR_STATUS Ev.PWR_AVS_FAIL
      if headroom || avsOk then (s.setVolts d (min s.fuses.vMax (v + 25))).event Reg.PWR_STATUS Ev.PWR_VRAISE else s

/-- The budget unit of a domain, where it has one (14 R534). -/
def calibUnit (d : Nat) : Option (Nat × Nat) :=
  if d < 52 then some (0, d) else if d < 56 then some (1, 16 * (d - 52)) else if d < 60 then some (3, 6 * (d - 56))
  else if d = 63 then some (2, 0) else none

/-- One step down, at most one a second, inside the calibration allowance, after a second of slack above the high
threshold (R605, R606). -/
def lowerVolts (d : Nat) (s : State) : State :=
  let v := s.millivolts d
  let allow := match calibUnit d with
    | some u => decide (s.used u.1 u.2 4 < s.maxOf u.1 4)
    | none => true
  let spaced := match tfind s.pwr.lowered d with
    | some t => decide (t + ticksPerSecond ≤ s.time.ticks)
    | none => true
  let highSecond := decide (tget (fun _ => 0) s.pwr.notHigh d + ticksPerSecond ≤ s.time.ticks)
  if s.domOn d && highSecond && allow && spaced && decide (s.fuses.vMin + 25 ≤ v) then
    (s.setVolts d (v - 25)).onPwr fun x => { x with lowered := tset x.lowered d s.time.ticks }
  else s

end State

/-! ## The commands -/

/-- ESTIMATOR_INTERVAL (R590 to R602). -/
def execEstimatorInterval (estA estB : BitVec 17) (s : State) : Host.Outcome State Fault Refusal :=
  s.run (State.intervalEnd estA.toNat estB.toNat)
/-- SENSOR_READING (R608, R609). -/
def execSensorReading (sensor : Fin 9) (reading : BitVec 16) (s : State) : Host.Outcome State Fault Refusal :=
  s.run (State.senseTemp sensor.val (BitVec.ofNat 32 reading.toNat))
/-- MARGIN_CHECK (R603, R604, R606). -/
def execMarginCheck (domain : Fin 65) (slack : Slack) (headroom avsOk : Bool) (s : State) : Host.Outcome State Fault Refusal :=
  s.run (State.margin domain.val slack headroom avsOk)
/-- VOLTAGE_LOWER (R605). -/
def execVoltageLower (domain : Fin 65) (s : State) : Host.Outcome State Fault Refusal :=
  s.run (State.lowerVolts domain.val)
/-- DOMAIN_FAIL (R589). -/
def execDomainFail (domain : Fin 65) (s : State) : Host.Outcome State Fault Refusal := s.run (State.domainFail domain.val)
/-- COLLECTOR_ERROR (15 R556). -/
def execCollectorError (s : State) : Host.Outcome State Fault Refusal := s.runAny (State.spill 1)
/-- WELLHEAD_LOCKSTEP (15 R578). -/
def execWellheadLockstep (s : State) : Host.Outcome State Fault Refusal := s.runAny (State.spill 2)
/-- PLL_LOCK_LOSS (16 R585). -/
def execPllLockLoss (s : State) : Host.Outcome State Fault Refusal := s.runAny (State.spill 4)
/-- RAIL_FAULT (15 R578). -/
def execRailFault (s : State) : Host.Outcome State Fault Refusal := s.runAny (State.spill 5)
/-- FAULT_BLOCK_PARITY (15 R578). -/
def execFaultBlockParity (s : State) : Host.Outcome State Fault Refusal := s.runAny (State.spill 7)
/-- WATCHDOG_EXPIRY (16 R618): the watchdog is armed as the firmware starts. -/
def execWatchdogExpiry (s : State) : Host.Outcome State Fault Refusal :=
  s.runAny fun s => if s.boot.watchdog then s.spill 8 else s

end Sys2Proof.Machine
end

