-- ==== Sys2Proof/Machine/ImageOps.lean ====
section
/-! DEFINITION. Flow images (01 R17 to R22; 00 R5; 09 R315, R316; 14 R540; 16 R617), carrier records (02 R48 to R58, R71; 03
R105 to R108; 10 R393; 13 R504) and the ends of asynchronous commands (13 R498). -/
namespace Sys2Proof.Machine

/-- A core with what a flow image loads into it: instruction memory from bundle 0 and initial contents (04 R149). The core
stands halted. -/
def loadCore (i : CoreImage) (c : Core) : Core :=
  let im := i.code.zipIdx.foldl (fun (t : Tab (BitVec 128)) (x : BitVec 128 × Nat) => tset t x.2 x.1) []
  let c := { c with im := im, run := .halted .reset, gate := Core.reset.gate, delay := 0, target := none, reps := [], stall := 0 }
  i.init.foldl restoreLive c

/-- The largest number of learned reaches for F fallback and replay slots (02 R57, table). -/
def reachLimit (r : CarrierRec) (f : Nat) : Nat :=
  if r.mu.val = 3 then (if f = 0 then 8 else 5 - f)
  else
    let g := if r.group then (if r.viaSwitch then 2 else 1) else 0
    if f = 0 then 14 - g else 11 - g - f

/-- P slots that a symbol's worst case needs (03 R105) with `n` positions on the largest cluster and A streams: ceil(S / 64) + 15
fills, twice at level 50 (15 R569), on the eight cores of a slot with 1,200 cycles each. -/
def pSlotsNeeded (n streams level : Nat) : Nat :=
  let per := 8 * (1200 / (16 * streams + 32))
  let fills := (4 * n + 15) * (if level = 50 then 2 else 1)
  if per = 0 then 8 else (fills + per - 1) / per

/-- Sum of a figure over carriers. -/
def sumOver (rs : List CarrierRec) (f : CarrierRec → Nat) : Nat := (rs.map f).foldl (· + ·) 0

namespace State

/-! ## Flow images -/

/-- Two leaves name one core: the same logical core of the same device, the device itself by all ones or by its own leased
address (01 R15, R21). -/
def sameLeaf (s : State) (x y : Leaf) : Bool := x.core == y.core && (x.dev == y.dev || (s.leafHere x && s.leafHere y))

/-- One list holds every leaf of another. -/
def subList (s : State) (a b : List Leaf) : Bool := a.all fun x => b.any (s.sameLeaf x)

/-- Two catchments share a leaf and neither contains the other (01 R22). -/
def catchClash (s : State) (a b : Catchment) : Bool :=
  (a.leaves.any fun x => b.leaves.any (s.sameLeaf x)) && !s.subList a.leaves b.leaves && !s.subList b.leaves a.leaves

/-- Why a flow image is refused, in the order of the command table; none where it loads. -/
def imageRefusal (s : State) (f : ImageFile) : Option Nat :=
  let sum (k : Nat) : Nat := ([1, 2, 3, 4, 5].map fun a => (s.ctl.arr bankMin (a + k * 16)).toNat).foldl (· + ·) 0
  let here : List Leaf := f.catchments.flatMap fun c => c.leaves.filter s.leafHere
  let named := (here.flatMap fun l => l.core.val :: l.spares.map (·.val)) ++ f.cores.map (·.core.val)
  let short := named.any fun k => decide (s.enabled ≤ k)
  let bad := !f.sigOk || s.fuses.revoked.contains f.key || decide (f.rollback.val < s.fuses.rollback.val)
    || f.catchments.any (fun c => decide (4095 < c.leaves.length)) || !decide ((f.catchments.map (·.desc)).Nodup)
    || (List.range 5).any fun k => decide (f.idle.getD k (periodOf k) < sum k)
  let others := f.namesOthers || f.catchments.any fun c => c.leaves.any fun l => !s.leafHere l
  if bad then some rcImageBad
  else if short then some rcCoresShort
  else if others && s.fabric.isNone then some rcNoLease
  else if f.catchments.any fun a => f.catchments.any (s.catchClash a) then some rcOverlap
  else if 16 < f.regions.length then some rcRegionLimit
  else if f.regions.any fun r => decide (1 < r.mus.eraseDups.length) then some rcRegionMixed
  else none

/-- Loads a core's part of the image into the physical core that bears its number. -/
def loadLogical (i : CoreImage) (s : State) : State :=
  match s.physOf i.core.val with
  | some p => if s.domOn p && !s.coreFenced p then (s.leafDiscard p).onCore p (loadCore i) else s
  | none => s

/-- Puts a flow image into place of the present one: the updates of its regions end, cores are loaded (01; 09, table
"Update completions"; 16 R595). -/
def installImage (f : ImageFile) (s : State) : State :=
  let s := s.abortUpdates
  let perm := f.permTable.flatMap fun r => padTo 16 (r.map fun x => BitVec.ofNat 8 x.val)
  let s := { s with img := ⟨some f⟩ }
  let s := (s.onBkw fun b => { b with perm := writeBytes [] 0 perm }).setReg Reg.PWR_ENVELOPE (BitVec.ofNat 32 (f.envelope % 2 ^ 17))
  f.cores.foldl (fun (s : State) i => s.loadLogical i) s

/-! ## Ends of background work -/

/-- Posts the result of an asynchronous command (R498). -/
def workDone (w : AsyncWork) (c : Nat) (s : State) : State := s.adminEvent 1 c w.seq w.mbx []

/-- The background work of an asynchronous command ends. -/
def endWorkOf (w : AsyncWork) (r : AsyncResult) (s : State) : State :=
  let s := { s with async := s.async.filter (· ≠ w) }
  match r with
  | .image none => s.workDone w rcHostFault
  | .image (some f) =>
    match s.imageRefusal f with
    | some c => s.workDone w c
    | none => (s.installImage f).workDone w rcOk
  | .fwStage none => s.workDone w rcHostFault
  | .fwStage (some f) =>
    if !f.wellFormed then s.workDone w rcFwBad
    else
      let b := !s.boot.runB
      let boot := { s.boot with staged := some b }
      let boot := if b then { boot with slotB := some f } else { boot with slotA := some f }
      { s with boot := boot }.workDone w rcOk
  | .remote resp =>
    let mbx := fieldAt w.params 4 1
    let got := if s.isSelf (fieldAt w.params 0 4) then (if (s.mailbox mbx).st = 2 then some (s.mailbox mbx).resp else none) else resp
    match got with
    | none => s.workDone w rcHostFault
    | some bs =>
      let x := writeG reqWellhead 0 64 s (fieldAt w.params 13 8) (padTo 64 bs)
      x.1.workDone w (if x.2 then rcOk else rcHostFault)

/-- A result is of the kind that an opcode's work has. -/
def resultFits (op : Nat) (r : AsyncResult) : Bool :=
  match r with
  | .image _ => op == 0x10
  | .fwStage _ => op == 0x70
  | .remote _ => op == 0x62

/-- ASYNC_COMMAND_DONE. -/
def asyncDone (op : Nat) (r : AsyncResult) (s : State) : State :=
  match s.async.find? fun w => w.opcode == op && resultFits op r with
  | some w => s.endWorkOf w r
  | none => s

/-- IMAGE_LOAD: STATE while a function is started (DEDUCED from IMAGE_UNLOAD, assumption 31). -/
def cmdImageLoad (m : Nat) (s : State) : Reply := if s.funcBusy then s.no rcState else s.startWork m 0x10

/-! ## Carrier records -/

/-- Learned reaches of owner `o`'s cluster in a data symbol of numerology μ, over the uplink carriers (R57; carriers of several
numerologies are counted each for itself, DESIGN CHOICE, assumption 73). -/
def reachesOf (rs : List CarrierRec) (mu o c : Nat) : Nat :=
  sumOver (rs.filter fun x => x.uplink && x.mu.val == mu) fun x => ((x.rxPlaces.getD o []).filter fun y => y.cluster.val == c).length

/-- The reaches of every cluster of every owner stay within the limits for a carrier's fallback and replay slots (R57). -/
def reachesFit (rs : List CarrierRec) (level : Nat) (r : CarrierRec) : Bool :=
  (List.range 4).all fun o => (List.range 4).all fun c =>
    let n := reachesOf rs r.mu.val o c
    decide (n ≤ reachLimit r (r.fallbacks + replaySlots level n))

/-- A record inside the receiver's limits among all records (R48, R57, R58): at most 16 antennas on each device and 64 in a group,
64QAM with 16 layers or 256QAM with 8. -/
def rxFits (rs : List CarrierRec) (level : Nat) (r : CarrierRec) : Bool :=
  let up := rs.filter (·.uplink)
  !r.uplink || (r.normalCp && r.rxAntennas.all (fun a => decide (a ≤ 16)) && decide (r.rxAntennas.length ≤ (if r.group then 4 else 1))
    && decide (r.rxQm ≤ 8 ∧ r.rxLayers ≤ (if 6 < r.rxQm then 8 else 16)) && decide (sumOver up (fun x => x.bandwidthMHz) ≤ 800)
    && up.all (reachesFit rs level))

/-- Transmit positions of a cluster in a symbol of numerology μ, over the downlink carriers. -/
def txPositions (rs : List CarrierRec) (mu c : Nat) : Nat :=
  sumOver (rs.filter fun x => x.downlink && x.mu.val == mu) fun x => (x.txPlaces.filter fun y => y.cluster.val == c).length

/-- The positions of the largest cluster. -/
def txLargest (rs : List CarrierRec) (mu : Nat) : Nat := ((List.range 4).map (txPositions rs mu)).foldl max 0

/-- A transmit stage slot and a receive stage slot of the records fall on one core in one window (R106). -/
def slotClash (rs : List CarrierRec) : Bool :=
  (rs.filter (·.downlink)).any fun t => (rs.filter (·.uplink)).any fun r => t.txSlots.any fun x => r.rxSlots.contains x

/-- A record inside the transmitter's limits among all records (R105, R106, R108). -/
def txFits (rs : List CarrierRec) (level : Nat) (r : CarrierRec) : Bool :=
  let down := rs.filter (·.downlink)
  let direct := down.filter fun x => !x.fronthaul
  let wide := if direct.all fun x => decide (x.txStreams ≤ 16) then 400 else 200
  let streams := ((down.filter fun x => x.mu == r.mu).map (·.txStreams)).foldl max 0
  let n := txLargest rs r.mu.val
  !slotClash rs && (!r.downlink || (decide (n ≤ 32 ∧ pSlotsNeeded n streams level ≤ 7 ∧ r.txLayers ≤ 16 ∧ r.txQm ≤ 8 ∧ r.txStreams ≤ 32)
    && decide (sumOver direct (fun x => x.bandwidthMHz) ≤ wide)
    && decide (sumOver (down.filter (·.fronthaul)) (fun x => x.bandwidthMHz) ≤ 800)))

/-- The code that refuses a record among the records `rs`; none where it is accepted (R504). -/
def recordRefusal (s : State) (rs : List CarrierRec) (level : Nat) (r : CarrierRec) : Option Nat :=
  if !rxFits rs level r then some rcRxOverload
  else if r.uplink && !(r.dmrsFirst && r.dmrsNoData) then some rcDmrs
  else if !txFits rs level r then some rcTxOverload
  else
    let o := s.overlay rs
    let dir (tx : Bool) : Option Nat := if r.dfeWords.isEmpty || r.fronthaul then none else o.dirCheck tx
    match (if r.uplink then dir false else none), (if r.downlink then dir true else none) with
    | some c, _ => some c
    | none, some c => some c
    | none, none =>
      if r.fronthaul && !s.fhCfgOk then some rcFhConfig
      else if r.uplink && decide (1000000 / 2 ^ r.mu.val < s.dataEnd r + 20000) then some rcFhConfig
      else none

/-- CARRIER_CONFIG: the record is read and checked as it is staged; a refused one stands in the way of starts (R504). -/
def cmdCarrierConfig (rec_ : Option CarrierRec) (s : State) : Reply :=
  let k := s.par 0 4 1
  let n := s.par 0 13 4
  if 16 ≤ k then s.no rcBadParam
  else
    let b := readG reqWellhead 0 n s (s.par 0 5 8) n
    if !b.2.2 then b.1.no rcHostFault
    else match rec_ with
    | none => b.1.no rcBadParam
    | some r =>
      if !r.wellFormed then b.1.no rcBadParam
      else
        let s := b.1
        let rest := s.func.refused.filter (· ≠ k)
        match s.recordRefusal ((tset s.records k r).map (·.2)) s.flt.checkNext r with
        | some c => { s with func := { s.func with refused := rest ++ [k] } }.no c
        | none => { s with func := { s.func with staged := tset s.func.staged k r, refused := rest } }.ok []

/-- A carrier's functions run. -/
def carrierRuns (s : State) (k : Nat) : Bool :=
  match tfind s.func.applied k with
  | some r => (r.uplink && bitOf s.func.started 0) || (r.downlink && bitOf s.func.started 1)
  | none => false

/-- CARRIER_REMOVE. -/
def cmdCarrierRemove (s : State) : Reply :=
  let k := s.par 0 4 1
  if 16 ≤ k then s.no rcBadParam
  else if s.carrierRuns k || s.func.proc.isSome then s.no rcState
  else
    { s with func := { s.func with
        staged := tdel s.func.staged k, applied := tdel s.func.applied k, refused := s.func.refused.filter (· ≠ k) } }.ok []

end State

/-- IMAGE_LOAD (16 R617). -/
def execImageLoad (m : Fin 9) (s : State) : Host.Outcome State Fault Refusal :=
  s.run (State.serve m.val 0x10 (State.cmdImageLoad m.val))
/-- ASYNC_COMMAND_DONE (13 R498). -/
def execAsyncCommandDone (opcode : Byte) (r : AsyncResult) (s : State) : Host.Outcome State Fault Refusal :=
  s.run (State.asyncDone opcode.toNat r)
/-- CARRIER_CONFIG (13 R504): `rec` is the record that the parameters name, in the Vangal format. -/
def execCarrierConfig (m : Fin 9) (rec_ : Option CarrierRec) (s : State) : Host.Outcome State Fault Refusal :=
  s.run (State.serve m.val 0x18 (State.cmdCarrierConfig rec_))
/-- CARRIER_REMOVE (13 R503). -/
def execCarrierRemove (m : Fin 9) (s : State) : Host.Outcome State Fault Refusal :=
  s.run (State.serve m.val 0x19 State.cmdCarrierRemove)

end Sys2Proof.Machine
end

