-- ==== Sys2Proof/Machine/FuncCmds.lean ====
section
/-! DEFINITION. Functions (16 R619 to R626; 13 R504): starting, stopping and changing them, TIME_SET (12 R456), the
checking level (15 R569). -/
namespace Sys2Proof.Machine

/-- The next slot boundary of numerology μ at least `d` ns ahead, in ns of the counter (16 R620, R622; 12 R472). -/
def TimeSt.boundary (mu d : Nat) (t : TimeSt) : Nat :=
  let len := 1000000 * 2 ^ 40 / 2 ^ mu
  let x := t.inFrame
  let n := (x + d * 2 ^ 40 + len - 1) / len
  (t.cnt.toNat + (n * len - x)) / 2 ^ 40

/-- The uplink bound of a numerology in ns (16 R621). -/
def uplinkBound (mu : Nat) : Nat := if mu = 3 then 45000 else 80000

/-- The apply phase in ns with `n` domains switched on (16 R621). -/
def applyNs (n : Nat) : Nat := 100000 + 20000 * ((n + 3) / 4)

namespace State

/-! ## What a mask of functions takes in -/

/-- Carriers that a mask's functions serve: bit 0 uplink, 1 downlink, 2 and 3 the front end's directions, 8 and on the ports
that fronthaul carriers use. -/
def affected (mask : Nat) (rs : Tab CarrierRec) : List CarrierRec :=
  (rs.map (·.2)).filter fun r =>
    (r.uplink && (bitOf mask 0 || (bitOf mask 2 && !r.fronthaul))) || (r.downlink && (bitOf mask 1 || (bitOf mask 3 && !r.fronthaul)))
      || (r.fronthaul && decide (256 ≤ mask))

/-- The highest numerology among carriers, 0 without one (subframes). -/
def topMu (rs : List CarrierRec) : Nat := (rs.map fun r => r.mu.val).foldl max 0

/-- The cores of the functions of a mask, and their cores' listed spares. -/
def maskCores (s : State) (mask : Nat) : List Nat :=
  let fs := [0, 1].filter fun f => bitOf mask f
  let cs := s.catchments.filter fun c => match c.func with
    | some g => fs.contains g.val
    | none => false
  let spares := cs.flatMap fun c => (c.leaves.filter s.leafHere).flatMap fun l => l.spares.filterMap fun k => s.physOf k.val
  ((fs.flatMap s.funcCores) ++ spares).eraseDups.filter fun p => !s.coreFenced p

/-- The domains that a start of a mask needs and that are off (R586). -/
def domainsOff (s : State) (mask : Nat) : List Nat :=
  let cores := s.maskCores mask
  let cl := (cores.map clusterOf).eraseDups
  let front := if bits mask 3 2 ≠ 0 then [60] else []
  let groups := (if bits mask 11 8 ≠ 0 then [61] else []) ++ (if bits mask 15 12 ≠ 0 then [62] else [])
  (cl.map (52 + ·) ++ cl.map (56 + ·) ++ cores ++ front ++ groups).filter fun d => !s.domOn d

/-! ## Checks of a start or change (R504, R595, R626) -/

/-- Bits of a function mask that name nothing. -/
def maskBad (mask : Nat) : Bool := mask == 0 || decide (2 ^ 16 ≤ mask) || bits mask 7 4 != 0

/-- Why a start or change of the functions of `mask` is refused. -/
def startRefusal (s : State) (mask : Nat) : Option Nat :=
  let rs := s.records.map (·.2)
  let used := rs.filter fun r => (bitOf mask 0 && r.uplink) || (bitOf mask 1 && r.downlink)
  let o := s.overlay rs
  let dir (b : Nat) (tx : Bool) : Option Nat :=
    if !bitOf mask b then none else if s.fence 6 0 ≠ 0 then some rcConfigBad else o.dirCheck tx
  let ports := (List.range 8).filter fun k => bitOf mask (8 + k)
  if decide (capOf (bits (s.reg Reg.PWR_CAP).toNat 15 0) < (s.reg Reg.PWR_ENVELOPE).toNat) then some rcConfigBad
  else if bits mask 3 0 ≠ 0 ∧ !s.func.refused.isEmpty then some rcConfigBad
  else if (bitOf mask 0 && !rs.any (·.uplink)) || (bitOf mask 1 && !rs.any (·.downlink)) then some rcConfigBad
  else match used.findSome? fun r => s.recordRefusal rs s.flt.checkNext r with
    | some c => some c
    | none => match dir 2 false, dir 3 true with
      | some c, _ => some c
      | none, some c => some c
      | none, none =>
        if ports.any fun k => s.cpCfg k 3 2 == 3 || s.fence 4 k != 0 then some rcConfigBad
        else if ports.any fun k => s.portFh k && !s.fhCfgOk then some rcFhConfig else none

/-! ## The procedure (R620 to R624) -/

/-- Begins a procedure and answers S and R. -/
def beginProc (p : Proc) (s : State) : Reply :=
  let s := { s with func := { s.func with proc := some p } }
  s.ok (leBytes 4 p.s ++ leBytes 4 p.r)

/-- The procedure of a mask accepted now: S, the apply phase, R. A start has nothing to stop: it applies at once, and S is
the time of its acceptance (DEDUCED, assumption 32). -/
def procFor (s : State) (kind mask : Nat) : Proc :=
  let mu := topMu (affected mask s.records)
  let n := if kind = 1 ∨ kind = 3 then 0 else (s.domainsOff mask).length
  let now := s.time.cnt.toNat / 2 ^ 40
  let st := if kind = 0 then now else s.time.boundary mu 50000
  let ap := if kind = 0 then now else st + uplinkBound mu
  let r := if kind = 1 then 0 else s.time.boundary mu (ap - now + applyNs n + s.leadNs)
  { kind := kind, mask := mask, phase := if kind = 0 then 1 else 0, mu := mu, s := st % 2 ^ 32, ap := ap % 2 ^ 32, r := r % 2 ^ 32
    setNs := 0, setSub := 0, setSfn := 0 }

/-- FUNC_START; without the receive set CONFIG_BAD, whatever else stands (R626). -/
def cmdFuncStart (s : State) : Reply :=
  let mask := s.par 0 4 4
  if maskBad mask then s.no rcBadParam
  else if !s.receiveSet then s.no rcConfigBad
  else if s.func.proc.isSome || s.func.started &&& mask != 0 || s.working 0x10 || (bits mask 1 0 != 0 && s.img.file.isNone) then
    s.no rcState
  else match s.startRefusal mask with
    | some c => s.no c
    | none => s.beginProc (s.procFor 0 mask)

/-- FUNC_STOP. -/
def cmdFuncStop (s : State) : Reply :=
  let mask := s.par 0 4 4
  if maskBad mask then s.no rcBadParam
  else if s.func.proc.isSome || s.func.started &&& mask != mask then s.no rcState
  else s.beginProc (s.procFor 1 mask)

/-- FUNC_CHANGE. -/
def cmdFuncChange (s : State) : Reply :=
  let mask := s.par 0 4 4
  if maskBad mask then s.no rcBadParam
  else if !s.receiveSet then s.no rcConfigBad
  else if s.func.proc.isSome || s.func.started &&& mask != mask || s.working 0x10 then s.no rcState
  else match s.startRefusal mask with
    | some c => s.no c
    | none => s.beginProc (s.procFor 2 mask)

/-- TIME_SET (12 R454, R456): TAI seconds T and nanoseconds, with the frame count aligned to GPS time or counted from T = 0
(DEDUCED, assumption 32). It is answered in its apply phase. -/
def cmdTimeSet (s : State) : Reply :=
  let t := s.par 0 4 8
  let ns := s.par 0 12 4
  let gps := s.par 0 16 1
  if 1000000000 ≤ ns ∨ 2 ≤ gps then s.no rcBadParam
  else match s.func.proc with
    | some p => if p.kind = 3 then (s, none) else s.no rcState
    | none =>
      let secs : Int := if gps = 1 then (t : Int) - 315964819 else t
      let p := { s.procFor 3 s.func.started with
        setNs := (t * 1000000000 + ns) % 2 ^ 32, setSub := ns, setSfn := wrapN 10 (secs * 100 + (ns / 10000000 : Nat)) }
      ({ s with func := { s.func with proc := some p } }, none)

/-- CHECK_LEVEL (15 R569): for the next start or change; BAD_PARAM without a placement in the loaded image. -/
def cmdCheckLevel (s : State) : Reply :=
  let l := s.par 0 4 1
  let placed := match s.img.file with
    | some f => f.levels.contains l
    | none => true
  if [0, 3, 6, 25, 50].contains l && placed then { s with flt := { s.flt with checkNext := l } }.ok [] else s.no rcBadParam

/-! ## STOP_BOUNDARY (R620) -/

/-- At S: transmit streams send zero codes; stopped cores' targets become 0 as the estimator next runs. A FUNC_STOP's
functions are no longer started. -/
def atStop (s : State) : State :=
  match s.func.proc with
  | some p =>
    if p.phase ≠ 0 || !s.reached p.s then s
    else
      let s := { s with func := { s.func with
          proc := some { p with phase := 1 }
          started := if p.kind = 1 then s.func.started &&& (2 ^ 16 - 1 - p.mask) else s.func.started } }
      if bitOf p.mask 3 then s.stopDir true else s
  | none => s

/-! ## APPLY_PHASE (R621, R587) -/

/-- Cores of a FUNC_STOP that no started function uses: their domains go off once their floors are zero (R624). -/
def markDying (mask : Nat) (s : State) : State :=
  let keep := [0, 1].flatMap fun f => if bitOf s.func.started f then s.funcCores f else []
  let cores := ([0, 1].flatMap fun f => if bitOf mask f then s.funcCores f else []).filter fun p => !(keep.contains p)
  s.onPwr fun x => { x with dying := (x.dying ++ cores).eraseDups }

/-- Front-end and port-group domains without use go off (R586). -/
def idleDomains (s : State) : State :=
  let s := if s.dfe.rx.on || s.dfe.tx.on then s else s.powerDown 60
  [0, 1].foldl (fun (s : State) g => s.idleGroup g) s

/-- A core whose domain comes up again is loaded from the image. -/
def reviveCore (p : Nat) (s : State) : State :=
  if s.domOn p then s.onPwr fun x => { x with dying := x.dying.filter (· ≠ p) }
  else
    let s := (s.powerUp p).setVolts p s.fuses.vMax
    match (s.logOf p).bind s.coreImage with
    | some i => s.loadLogical i
    | none => s

/-- Wellhead switches on what a start of `mask` needs; a domain that misses power-good fails (R587 to R589). -/
def wakeDomains (mask : Nat) (bad : List Nat) (s : State) : State :=
  (s.domainsOff mask).foldl (fun (s : State) d =>
    let s := if d < 52 then s.reviveCore d else (s.powerUp d).setVolts d s.fuses.vMax
    if bad.contains d then s.domainFail d else s) ((s.maskCores mask).foldl (fun (s : State) p => if s.domOn p then s.reviveCore p else s) s)

/-- A record may be applied: no started function outside the mask uses the carrier. -/
def mayApply (s : State) (mask : Nat) (k : Nat) (r : CarrierRec) : Bool :=
  let others := s.func.started &&& (2 ^ 16 - 1 - mask)
  let uses (x : CarrierRec) : Bool := (x.uplink && bitOf others 0) || (x.downlink && bitOf others 1)
  !uses r && match tfind s.func.applied k with
    | some x => !uses x
    | none => true

/-- The staged records of the mask's functions are applied, with their front-end words (R621; 09, CONFIG). -/
def applyRecords (mask : Nat) (s : State) : State :=
  let go := s.func.staged.filter fun r => bits mask 3 0 != 0 && s.mayApply mask r.1 r.2
  if go.isEmpty then s
  else
    let s := s.overlay (go.map (·.2))
    let applied := go.foldl (fun (t : Tab CarrierRec) r => tset t r.1 r.2) s.func.applied
    let s := { s with func := { s.func with
        applied := applied, staged := s.func.staged.filter fun r => !(go.any fun g => g.1 == r.1) } }
    s.onBkw fun b => { b with config := b.config + 1 }

/-- The selected checking level comes into force (15 R569). -/
def applyLevel (s : State) : State :=
  let l := s.flt.checkNext
  let v := if l = 0 then 0 else 3
  let s := { s with flt := { s.flt with check := l } }.setReg Reg.FAULT_CHECK (BitVec.ofNat 32 l)
  (List.range 52).foldl (fun (s : State) p =>
    if s.domOn p then s.onCore p fun c => c.setReg cCHKCFG (setBits (c.reg cCHKCFG) 1 0 v) else s) s

/-- Directions and ports of the mask start (10 R393, 11 R404). -/
def startUnits (mask : Nat) (s : State) : State :=
  let dir (b : Nat) (tx : Bool) (s : State) : State := if bitOf mask b && (s.dirCheck tx).isNone && s.fence 6 0 == 0 && s.receiveSet then s.startDir tx else s
  let s := dir 3 true (dir 2 false s)
  (List.range 8).foldl (fun (s : State) k => if bitOf mask (8 + k) then (s.startPort k).1 else s) s

/-- Receive directions and ports of the mask stop. -/
def stopUnits (mask : Nat) (s : State) : State :=
  let s := if bitOf mask 2 then s.stopDir false else s
  let s := if bitOf mask 3 then s.stopDir true else s
  (List.range 8).foldl (fun (s : State) k => if bitOf mask (8 + k) then s.stopPort k else s) s

/-- Every gate is disarmed, and background steps and tests that hold one end (12 R456): a job whose leaf was armed loses it. -/
def disarmAll (s : State) : State :=
  let s := (List.range 16).foldl (fun (s : State) i => s.stepCut i) s
  let s := { s with flt := { s.flt with test := none } }
  (List.range 52).foldl (fun (s : State) p =>
    if (s.core p).gate.armed then (s.leafMisses p).onCore p fun c => if c.gate.wh then Sys2Proof.Machine.withdraw c else disarm c else s) s

/-- GO with the counter, SUBSEC and frame count of a TIME_SET in TIME.SET. -/
def goFor (p : Proc) (s : State) : State :=
  let w (n : Nat) : Word := BitVec.ofNat 32 n
  (((s.setReg Reg.TIME_SET_NS32 (w p.setNs)).setReg Reg.TIME_SET_SUBSEC (w p.setSub)).setReg Reg.TIME_SET_SFN (w p.setSfn)).writeGo

/-- R of a TIME_SET, on the stepped time where its GO was taken (R622). -/
def stepR (p : Proc) (s : State) : Nat :=
  let base := if s.time.goPend then s.time.loadGo p.setNs p.setSub p.setSfn else s.time
  base.boundary p.mu (applyNs 0 + s.leadNs) % 2 ^ 32

/-- The answer of the TIME_SET at the server, where one waits there. -/
def answerTimeSet (ok : Bool) (bs : List Byte) (s : State) : State :=
  if s.wq.head? = some 0 ∧ s.par 0 0 1 = 0x58 then s.reply 0 (if ok then rcOk else rcStepRefused) bs else s

/-- The TIME_SET of an apply phase: gates disarmed, GO, and R on the stepped time; its answer (12 R455, R456). -/
def stepTime (p : Proc) (s : State) : State :=
  let s := s.disarmAll.goFor p
  let r := s.stepR p
  let q : Proc := { p with phase := 2, r := r }
  let t := { s with func := { s.func with proc := some q } }.startUnits p.mask
  t.answerTimeSet s.time.goPend (leBytes 4 p.s ++ leBytes 4 r)

/-- APPLY_PHASE: `bad` are the domains that miss power-good. A FUNC_STOP ends here, with no setting applied (assumption
32). -/
def atApply (bad : List Nat) (s : State) : State :=
  match s.func.proc with
  | some p =>
    if p.phase ≠ 1 || !s.reached p.ap then s
    else
      let s := s.stopUnits p.mask
      if p.kind = 1 then
        ((s.markDying p.mask).idleDomains) |> fun s => { s with func := { s.func with proc := none } }
      else if p.kind = 3 then s.stepTime p
      else
        let s := { s with func := { s.func with proc := some { p with phase := 2 } } }
        ((((s.wakeDomains p.mask bad).applyRecords p.mask).applyLevel).startUnits p.mask).idleDomains
  | none => s

/-! ## RESTART_BOUNDARY (R622) -/

/-- At R the functions run. -/
def atRestart (s : State) : State :=
  match s.func.proc with
  | some p =>
    if p.phase ≠ 2 || !s.reached p.r then s
    else { s with func := { s.func with proc := none, started := s.func.started ||| p.mask } }
  | none => s

end State

/-! ## The commands -/

/-- FUNC_START (16 R619, R623, R626). -/
def execFuncStart (m : Fin 9) (s : State) : Host.Outcome State Fault Refusal := s.run (State.serve m.val 0x20 State.cmdFuncStart)
/-- FUNC_STOP (16 R624). -/
def execFuncStop (m : Fin 9) (s : State) : Host.Outcome State Fault Refusal := s.run (State.serve m.val 0x21 State.cmdFuncStop)
/-- FUNC_CHANGE (16 R623). -/
def execFuncChange (m : Fin 9) (s : State) : Host.Outcome State Fault Refusal := s.run (State.serve m.val 0x22 State.cmdFuncChange)
/-- TIME_SET (12 R456). -/
def execTimeSet (m : Fin 9) (s : State) : Host.Outcome State Fault Refusal := s.run (State.serve m.val 0x58 State.cmdTimeSet)
/-- CHECK_LEVEL (15 R569). -/
def execCheckLevel (m : Fin 9) (s : State) : Host.Outcome State Fault Refusal := s.run (State.serve m.val 0x4A State.cmdCheckLevel)
/-- STOP_BOUNDARY (16 R620). -/
def execStopBoundary (s : State) : Host.Outcome State Fault Refusal := s.run State.atStop
/-- APPLY_PHASE (16 R621). -/
def execApplyPhase (badDomains : List (Fin 65)) (s : State) : Host.Outcome State Fault Refusal :=
  s.run (State.atApply (badDomains.map (·.val)))
/-- RESTART_BOUNDARY (16 R622). -/
def execRestartBoundary (s : State) : Host.Outcome State Fault Refusal := s.run State.atRestart

end Sys2Proof.Machine
end

