-- ==== Sys2Proof/Machine/FenceCmds.lean ====
section
/-! DEFINITION. FENCE, UNFENCE and remaps (15 R563 to R568), and basin resets (13 R486, R513 to R516). -/
namespace Sys2Proof.Machine

/-- The count of units of a FENCE kind. -/
def fenceUnits (kind : Nat) : Nat :=
  if kind = 0 then 52 else if kind = 1 then 24 else if kind = 2 ∨ kind = 4 then 8 else if kind = 3 ∨ kind = 5 then 4 else 0

namespace State

/-! ## FENCE and UNFENCE (R568) -/

/-- The unit exists on this part. -/
def unitExists (s : State) (kind num : Nat) : Bool :=
  decide (num < fenceUnits kind) && !(kind == 0 && s.fuses.disabled.any fun p => p.val == num)

/-- The unit is out of service already. -/
def outOfService (s : State) (kind num : Nat) : Bool :=
  s.fence kind num != 0 || (kind == 0 && s.coreFenced num) || (decide (kind = 1) && s.fence 5 (num / 6) != 0)
    || (decide (kind = 2) && s.fence 5 (num / 2) != 0) || (decide (kind = 3) && s.fence 5 num != 0)

/-- FENCE: the new physical core of a leaf whose remap begins, 0xFF where there is none; NO_SPARE where no spare takes the
unit's place. -/
def cmdFence (s : State) : Reply :=
  let kind := s.par 0 4 1
  let num := s.par 0 5 2
  if !s.unitExists kind num then s.no rcBadParam
  else if s.outOfService kind num then s.no rcState
  else
    let spare := if kind = 0 then (s.leafNumber num).bind s.spareFor else none
    let t := s.fenceUnit kind num 2
    if kind = 0 then match spare with
      | some x => t.ok [BitVec.ofNat 8 x.2]
      | none => if (s.leafNumber num).isSome then (t, some (rcNoSpare, [0xFF])) else t.ok [0xFF]
    else (t, some (rcNoSpare, [0xFF]))

/-- Sets bits of WEIR.ENGINE_EN of quad `q`. -/
def enableUnits (q mask : Nat) (s : State) : State :=
  s.setReg (Reg.WEIR_ENGINE_EN q) (s.reg (Reg.WEIR_ENGINE_EN q) ||| BitVec.ofNat 32 mask)

/-- A core that is in service again: halted where its domain is on. -/
def unfreeze (p : Nat) (s : State) : State :=
  if s.domOn p && !s.coreFenced p then
    s.onCore p fun c => { c with run := .halted .reset, gate := Core.reset.gate, delay := 0, target := none, reps := [], stall := 0 }
  else s

/-- The logical number that a core returns under (R568; DEDUCED, assumption 33): the lowest vacated number of its cluster
other than the one it leaves. -/
def vacant (s : State) (p : Nat) : Option Nat :=
  let per := s.enabled / 4
  let old := s.logOf p
  (List.range per).map (fun i => clusterOf p * per + i) |>.find? fun k => (s.physOf k).isNone && old != some k

/-- A logical number moves to a physical core; 255 is none. -/
def setMap (k p : Nat) (s : State) : State := { s with l2p := tput (fun _ => 255) s.l2p k p }

/-- UNFENCE of a core: a spare under another logical number. -/
def unfenceCore (p : Nat) (s : State) : State :=
  let new := s.vacant p
  let s := match s.logOf p with
    | some k => s.setMap k 255
    | none => s
  let s := match new with
    | some k => s.setMap k p
    | none => s
  s.unfreeze p

/-- UNFENCE. -/
def cmdUnfence (s : State) : Reply :=
  let kind := s.par 0 4 1
  let num := s.par 0 5 2
  if !s.unitExists kind num then s.no rcBadParam
  else if s.fence kind num = 1 then s.no rcFencedByFault
  else if s.fence kind num = 0 ∨ (kind = 0 ∧ s.flt.remaps.any fun r => r.phys == num) then s.no rcState
  else
    let t := { s with fences := tdel s.fences (kind * 64 + num) }
    match kind with
    | 0 => (t.unfenceCore num).ok []
    | 1 => ((t.enableUnits (num / 6) (2 ^ (num % 6))).assignEngines (num / 6)).ok []
    | 2 => (t.enableUnits (num / 2) (2 ^ (6 + num % 2))).ok []
    | 3 => (t.enableUnits num 256).ok []
    | 4 => t.ok []
    | _ =>
      let off (k n : Nat) : Bool := t.fence k n != 0
      let mask := maskOf (fun e => !off 1 (6 * num + e)) 6 + maskOf (fun e => !off 2 (2 * num + e)) 2 * 64 + (if off 3 num then 0 else 256)
      let t := (t.enableUnits num mask).assignEngines num
      ((List.range 13).foldl (fun (s : State) i => s.unfreeze (13 * num + i)) t).ok []

/-! ## REMAP (R564 to R567) -/

/-- The re-entry set of logical core `k` at bundle `b`, from the copies in DRAM that the flow image keeps. -/
def reentrySet (k b : Nat) (s : State) : State × List LiveData :=
  (((s.cheapAt k b).map (·.reentry)).getD []).foldl (fun (a : State × List LiveData) e =>
    let r := readG reqWellhead 0 (rangeSize e.1) a.1 e.2 (rangeSize e.1)
    (r.1, a.2 ++ [rangeData r.2.1 15 e.1])) (s, [])

/-- The spare is stopped, scrubbed and written: instruction memory, then the re-entry set of the cheap point at bundle `b`. -/
def prepareSpare (q k b : Nat) (s : State) : State :=
  let s := s.bkw.regions.foldl (fun (s : State) r => if r.2.window == some q then s.stepCut r.1 else s) s
  let s := s.testCut q
  let s := if s.domOn q then s else (s.powerUp q).setVolts q s.fuses.vMax
  let c := scrubEnd { s.core q with run := .halted .ctrl, pass := none, eddy := none, ldprog := [], flight := [] }
  let c := match s.coreImage k with
    | some i => loadCore { i with init := [] } c
    | none => c
  let r := (s.setCore q c).reentrySet k b
  r.1.onCore q fun c => r.2.foldl restoreLive c

/-- The job whose armed leaf core `q` holds now. -/
def armedJob (s : State) (q : Nat) : Option Job :=
  s.sched.jobs.find? fun j => j.st != .done && j.leaves.any fun l => l.1 == q && l.2 == 0

/-- Leaves of jobs, and spill slots, of core `p` move to core `q`: armed leaves of the launch given, and spilled ones; other
armed leaves miss, and the launch that the gate of `p` still held is recorded as missed (01 R27). -/
def moveLeaves (p q : Nat) (launch : Option (Word × Fin 4096)) (s : State) : State :=
  let hit (j : Job) : Bool := match launch with
    | some l => j.launch == l.1.toNat && !j.preempted && j.st != .done
    | none => false
  let move (j : Job) : Job :=
    { j with leaves := j.leaves.map fun l =>
        if l.1 == p && ((l.2 == 0 && hit j) || (l.2 == 1 && (tfind s.sched.spills p).isSome)) then (q, l.2) else l }
  let s := match tfind s.sched.spills p with
    | some x => { s with sched := { s.sched with spills := tset (tdel s.sched.spills p) q x } }
    | none => s
  let s := (s.setJobs (s.sched.jobs.map move)).leafMisses p
  if (s.core p).gate.armed && (launch.isNone || (s.armedJob q).isNone) then (s.catchPhys Ev.CATCHFW_LAUNCH_MISSED q).onCore p disarm else s

/-- The spare's gate is armed at the catchment's next launch, at least 2,000 ns ahead, at a cheap point; with the job's
registers where the launch is an armed job's. -/
def armSpare (q k : Nat) (launch : Option (Word × Fin 4096)) (s : State) : State :=
  match launch with
  | none => s
  | some (t, tgt) =>
    if s.nsAhead t.toNat < 2000 ∨ !(bundleOf ((s.core q).bundle tgt.val)).cp then s
    else match s.armedJob q with
      | some j =>
        match s.jobRec j.rec_ with
        | some r =>
          let rank := ((s.catchment r.catch_).bind fun c => s.rankIn c k).getD 0xFFF
          (s.armLeaf r { j with launch := t.toNat } q rank).onCore q (armWellhead s.ns32 t tgt.val false)
        | none => s
      | none => s.onCore q (armWellhead s.ns32 t tgt.val false)

/-- REMAP: the first remap that waits, where it is that of core `p`. -/
def remapCore (p : Nat) (launch : Option (Word × Fin 4096)) (s : State) : State :=
  match s.flt.remaps with
  | [] => s
  | r :: rest =>
    if r.phys ≠ p then s
    else
      let s := { s with flt := { s.flt with remaps := rest } }
      match s.spareFor r.logical with
      | none => s.noSpare 0 p 1
      | some (j, q) =>
        let s := s.prepareSpare q r.logical (match launch with
          | some l => l.2.val
          | none => (s.core p).pc)
        let s := (s.setMap r.logical q).setMap j 255
        let s := { s with flt := { s.flt with taken := s.flt.taken ++ [q] } }
        let s := (s.onPwr fun x => { x with dying := (x.dying ++ [p]).eraseDups }).moveLeaves p q launch
        let s := s.armSpare q r.logical launch
        let s := s.logFence 0 p r.logical p q
        let s := (s.count Reg.FAULT_REMAP_CNT 1).event Reg.FAULT_STATUS Ev.FAULT_REMAP
        s.noticeEvent rcOk 0 p r.logical q

/-! ## Basin resets (13 R513 to R516) -/

/-- Posted entries of a basin end with BASIN_RESET: codewords and transport blocks by their descriptors, job records under
the number they take (R513, R525). -/
def dropPosted (b : Nat) (s : State) : State :=
  let x := s.basin b
  let s := s.setBasin b { x with f0 := [], f1 := [], f2 := [] }
  let s := x.f0.foldl (fun (s : State) e =>
    let d := dlDescOf e
    s.complete b (completionBytes 1 5 d.tag d.slot [] 0 b)) s
  let s := x.f1.foldl (fun (s : State) e =>
    let d := decDescOf e
    s.complete b (completionBytes 2 5 d.tag d.slot [] 0 b)) s
  x.f2.foldl (fun (s : State) _ =>
    let n := s.takeNumber b
    n.2.jobDone b n.1 jobReset) s

/-- A job of a basin that is reset: its record ends, its gates are withdrawn, and it completes with BASIN_RESET (14 R529). -/
def resetJob (j : Job) (s : State) : State :=
  let s := ((s.disarmJob j).endRecord j.rec_).dropJob j
  let sp := j.leaves.foldl (fun (t : Tab SpillSlot) l => if j.preempted || l.2 == 1 then tdel t l.1 else t) s.sched.spills
  { s with sched := { s.sched with spills := sp } }.jobDone j.basin j.num jobReset

/-- Every core whose CORE.BASIN names the basin stops as at an abandoning gate, and halts (R513). -/
def haltBasin (b : Nat) (s : State) : State :=
  (List.range 52).foldl (fun (s : State) p =>
    let c := s.core p
    let live := c.run == .running || c.run == .waiting || c.pass.isSome || c.eddy.isSome || c.gate.armed
    if bits (c.reg cBASIN).toNat 3 0 != b + 8 || !live then s
    else
      let f := s.free
      let s := { f.2 with freeCtr := f.2.freeCtr + 2 }
      s.setCore p { disarm (abandonAll f.1 c) with run := .halted .basinReset }) s

/-- Sluice transfers tagged with the basin end at their next burst boundary (R514). -/
def dropXfers (b : Nat) (s : State) : State :=
  let f (x : Xfer) : Xfer := if x.basin = b + 8 then { x with dropped := true } else x
  (List.range 52).foldl (fun (s : State) p =>
    if (s.core p).si.isEmpty && (s.core p).so.isEmpty then s
    else s.onCore p fun c => { c with si := c.si.map f, so := c.so.map f }) s

/-- A basin reset begins; `cmd` is the BASIN_RESET command that waits for it: mailbox and SEQ (R513, R514, R516). -/
def startBasinReset (b : Nat) (cmd : Option (Nat × Nat)) (s : State) : State :=
  if (s.basin b).st = 2 then s
  else
    let s := ((s.fetchRing b 0).fetchRing b 1).fetchRing b 2
    let s := s.setBasin b { s.basin b with st := 2, resetAt := s.time.ticks, resetCmd := cmd }
    let s := (s.sched.jobs.filter fun j => j.basin == b).foldl (fun (s : State) j => s.resetJob j) s
    let recs := s.sched.recs.map fun (r : Nat × JobRec) => (r.1, if r.2.basin = b then { r.2 with ended := true } else r.2)
    let s := { s with sched := { s.sched with recs := recs } }.haltBasin b
    let s := ((s.dropPosted b).txBasinReset b).dropCaptures b
    let s := (List.range 4).foldl (fun (s : State) q => s.weirBasinDrop q b) s
    ((s.dropXfers b).fabricBasinReset b).dropAtu b fun _ => true

/-- Units whose tag count for the basin is nonzero: cores, Weir engines and ports, by FENCE kind and number (R515). -/
def taggedUnits (s : State) (b : Nat) : List (Nat × Nat) :=
  let cores := (List.range 52).filter fun p => ((s.core p).si ++ (s.core p).so).any fun x => x.basin == b + 8
  let engines := (List.range 24).filter fun e =>
    match tfind (s.quad (e / 6)).eng (e % 6) with
    | some k => (s.quad (e / 6)).tbs.any fun t => t.basin == b && t.id == k / 256
    | none => false
  let ports := (List.range 8).filter fun k => s.trib.dest.any fun d => d.2.out.any fun o => o.port == k && o.f.basin.toNat == b + 8
  cores.map (fun p => (0, p)) ++ engines.map (fun e => (1, e)) ++ ports.map (fun k => (4, k))

/-- A basin reset ends: its counts are zero, or 200 µs (49,152 ticks) have passed and the units still busy are fenced (R513, R515);
its duration counts whole ticks of 3,125 / 768 ns. -/
def endBasinReset (b : Nat) (s : State) : State :=
  let x := s.basin b
  let ns := (s.time.ticks - x.resetAt) * 3125 / 768 % 2 ^ 18
  let idle := s.tagCnt b == 0
  if x.st ≠ 2 || !(idle || decide (x.resetAt + 49152 ≤ s.time.ticks)) then s
  else
    let us := if idle then [] else s.taggedUnits b
    let s := us.foldl (fun (s : State) u => s.fenceUnit u.1 u.2 1) s
    let s := if us.isEmpty then s else s.event Reg.HOST_STATUS Ev.HOST_BASIN_FENCED
    let held := (s.basin b).held
    let s := s.setBasin b { s.basin b with st := if s.basinOn b then 1 else 0, held := [] }
    let s := held.foldl (fun (s : State) e => s.complete b e) s
    let y := s.basin b
    let s := s.setBasin b { y with
      sq0 := Ring.reset, sq1 := Ring.reset, sq2 := Ring.reset, cq := Ring.reset, shadow := Ring.reset, shadowDue := false
      resetCmd := none }
    let s := (s.setReg Reg.HOST_RESET_TIME (BitVec.ofNat 32 ns)).event Reg.HOST_STATUS Ev.HOST_BASIN_RESET_DONE
    let cmd := x.resetCmd.getD (0, 0)
    let s := s.adminEvent 3 rcOk cmd.2 cmd.1 (Config.eventDetail 3 [b, us.length])
    match x.resetCmd with
    | some m => if s.wq.head? = some m.1 ∧ s.par m.1 0 1 = 0x29 then s.reply m.1 rcOk (leBytes 4 ns ++ leBytes 2 us.length) else s
    | none => s

/-- BASIN_RESET: its response waits for the end of the reset. -/
def cmdBasinReset (m : Nat) (s : State) : Reply :=
  let b := s.par 0 4 1
  if 8 ≤ b then s.no rcBadParam
  else if (s.basin b).st = 2 then (if (s.basin b).resetCmd.isSome then (s, none) else s.no rcState)
  else (s.startBasinReset b (some (m, fieldAt (s.mailbox m).latched 2 2)), none)

end State

/-- FENCE (15 R568). -/
def execFence (m : Fin 9) (s : State) : Host.Outcome State Fault Refusal := s.run (State.serve m.val 0x48 State.cmdFence)
/-- UNFENCE (15 R568). -/
def execUnfence (m : Fin 9) (s : State) : Host.Outcome State Fault Refusal := s.run (State.serve m.val 0x49 State.cmdUnfence)
/-- REMAP (15 R565). -/
def execRemap (p : Fin 52) (launch : Option (Word × Fin 4096)) (s : State) : Host.Outcome State Fault Refusal :=
  s.run (State.remapCore p.val launch)
/-- BASIN_RESET (13 R513). -/
def execBasinReset (m : Fin 9) (s : State) : Host.Outcome State Fault Refusal :=
  s.run (State.serve m.val 0x29 (State.cmdBasinReset m.val))
/-- BASIN_RESET_END (13 R515). -/
def execBasinResetEnd (b : Fin 8) (s : State) : Host.Outcome State Fault Refusal := s.run (State.endBasinReset b.val)

end Sys2Proof.Machine
end

