-- ==== Sys2Proof/Machine/Reset.lean ====
section
/-! DEFINITION. Resets and boot (16 R610 to R619, 13 R486), straps and rails (18 R661, R667, R668), and the PCIe link
(13 R481). -/
namespace Sys2Proof.Machine

/-- PWR.BOOT (16, table). -/
def bootWord (recovery : Bool) (rollback : Nat) (slotB : Bool) (step : Nat) : Word :=
  BitVec.ofNat 32 ((if recovery then 2 ^ 31 else 0) + rollback * 2 ^ 16 + (if slotB then 256 else 0) + step)

/-- Channels that the DRAM subsystem uses for `n` working pairs: the largest power of two not above 2 n (07 R249). -/
def dramChannels (n : Nat) : Nat := if 8 ≤ n then 16 else if 4 ≤ n then 8 else if 2 ≤ n then 4 else if 1 ≤ n then 2 else 0

/-- CHANNELS of DRAM.CFG for a channel count; 0 for none. -/
def channelCode (c : Nat) : Nat := if c = 16 then 3 else if c = 8 then 2 else if c = 4 then 1 else 0

/-- Offsets of the blocks that the always-on domain holds: TIME, FAULT and PWR (16 R586). -/
def alwaysOn (a : Nat) : Bool := decide (0x1000 ≤ a ∧ a < 0x4000)

namespace State

/-! ## What a reset leaves (R610) -/

/-- Fuse values shown in PWR.BOOT and PWR.THERM_CFG, and PWR.RESET_CAUSE. -/
def showFuses (kind : Nat) (s : State) : State :=
  let s := if s.fuses.tempI then s.setReg Reg.PWR_THERM_CFG 0x0078645F else s
  (s.setReg Reg.PWR_BOOT (bootWord false s.fuses.rollback.val false 0)).setReg Reg.PWR_RESET_CAUSE (BitVec.ofNat 32 kind)

/-- Everything reset, the always-on domain included. What is outside it stays: fuses, the flash, the TAP, the level of
PERST_N, host memory, and the model's own queue and counter. -/
def resetAll (kind : Nat) (s : State) : State :=
  let boot := { Boot.reset with slotA := s.boot.slotA, slotB := s.boot.slotB, preferB := s.boot.preferB, perst := s.boot.perst }
  { State.reset with
    pending := s.pending, freeCtr := s.freeCtr, fuses := s.fuses, boot := boot, host := s.host
    pins := { Pins.reset with tap := s.pins.tap, boundary := s.pins.boundary, preload := s.pins.preload }
    mode := .porLow }.showFuses kind

/-- The register space after a warm reset: TIME, FAULT, PWR, the fault log and HOST.LINK are kept. -/
def warmCtl (c : Ctl) : Ctl :=
  { Ctl.reset with
    regs := c.regs.filter fun e => alwaysOn e.1 || e.1 == Reg.HOST_LINK
    eff := c.eff.filter fun e => alwaysOn e.1
    path := c.path.filter fun e => alwaysOn (e.1 % 2 ^ 24)
    locks := c.locks.filter alwaysOn
    lockAt := c.lockAt.filter fun e => alwaysOn e.1
    bank := c.bank.filter fun e => e.1 / 2 ^ 20 == bankTemp
    log := c.log
    copied := c.copied
    bars := c.bars }

/-- PWR.RESET_CAUSE after one more warm reset. -/
def warmCause (w : Word) : Word := BitVec.ofNat 32 (min 255 (bits w.toNat 15 8 + 1) * 256 + 2)

/-- What a warm reset leaves: the always-on domain, the PCIe link and configuration space (R610); a port whose link ends
takes the recovered clock and the PTP source with it (12 R464, R470). Wellhead's own records go as it reboots
(assumption 34). -/
def warmBase (s : State) : State :=
  let s := (List.range 8).foldl (fun (s : State) k => s.linkLoss k) s
  let boot := { s.boot with staged := none, resetReq := none, watchdog := false, runB := false }
  let cause := warmCause (s.reg Reg.PWR_RESET_CAUSE)
  let s : State := { State.reset with
    pending := s.pending, freeCtr := s.freeCtr, fuses := s.fuses, boot := boot, host := s.host, outs := s.outs
    mode := .running, time := s.time, smb := s.smb, ctl := warmCtl s.ctl
    pwr := { Pwr.reset with
      mv := s.pwr.mv.filter fun e => decide (65 ≤ e.1)
      bubble := s.pwr.bubble, diverge := s.pwr.diverge, tripRun := s.pwr.tripRun
      warnArmed := s.pwr.warnArmed, hotArmed := s.pwr.hotArmed }
    pins := { s.pins with agc := [] } }
  ((s.setReg Reg.PWR_RESET_CAUSE cause).setReg Reg.PWR_ENVELOPE 0).setReg Reg.FAULT_CHECK 3

/-! ## The steps of boot (R612) -/

/-- Step 0: the straps are sampled (18 R667, R668; 13 R519). -/
def bootStraps (f : BootFacts) (s : State) : State :=
  let smb : Smb := if f.smbFixed then ⟨BitVec.ofNat 7 (0x68 + f.smbAddr.val), false, true, true, false⟩ else ⟨0, false, false, false, false⟩
  { s with boot := { s.boot with facts := f }, smb := smb }

/-- A domain is switched on with its output at the fused maximum; one that does not signal power-good fails (R588, R589). -/
def bootDomain (d : Nat) (s : State) : State :=
  let s := (s.powerUp d).setVolts d s.fuses.vMax
  if s.boot.facts.badDomains.any fun x => x.val == d then s.domainFail d else s

/-- Step 1: the host domain, where HOST_EN is set. -/
def bootHost (s : State) : State :=
  if s.boot.facts.hostEn then { s with boot := { s.boot with hostUp := true } }.bootDomain 64 else s

/-- Step 2: the slot that boots, none for recovery (R614, R616). -/
def bootSlot (s : State) : Option Bool :=
  if s.boot.facts.recovery then none
  else if s.slotValid (s.slotOf s.boot.preferB) then some s.boot.preferB
  else if s.slotValid (s.slotOf (!s.boot.preferB)) then some (!s.boot.preferB)
  else none

/-- Trains the channels that DRAM.CFG names: pairs that fail are excluded, and C is lowered (07 R246, R247, R249, R273). -/
def trainDram (bad : List Nat) (s : State) : State :=
  let cfg := (s.reg Reg.DRAM_CFG).toNat
  let pairs := List.range (2 ^ bits cfg 1 0)
  let good := pairs.filter fun q => !(bad.contains q)
  let c := dramChannels good.length
  let s := { s with dramOn := decide (c ≠ 0), dramPairs := good.take (c / 2) }
  let s := s.setReg Reg.DRAM_CFG (setBits (s.reg Reg.DRAM_CFG) 1 0 (channelCode c))
  let s := s.setReg Reg.DRAM_TOP (BitVec.ofNat 32 (c * (512 * 2 ^ bits cfg 6 5) * 15 / 16))
  if good.length < pairs.length then s.event Reg.DRAM_STATUS Ev.DRAM_PAIR_EXCLUDED else s

/-- Step 3: the DRAM domain on, DRAM.CFG set from the straps, and the channels trained. -/
def bootDram (s : State) : State :=
  let s := s.bootDomain 63
  let f := s.boot.facts
  (s.setReg Reg.DRAM_CFG (BitVec.ofNat 32 (f.dramDen.val * 32 + f.dramCh.val))).trainDram (f.badPairs.map (·.val))

/-- The enabled cores of cluster `c` in ascending physical order. -/
def coresOf (s : State) (c : Nat) : List Nat :=
  ((List.range 13).map fun i => 13 * c + i).filter fun p => !(s.fuses.disabled.any fun x => x.val == p)

/-- The logical-to-physical map of a device with no fence (00 R3): cluster by cluster, in ascending physical order
(assumption 34). -/
def freshMap (s : State) : Tab Nat :=
  let all := (List.range 4).flatMap fun c => s.coresOf c
  all.zipIdx.map fun (e : Nat × Nat) => (e.2, e.1)

/-- Step 4: core, pool and Weir domains on, cores scrubbed; no front-end direction and no port is configured. -/
def bootCores (s : State) : State :=
  let s := { s with l2p := s.freshMap }
  let on := ((List.range 4).flatMap fun c => [52 + c, 56 + c]) ++ (List.range 4).flatMap fun c => s.coresOf c
  on.foldl (fun (s : State) d => s.bootDomain d) s

/-- Enables the interrupts of the recoverable events of a status register at register `a`, with its enable register at
`e`. -/
def enableRecov (a e : Nat) (s : State) : State :=
  match rowAt a with
  | some r => s.setReg e (s.reg e ||| BitVec.ofNat 32 r.recov)
  | none => s

/-- The recoverable bits of CORE.FAULTWORD. -/
def coreRecov : Word := match Blk.coreB.row 0 with
  | some r => BitVec.ofNat 32 r.recov
  | none => 0

/-- Step 5: interrupt enables (15 R558). -/
def bootEnables (s : State) : State :=
  let four := (List.range 4).flatMap fun c =>
    [(Reg.POOL_STATUS c, Reg.POOL_IRQ_EN c), (Reg.POOL_FAULTWORD c, Reg.POOL_FW_IRQ_EN c), (Reg.WEIR_STATUS c, Reg.WEIR_IRQ_EN c),
     (Reg.RXP_STATUS c, Reg.RXP_IRQ_EN c)]
  let all := four ++ [(Reg.PGRP_FAULTWORD 0, Reg.PGRP_IRQ_EN 0), (Reg.PGRP_FAULTWORD 1, Reg.PGRP_IRQ_EN 1),
    (Reg.DRAM_STATUS, Reg.DRAM_IRQ_EN), (Reg.TXP_STATUS, Reg.TXP_IRQ_EN), (Reg.DFE_STATUS, Reg.DFE_IRQ_EN),
    (Reg.TRIB_STATUS, Reg.TRIB_IRQ_EN), (Reg.FAULT_STATUS, Reg.FAULT_IRQ_EN)]
  let s := all.foldl (fun (s : State) x => s.enableRecov x.1 x.2) s
  (List.range 52).foldl (fun (s : State) p =>
    if s.domOn p then s.onCore p fun c => c.setReg cIRQ_EN (c.reg cIRQ_EN ||| coreRecov) else s) s

/-- Steps 3 to 6, of firmware in slot `b`; a DRAM domain that fails ends boot in the spillway state (R589). The fused
rollback level is raised as step 6 is reached (R615). -/
def bootRest (b : Bool) (s : State) : State :=
  let s := { s with boot := { s.boot with runB := b, watchdog := true } }.bootDram
  if s.mode == .spill then s
  else
    let s := s.bootCores.bootBudgets.bootEnables
    let lvl := match s.slotOf b with
      | some f => if s.fuses.rollback.val < f.rollback.val then f.rollback else s.fuses.rollback
      | none => s.fuses.rollback
    ({ s with fuses := { s.fuses with rollback := lvl } }.setReg Reg.PWR_BOOT (bootWord false lvl.val b 6)).settle

/-- Boot from step 2 on: a valid slot's firmware, else recovery (R614, R616). -/
def bootFrom2 (s : State) : State :=
  match s.bootSlot with
  | some b => s.bootRest b
  | none => { s with mode := .recovery }.setReg Reg.PWR_BOOT (bootWord true s.fuses.rollback.val false 1)

/-- Boot from step 1 on: every rail is in range, VDD0 and VDD1 at the boot voltage of 0.80 V (18 R659). -/
def bootFrom1 (s : State) : State :=
  let mv := tput (fun _ => 0) (tput (fun _ => 0) s.pwr.mv 65 8000) 66 8000
  { s with mode := .running, pwr := { s.pwr with mv := mv } }.bootHost.bootFrom2

/-! ## Host resets (13 R486, R610) -/

/-- A mailbox at its reset values, out of the server's queue. -/
def resetMailbox (m : Nat) (s : State) : State :=
  { s with mbx := tdel s.mbx m, wq := s.wq.filter (· ≠ m) }

/-- What a PF function-level reset does: a basin reset of every basin; every mailbox, doorbell and ring at its reset
value. -/
def resetPf (s : State) : State :=
  let s := (List.range 8).foldl (fun (s : State) b => s.startBasinReset b none) s
  let s := { s with basins := s.basins.map fun (b : Nat × Basin) => (b.1, { b.2 with resetCmd := none }) }
  { s with mbx := [], wq := [], aeq := Ring.reset, aeqShadow := Ring.reset, aeqDue := false, aeqLost := 0 }

/-- A function-level reset. -/
def flr (f : PFunc) (s : State) : State :=
  match f with
  | .pf => s.resetPf
  | .vf n => if n.val < s.boot.numVf then (s.startBasinReset n.val none).resetMailbox (n.val + 1) else s

/-- The host interface domain at its reset values: HOST registers, ATU, MSI-X, configuration space (R610; DEDUCED,
assumption 34). -/
def resetHost (s : State) : State :=
  let s := s.resetPf.resetRegs 0x5000 0x6000
  { s with
    atu := ⟨[], []⟩
    boot := { s.boot with numVf := 0 }
    ctl := { s.ctl with msix := [], msixAt := [], notifyDue := [], bars := [], path := tdel (tdel (tdel s.ctl.path Reg.HOST_TAG_SEL)
      (2 ^ 24 + Reg.HOST_TAG_SEL)) (2 * 2 ^ 24 + Reg.HOST_TAG_SEL) } }

/-- PERST_N's level. -/
def setPerst (low : Bool) (s : State) : State := { s with boot := { s.boot with perst := low } }

/-! ## The PCIe link (13 R481) -/

/-- HOST.LINK with the link up. -/
def linkWord (width speed numVf : Nat) : Word := BitVec.ofNat 32 (numVf * 2 ^ 24 + 2 ^ 16 + width * 16 + speed)

/-- The link trains: the host domain is up and out of reset. -/
def pcieTrain (width speed numVf : Nat) (bars : List (Nat × Nat)) (s : State) : State :=
  if s.boot.hostUp && !s.boot.perst && [1, 2, 4, 8].contains width && speed != 0 then
    { s with boot := { s.boot with numVf := numVf }, ctl := { s.ctl with bars := bars } }.setReg Reg.HOST_LINK
      (linkWord width speed numVf)
  else s

/-- The link goes down. -/
def pcieDrop (s : State) : State :=
  if s.pcieUp then (s.setReg Reg.HOST_LINK (BitVec.ofNat 32 (s.boot.numVf * 2 ^ 24))).event Reg.HOST_STATUS Ev.HOST_LINK_DOWN else s

end State

/-! ## The commands -/

/-- POWER_ON (R610): the always-on supply rises; PORST_N is low (18 R660). -/
def execPowerOn (s : State) : Host.Outcome State Fault Refusal :=
  s.runAny fun s => if s.mode == .off then s.resetAll 0 else s
/-- AON_POWER_LOSS (15 R581): all state of the device is lost, and the spillway state ends. -/
def execAonPowerLoss (s : State) : Host.Outcome State Fault Refusal :=
  s.runAny fun s => { s.resetAll 0 with mode := .off, pins := Pins.reset }
/-- PORST_N_ASSERT (R610; 18 R671, R673); ignored in the spillway state (15 R581). -/
def execPorstNAssert (s : State) : Host.Outcome State Fault Refusal :=
  s.runAny fun s => if s.mode == .off || s.mode == .porLow || s.mode == .spill then s else s.resetAll 1
/-- PORST_N_RELEASE (R612, R616; 18 R661): boot, or held until every rail is in range. -/
def execPorstNRelease (facts : BootFacts) (s : State) : Host.Outcome State Fault Refusal :=
  s.runAny fun s =>
    if s.mode == .porLow then
      let s := s.bootStraps facts
      if facts.railsOk then s.bootFrom1 else { s with mode := .relHeld }
    else s
/-- RAILS_IN_RANGE (18 R661). -/
def execRailsInRange (s : State) : Host.Outcome State Fault Refusal :=
  s.runAny fun s => if s.mode == .relHeld then s.bootFrom1 else s
/-- WARM_RESET (R610, R611): as DEVICE_RESET asked; the straps keep their sampled values (18 R667). -/
def execWarmReset (facts : BootFacts) (s : State) : Host.Outcome State Fault Refusal :=
  s.runAny fun s =>
    if s.awake && s.boot.resetReq == some 1 then
      let f := { s.boot.facts with badPairs := facts.badPairs, badDomains := facts.badDomains }
      let s := s.warmBase
      let s := { s with boot := { s.boot with facts := f } }
      (if s.boot.hostUp then s.setDom 64 true else s).bootFrom2
    else s
/-- COLD_RESET (R610, R611): as DEVICE_RESET asked. -/
def execColdReset (facts : BootFacts) (s : State) : Host.Outcome State Fault Refusal :=
  s.runAny fun s =>
    if s.awake && s.boot.resetReq == some 2 then ((s.resetAll 3).bootStraps facts).bootFrom1 else s
/-- PERST_N (R610): a host reset; ignored in the spillway state (15 R581). -/
def execPerstN (s : State) : Host.Outcome State Fault Refusal :=
  s.runAny fun s => (if s.awake && !s.boot.perst then s.resetHost.settle else s).setPerst true
/-- PERST_N_RELEASE (R610): the host interface domain leaves reset. -/
def execPerstNRelease (s : State) : Host.Outcome State Fault Refusal := s.runAny (State.setPerst false)
/-- FUNCTION_LEVEL_RESET (13 R486). -/
def execFunctionLevelReset (f : PFunc) (s : State) : Host.Outcome State Fault Refusal := s.run (State.flr f)
/-- PCIE_LINK_DOWN (13 R481; HOST.STATUS). -/
def execPcieLinkDown (s : State) : Host.Outcome State Fault Refusal := s.run State.pcieDrop
/-- PCIE_LINK_UP (13 R481; HOST.LINK). -/
def execPcieLinkUp (width : Fin 9) (speed : Fin 6) (numVf : Fin 9) (bars : List (Nat × Nat)) (s : State) :
    Host.Outcome State Fault Refusal := s.run (State.pcieTrain width.val speed.val numVf.val bars)

end Sys2Proof.Machine
end

