-- ==== Sys2Proof/Machine/PinCmds.lean ====
section
/-! DEFINITION. The test access port (18 R669 to R671) and the SMBus target (13 R517 to R522, R580, R632). -/
namespace Sys2Proof.Machine

/-- The instruction of an 8-bit code (18 R669): every code without one is BYPASS. -/
def tapOfCode (code : Byte) : TapIns :=
  match code.toNat with
  | 0x00 => .extest
  | 0x01 => .idcode
  | 0x02 => .sample
  | 0x04 => .clamp
  | 0x05 => .highz
  | 0x08 => .extestPulse
  | 0x09 => .extestTrain
  | _ => .bypass

/-- The boundary cell of a pin (18 R672): of IEEE 1149.6 on the AC-coupled lanes, of IEEE 1149.1 on the DRAM pins, the AGC buses,
SYSREF and every LVCMOS and open-drain pin, observe-only on REFCLK. -/
inductive PinCell where
  | ac | dc | observe
  deriving DecidableEq, Repr

/-- The cell that covers a pin; none for the JTAG pins, PORST_N, PERST_N, the straps and the rail-sense pins (R672). The xSPI
pins, 1.8 V outputs and inputs of their own standard, count as LVCMOS (DEDUCED, assumption 90). -/
def pinCell : Pin → Option PinCell
  | .cpTx _ _ _ => some .ac
  | .cpRx _ _ _ => some .ac
  | .jrx _ _ => some .ac
  | .jtx _ _ => some .ac
  | .peTx _ _ => some .ac
  | .peRx _ _ => some .ac
  | .refclk _ => some .observe
  | .perstN => none
  | .porstN => none
  | .jtag _ => none
  | .strap _ => none
  | .sense _ _ => none
  | .sysref _ => some .dc
  | .agcD _ _ => some .dc
  | .agcA _ _ => some .dc
  | .agcStb _ => some .dc
  | .ddr _ _ => some .dc
  | .ddrReset _ => some .dc
  | .ddrZq _ => some .dc
  | .smbClk => some .dc
  | .smbDat => some .dc
  | .avsClk => some .dc
  | .avsMdata => some .dc
  | .avsSdata => some .dc
  | .uartTxd => some .dc
  | .uartRxd => some .dc
  | .gpio _ => some .dc
  | .ppsIn => some .dc
  | .ppsOut => some .dc
  | .synceOut => some .dc
  | .xspi _ => some .dc
  | .spillN => some .dc

/-- The device can drive the pin (R657). -/
def pinDrives : Pin → Bool
  | .cpRx _ _ _ => false
  | .jrx _ _ => false
  | .peRx _ _ => false
  | .sysref _ => false
  | .perstN => false
  | .ddrZq _ => false
  | .refclk _ => false
  | .porstN => false
  | .avsSdata => false
  | .uartRxd => false
  | .ppsIn => false
  | .jtag b => b.val == 3
  | .strap _ => false
  | _ => true

/-- A pin with a cell that drives. -/
def cellDrives (p : Pin) : Bool :=
  pinDrives p && match pinCell p with
    | some .observe => false
    | some _ => true
    | none => false

/-- What a pin holds (R673). -/
inductive PinLevel where
  /-- electrical idle; high impedance; high impedance with a weak pull-down; an open-drain pin released -/
  | idle | highZ | pullDown | released
  | level (v : Bool)
  /-- a level with the pulse or the train of IEEE 1149.6 -/
  | pulse (v : Bool)
  | train (v : Bool)
  /-- as the rules of the other chapters say -/
  | service
  | zeroCodes | linkIdle | linkKept | selfRefresh | lastWord
  /-- an input, or a state that the table does not give -/
  | open_
  deriving DecidableEq, Repr

/-- An instruction that acts on pins. -/
def TapIns.acts : TapIns → Bool
  | .extest => true
  | .clamp => true
  | .highz => true
  | .extestPulse => true
  | .extestTrain => true
  | _ => false

namespace State

/-- The TAP takes an instruction. -/
def tapIns (i : TapIns) (s : State) : State := { s with pins := { s.pins with tap := i } }

/-- The instruction in force: those that act on pins act as BYPASS while PORST_N is high (R671). -/
def tapNow (s : State) : TapIns := if s.pins.tap.acts && s.mode != .porLow then .bypass else s.pins.tap

/-- What a pin holds of itself in each phase (R673). While a release of PORST_N is held (R661) the pins stay as in reset
(DEDUCED, assumption 90). -/
def pinPlain (s : State) (p : Pin) : PinLevel :=
  let low := s.mode == .porLow || s.mode == .relHeld
  let gone := s.mode == .off
  let spilt := s.mode == .spill
  match p with
  | .jtx _ _ => if gone || low || !s.dfe.tx.on then .idle else if spilt then .zeroCodes else .service
  | .cpTx k _ _ => if gone || low || !s.portOn k.val then .idle else if spilt then .linkIdle else .service
  | .peTx _ _ => if gone || low || !s.boot.hostUp then .idle else if spilt then .linkKept else .service
  | .ddr _ _ => if gone then .highZ else if low then .open_ else if spilt then .selfRefresh else .service
  | .ddrReset _ => if gone then .highZ else if low then .level false else if spilt then .selfRefresh else .service
  | .agcD _ _ => if gone then .highZ else if low then .level false else if spilt then .lastWord else .service
  | .agcA _ _ => if gone then .highZ else if low then .level false else if spilt then .lastWord else .service
  | .agcStb _ => if gone then .highZ else if low || spilt then .level false else .service
  | .gpio _ => if gone || spilt then .highZ else if low then .pullDown else .service
  | .ppsOut => if gone then .highZ else if low then .level false else .level s.time.ppsOut
  | .synceOut => if gone then .highZ else if low || s.time.synceLow then .level false else .service
  | .xspi b => if gone then .highZ else if low then (if b.val = 11 then .level false else .open_) else if spilt then .idle else .service
  | .spillN => if s.pins.spillN then .released else .level false
  | p => if pinDrives p && !gone && !low then .service else .open_

/-- The level preloaded into a pin's cell. -/
def preloaded (s : State) (p : Pin) : Option Bool := (s.pins.preload.find? fun e => e.1 == p).map (·.2)

/-- What a pin holds: what the TAP's instruction drives from its cell, else what it holds of itself (R671, R672; IEEE 1149.1 and
1149.6: a pulse or train only on AC cells). -/
def pinLevel (s : State) (p : Pin) : PinLevel :=
  let put (f : Bool → PinLevel) : PinLevel := match s.preloaded p with
    | some v => f v
    | none => .open_
  if !cellDrives p then s.pinPlain p
  else match s.tapNow with
    | .extest => put .level
    | .clamp => put .level
    | .highz => .highZ
    | .extestPulse => put (if pinCell p == some .ac then .pulse else .level)
    | .extestTrain => put (if pinCell p == some .ac then .train else .level)
    | _ => s.pinPlain p

/-- A TAP operation: none without supply. -/
def runTap (f : State → State) (s : State) : Host.Outcome State Fault Refusal :=
  s.runAny fun s => if s.mode == .off then s else f s

/-- IDCODE (R670). -/
def jtagId (s : State) : Word :=
  BitVec.ofNat 32 ((s.fuses.stepMajor.val * 4 + s.fuses.stepMinor.val) * 2 ^ 28 + 0x4820 * 2 ^ 12 + Config.jtagMaker.toNat * 2 + 1)

/-! ## SMBus -/

/-- The UDID, byte 0 highest (13, table "UDID"). -/
def udid (s : State) : BitVec 128 :=
  Config.udidCaps s.smb.fixed ++ Config.udidRevision s.fuses.stepMajor.val s.fuses.stepMinor.val ++ Config.vendorId ++ (0x4820 : BitVec 16)
    ++ Config.udidInterface ++ Config.subsystemId ++ BitVec.ofNat 32 s.fuses.uid.toNat

/-- The bytes of the UDID in the order they are sent. -/
def udidBytes (s : State) : List Byte := (leBytes 16 s.udid.toNat).reverse

/-- Updates the SMBus target. -/
def onSmb (f : Smb → Smb) (s : State) : State := { s with smb := f s.smb }

/-- A command whose PEC fails is discarded and counted (R517). -/
def withPec (pecOk : Bool) (f : State → State) (s : State) : State :=
  if pecOk then f s else (s.count Reg.HOST_SMB_ERR_CNT 1).event Reg.HOST_STATUS Ev.HOST_SMB_PEC

/-- The device answers at an address: a valid one (R518, R519). -/
def smbAt (s : State) (a : BitVec 7) : Bool := s.smb.av && s.smb.addr == a

/-- A directed or general ARP command reaches the device. -/
def arpFor (s : State) (directed : Option (BitVec 7)) : Bool :=
  match directed with
  | some a => s.smbAt a
  | none => true

/-- A UDID that is sent: lost at the first bit where the device sends 1 and reads 0 (R520); a device that is resolved does
not answer a general one (assumption 35). -/
def sendUdid (directed : Option (BitVec 7)) (bus : BitVec 128) (s : State) : State :=
  match directed with
  | some a => if s.smbAt a then s.emit (.smb s.udidBytes) else s
  | none =>
    if s.smb.ar && !s.smb.udidPending then s
    else if s.udid &&& ~~~bus ≠ 0 then s.onSmb fun x => { x with udidPending := true }
    else (s.onSmb fun x => { x with udidPending := false }).emit (.smb s.udidBytes)

/-- What SMBus reads at a CSR offset: selectors as 0, latched halves as Wellhead's path last latched them (17 R632); in the
spillway state only TIME, FAULT and CHIP.IDENT (15 R580). The read latches nothing (assumption 35). -/
def smbRead (s : State) (off : Nat) : Word := s.wordAt (fun _ => 0) (s.pathLatch 0) off

/-- A read command: the device answers at its valid address. -/
def smbReply (bs : List Byte) (s : State) : State := if s.smb.av then s.emit (.smb bs) else s

end State

/-! ## The commands -/

/-- TAP_RESET (16 R610): the TAP controller alone; IDCODE is selected (assumption 35). -/
def execTapReset (s : State) : Host.Outcome State Fault Refusal := s.runTap (State.tapIns .idcode)
/-- EXTEST (18 R671). -/
def execExtest (s : State) : Host.Outcome State Fault Refusal := s.runTap (State.tapIns .extest)
/-- IDCODE (18 R670): the register is shifted out. -/
def execIdcode (s : State) : Host.Outcome State Fault Refusal := s.runTap fun s => (s.tapIns .idcode).emit (.tdo s.jtagId)
/-- SAMPLE/PRELOAD (18 R669, R672): the cells that cover a pin capture it, and those that drive take the data shifted in. -/
def execSamplePreload (pins data : List (Pin × Bool)) (s : State) : Host.Outcome State Fault Refusal :=
  s.runTap fun s =>
    let s := s.tapIns .sample
    { s with pins := { s.pins with
        boundary := pins.filter fun e => (pinCell e.1).isSome, preload := data.filter fun e => cellDrives e.1 } }
/-- CLAMP (18 R671). -/
def execClamp (s : State) : Host.Outcome State Fault Refusal := s.runTap (State.tapIns .clamp)
/-- HIGHZ (18 R671). -/
def execHighz (s : State) : Host.Outcome State Fault Refusal := s.runTap (State.tapIns .highz)
/-- EXTEST_PULSE (18 R671, R672). -/
def execExtestPulse (s : State) : Host.Outcome State Fault Refusal := s.runTap (State.tapIns .extestPulse)
/-- EXTEST_TRAIN (18 R671, R672). -/
def execExtestTrain (s : State) : Host.Outcome State Fault Refusal := s.runTap (State.tapIns .extestTrain)
/-- BYPASS (18 R669): code 0xFF, and every code that names no instruction; another code is that instruction's own command. -/
def execBypass (code : Byte) (s : State) : Host.Outcome State Fault Refusal :=
  s.runTap fun s => if tapOfCode code == .bypass then s.tapIns .bypass else s

/-- PREPARE_TO_ARP (13 R518): AR is cleared (assumption 35). -/
def execPrepareToArp (pecOk : Bool) (s : State) : Host.Outcome State Fault Refusal :=
  s.runOn (State.withPec pecOk (State.onSmb fun x => { x with ar := false }))
/-- RESET_DEVICE (13 R518): AR and AV are cleared. -/
def execResetDevice (directed : Option (BitVec 7)) (pecOk : Bool) (s : State) : Host.Outcome State Fault Refusal :=
  s.runOn fun s => if s.arpFor directed then s.withPec pecOk (State.onSmb fun x => { x with ar := false, av := false, udidPending := false }) else s
/-- GET_UDID (13 R518, R520). -/
def execGetUdid (directed : Option (BitVec 7)) (bus : BitVec 128) (s : State) : Host.Outcome State Fault Refusal :=
  s.runOn (State.sendUdid directed bus)
/-- ASSIGN_ADDRESS (13 R518): AR and AV are set; a fixed address stays (R519). -/
def execAssignAddress (udid : BitVec 128) (addr : BitVec 7) (pecOk : Bool) (s : State) : Host.Outcome State Fault Refusal :=
  s.runOn fun s => s.withPec pecOk (fun s =>
    if udid = s.udid then s.onSmb fun x => { x with addr := if x.fixed then x.addr else addr, ar := true, av := true } else s)
/-- CSR_READ (13 R522; 15 R580). -/
def execCsrRead (off : BitVec 24) (pecOk : Bool) (s : State) : Host.Outcome State Fault Refusal :=
  s.runOn fun s => if s.smb.av then s.withPec pecOk (fun s => s.smbReply (leBytes 4 (s.smbRead off.toNat).toNat)) else s
/-- MBX_STATUS (13 R522): admin MBX.STATUS and MBX.SEQ. -/
def execMbxStatus (s : State) : Host.Outcome State Fault Refusal :=
  s.runOn fun s => s.smbReply (leBytes 4 (s.mbxStatus 0).toNat ++ leBytes 4 (s.mbxSeq 0).toNat)
/-- IDENT (13 R522): CHIP.IDENT and UID. -/
def execIdent (s : State) : Host.Outcome State Fault Refusal := s.runOn fun s => s.smbReply s.identity

end Sys2Proof.Machine
end

