-- ==== Sys2Proof/Machine/Dispatch.lean ====
section
/-! DEFINITION. The meaning of each command: one arm for each constructor, each a call of one meaning. -/
namespace Sys2Proof.Machine

/-- The effect of a command (the queue of waiting commands is the step's). -/
def exec (i : Instr) (s : State) : Host.Outcome State Fault Refusal :=
  match i with
  | .bundleIssue p outside ups => Sys2Proof.Machine.execBundleIssue p outside ups s
  | .ldprogDone p => Sys2Proof.Machine.execLdprogDone p s
  | .passEnd p errs ups => Sys2Proof.Machine.execPassEnd p errs ups s
  | .eddyRunStart p ups => Sys2Proof.Machine.execEddyRunStart p ups s
  | .eddyRunEnd p => Sys2Proof.Machine.execEddyRunEnd p s
  | .sluiceTransferComplete p so which ups => Sys2Proof.Machine.execSluiceTransferComplete p so which ups s
  | .gateLaunch p work => Sys2Proof.Machine.execGateLaunch p work s
  | .gateLate p work => Sys2Proof.Machine.execGateLate p work s
  | .abandoningGate p work => Sys2Proof.Machine.execAbandoningGate p work s
  | .stallTimeout p => Sys2Proof.Machine.execStallTimeout p s
  | .halt path sel on => Sys2Proof.Machine.execHalt path sel on s
  | .haltAtBoundary p => Sys2Proof.Machine.execHaltAtBoundary p s
  | .scrub path sel => Sys2Proof.Machine.execScrub path sel s
  | .scrubDone p => Sys2Proof.Machine.execScrubDone p s
  | .encodeLaunch mu slot => Sys2Proof.Machine.execEncodeLaunch mu slot s
  | .encoderCodeBlockDone e uncorr => Sys2Proof.Machine.execEncoderCodeBlockDone e uncorr s
  | .ifftStart carrier sym => Sys2Proof.Machine.execIfftStart carrier sym s
  | .firstSampleOut carrier sym => Sys2Proof.Machine.execFirstSampleOut carrier sym s
  | .dlCodewordDescriptor b alloc => Sys2Proof.Machine.execDlCodewordDescriptor b alloc s
  | .decodeDescriptor b alloc => Sys2Proof.Machine.execDecodeDescriptor b alloc s
  | .jobRecord b => Sys2Proof.Machine.execJobRecord b s
  | .llrSegmentArrival q part descOff => Sys2Proof.Machine.execLlrSegmentArrival q part descOff s
  | .llrWaitExpiry q slot carrier => Sys2Proof.Machine.execLlrWaitExpiry q slot carrier s
  | .decodeDeadline q slot carrier => Sys2Proof.Machine.execDecodeDeadline q slot carrier s
  | .decodeIterationEnd q e upset => Sys2Proof.Machine.execDecodeIterationEnd q e upset s
  | .polarRequest q place req basin => Sys2Proof.Machine.execPolarRequest q place req basin s
  | .polarDone q uncorr => Sys2Proof.Machine.execPolarDone q uncorr s
  | .slotBoundary mu => Sys2Proof.Machine.execSlotBoundary mu s
  | .frameBoundary => Sys2Proof.Machine.execFrameBoundary s
  | .subsecWrap => Sys2Proof.Machine.execSubsecWrap s
  | .budgetPeriodStart => Sys2Proof.Machine.execBudgetPeriodStart s
  | .estimatorInterval estA estB => Sys2Proof.Machine.execEstimatorInterval estA estB s
  | .sensorReading sensor reading => Sys2Proof.Machine.execSensorReading sensor reading s
  | .marginCheck domain slack headroom avsOk => Sys2Proof.Machine.execMarginCheck domain slack headroom avsOk s
  | .voltageLower domain => Sys2Proof.Machine.execVoltageLower domain s
  | .arbiterGrant a arriving fails => Sys2Proof.Machine.execArbiterGrant a arriving fails s
  | .burstComplete a upsets => Sys2Proof.Machine.execBurstComplete a upsets s
  | .starved a port => Sys2Proof.Machine.execStarved a port s
  | .poolScrubRead c upsets => Sys2Proof.Machine.execPoolScrubRead c upsets s
  | .dramScrubRead upsets => Sys2Proof.Machine.execDramScrubRead upsets s
  | .dramRefresh channel hot => Sys2Proof.Machine.execDramRefresh channel hot s
  | .dramChannelLoss channel => Sys2Proof.Machine.execDramChannelLoss channel s
  | .sysrefEdge tx offCycles => Sys2Proof.Machine.execSysrefEdge tx offCycles s
  | .rxMultiblock lane crcOk => Sys2Proof.Machine.execRxMultiblock lane crcOk s
  | .laneSyncLoss lane => Sys2Proof.Machine.execLaneSyncLoss lane s
  | .agcBlock stream block => Sys2Proof.Machine.execAgcBlock stream block s
  | .fftDrain channel sym => Sys2Proof.Machine.execFftDrain channel sym s
  | .cfrBlock stream => Sys2Proof.Machine.execCfrBlock stream s
  | .maskAverage stream => Sys2Proof.Machine.execMaskAverage stream s
  | .chirpWindow channel sf => Sys2Proof.Machine.execChirpWindow channel sf s
  | .write port f ownGap => Sys2Proof.Machine.execWrite port f ownGap s
  | .readReq port f ownGap => Sys2Proof.Machine.execReadReq port f ownGap s
  | .readResp port f ownGap => Sys2Proof.Machine.execReadResp port f ownGap s
  | .ack port f => Sys2Proof.Machine.execAck port f s
  | .nack port f => Sys2Proof.Machine.execNack port f s
  | .discover port f mac => Sys2Proof.Machine.execDiscover port f mac s
  | .offer port f => Sys2Proof.Machine.execOffer port f s
  | .request port f mac => Sys2Proof.Machine.execRequest port f mac s
  | .grant port f => Sys2Proof.Machine.execGrant port f s
  | .ackTimer src => Sys2Proof.Machine.execAckTimer src s
  | .nackDelayExpiry src => Sys2Proof.Machine.execNackDelayExpiry src s
  | .retryTimeout dst seq => Sys2Proof.Machine.execRetryTimeout dst seq s
  | .heldFrameLanding src seq ownGap => Sys2Proof.Machine.execHeldFrameLanding src seq ownGap s
  | .discoverTimer => Sys2Proof.Machine.execDiscoverTimer s
  | .offerCollectEnd => Sys2Proof.Machine.execOfferCollectEnd s
  | .offerWithdraw uid => Sys2Proof.Machine.execOfferWithdraw uid s
  | .leaseRenew => Sys2Proof.Machine.execLeaseRenew s
  | .leaseLost => Sys2Proof.Machine.execLeaseLost s
  | .uPlaneMessage port m frame => Sys2Proof.Machine.execUPlaneMessage port m frame s
  | .oneWayDelayRequest port src id subset frame => Sys2Proof.Machine.execOneWayDelayRequest port src id subset frame s
  | .oneWayDelayResponse port delayNs subset frame => Sys2Proof.Machine.execOneWayDelayResponse port delayNs subset frame s
  | .rxWindowClose carrier sym => Sys2Proof.Machine.execRxWindowClose carrier sym s
  | .cPlaneSend entry sections => Sys2Proof.Machine.execCPlaneSend entry sections s
  | .forwardEgress port buf => Sys2Proof.Machine.execForwardEgress port buf s
  | .portLinkLoss port fails => Sys2Proof.Machine.execPortLinkLoss port fails s
  | .ptpEventMessage port domain m correction frame => Sys2Proof.Machine.execPtpEventMessage port domain m correction frame s
  | .announceTimeout why => Sys2Proof.Machine.execAnnounceTimeout why s
  | .ppsInEdge => Sys2Proof.Machine.execPpsInEdge s
  | .ppsMissing => Sys2Proof.Machine.execPpsMissing s
  | .synceLos => Sys2Proof.Machine.execSynceLos s
  | .incrementWrite path v => Sys2Proof.Machine.execIncrementWrite path v s
  | .adjWrite path v => Sys2Proof.Machine.execAdjWrite path v s
  | .go path v => Sys2Proof.Machine.execGo path v s
  | .frameAdvWrite path v => Sys2Proof.Machine.execFrameAdvWrite path v s
  | .ns32Read path => Sys2Proof.Machine.execNs32Read path s
  | .reachLoRead path c => Sys2Proof.Machine.execReachLoRead path c s
  | .choicesRead path => Sys2Proof.Machine.execChoicesRead path s
  | .wseqClear path off v => Sys2Proof.Machine.execWseqClear path off v s
  | .unlock path off v => Sys2Proof.Machine.execUnlock path off v s
  | .lockTimeout off => Sys2Proof.Machine.execLockTimeout off s
  | .portStart path port v => Sys2Proof.Machine.execPortStart path port v s
  | .portStop path port v => Sys2Proof.Machine.execPortStop path port v s
  | .dramCfgWrite path v => Sys2Proof.Machine.execDramCfgWrite path v s
  | .epochAdv path v => Sys2Proof.Machine.execEpochAdv path v s
  | .trainDisable path v => Sys2Proof.Machine.execTrainDisable path v s
  | .cacheConfigWrite path size v => Sys2Proof.Machine.execCacheConfigWrite path size v s
  | .commandSlotWrite f m off bytes => Sys2Proof.Machine.execCommandSlotWrite f m off bytes s
  | .registerWrite path off bytes => Sys2Proof.Machine.execRegisterWrite path off bytes s
  | .doorbell f m v => Sys2Proof.Machine.execDoorbell f m v s
  | .sqDoorbell f b ring v => Sys2Proof.Machine.execSqDoorbell f b ring v s
  | .cqDoorbell f ring v => Sys2Proof.Machine.execCqDoorbell f ring v s
  | .ringFetch b ring => Sys2Proof.Machine.execRingFetch b ring s
  | .completionDequeue b => Sys2Proof.Machine.execCompletionDequeue b s
  | .shadowWrite ring => Sys2Proof.Machine.execShadowWrite ring s
  | .msixMessage f vec => Sys2Proof.Machine.execMsixMessage f vec s
  | .asyncCommandDone opcode r => Sys2Proof.Machine.execAsyncCommandDone opcode r s
  | .identify m => Sys2Proof.Machine.execIdentify m s
  | .echo m => Sys2Proof.Machine.execEcho m s
  | .getState m => Sys2Proof.Machine.execGetState m s
  | .imageLoad m => Sys2Proof.Machine.execImageLoad m s
  | .imageInfo m => Sys2Proof.Machine.execImageInfo m s
  | .imageUnload m => Sys2Proof.Machine.execImageUnload m s
  | .carrierConfig m rec => Sys2Proof.Machine.execCarrierConfig m rec s
  | .carrierRemove m => Sys2Proof.Machine.execCarrierRemove m s
  | .funcStart m => Sys2Proof.Machine.execFuncStart m s
  | .funcStop m => Sys2Proof.Machine.execFuncStop m s
  | .funcChange m => Sys2Proof.Machine.execFuncChange m s
  | .stopBoundary => Sys2Proof.Machine.execStopBoundary s
  | .applyPhase badDomains => Sys2Proof.Machine.execApplyPhase badDomains s
  | .restartBoundary => Sys2Proof.Machine.execRestartBoundary s
  | .basinConfig m => Sys2Proof.Machine.execBasinConfig m s
  | .basinReset m => Sys2Proof.Machine.execBasinReset m s
  | .basinResetEnd b => Sys2Proof.Machine.execBasinResetEnd b s
  | .basinStats m => Sys2Proof.Machine.execBasinStats m s
  | .ringConfig m => Sys2Proof.Machine.execRingConfig m s
  | .jobCancel m => Sys2Proof.Machine.execJobCancel m s
  | .atuContext m => Sys2Proof.Machine.execAtuContext m s
  | .atuInval m => Sys2Proof.Machine.execAtuInval m s
  | .train m => Sys2Proof.Machine.execTrain m s
  | .load m => Sys2Proof.Machine.execLoad m s
  | .swap m => Sys2Proof.Machine.execSwap m s
  | .modelStatus m => Sys2Proof.Machine.execModelStatus m s
  | .bkwCtrl m => Sys2Proof.Machine.execBkwCtrl m s
  | .bkwCache m => Sys2Proof.Machine.execBkwCache m s
  | .bkwRefsig m => Sys2Proof.Machine.execBkwRefsig m s
  | .bkwPerm m => Sys2Proof.Machine.execBkwPerm m s
  | .fence m => Sys2Proof.Machine.execFence m s
  | .unfence m => Sys2Proof.Machine.execUnfence m s
  | .checkLevel m => Sys2Proof.Machine.execCheckLevel m s
  | .telemetry m => Sys2Proof.Machine.execTelemetry m s
  | .telemetryPeriod m => Sys2Proof.Machine.execTelemetryPeriod m s
  | .faultLog m => Sys2Proof.Machine.execFaultLog m s
  | .timeSet m => Sys2Proof.Machine.execTimeSet m s
  | .timeSource m => Sys2Proof.Machine.execTimeSource m s
  | .fabricLease m => Sys2Proof.Machine.execFabricLease m s
  | .fabricRoute m => Sys2Proof.Machine.execFabricRoute m s
  | .remoteMbx m => Sys2Proof.Machine.execRemoteMbx m s
  | .budgetSet m rows => Sys2Proof.Machine.execBudgetSet m rows s
  | .detMode m => Sys2Proof.Machine.execDetMode m s
  | .powerCap m => Sys2Proof.Machine.execPowerCap m s
  | .fwStage m => Sys2Proof.Machine.execFwStage m s
  | .fwActivate m => Sys2Proof.Machine.execFwActivate m s
  | .fwStatus m => Sys2Proof.Machine.execFwStatus m s
  | .deviceReset m => Sys2Proof.Machine.execDeviceReset m s
  | .jobReady b num resume => Sys2Proof.Machine.execJobReady b num resume s
  | .preemptWaitExpiry p => Sys2Proof.Machine.execPreemptWaitExpiry p s
  | .spill p => Sys2Proof.Machine.execSpill p s
  | .capture r => Sys2Proof.Machine.execCapture r s
  | .reEncode q block => Sys2Proof.Machine.execReEncode q block s
  | .stepEnd region r => Sys2Proof.Machine.execStepEnd region r s
  | .validationDone region => Sys2Proof.Machine.execValidationDone region s
  | .commit region => Sys2Proof.Machine.execCommit region s
  | .commitDone region => Sys2Proof.Machine.execCommitDone region s
  | .swapLatch mu => Sys2Proof.Machine.execSwapLatch mu s
  | .remap p launch => Sys2Proof.Machine.execRemap p launch s
  | .testSegmentEnd t => Sys2Proof.Machine.execTestSegmentEnd t s
  | .collectorError => Sys2Proof.Machine.execCollectorError s
  | .wellheadLockstep => Sys2Proof.Machine.execWellheadLockstep s
  | .watchdogExpiry => Sys2Proof.Machine.execWatchdogExpiry s
  | .pllLockLoss => Sys2Proof.Machine.execPllLockLoss s
  | .railFault => Sys2Proof.Machine.execRailFault s
  | .domainFail domain => Sys2Proof.Machine.execDomainFail domain s
  | .powerOn => Sys2Proof.Machine.execPowerOn s
  | .aonPowerLoss => Sys2Proof.Machine.execAonPowerLoss s
  | .porstNAssert => Sys2Proof.Machine.execPorstNAssert s
  | .porstNRelease facts => Sys2Proof.Machine.execPorstNRelease facts s
  | .warmReset facts => Sys2Proof.Machine.execWarmReset facts s
  | .coldReset facts => Sys2Proof.Machine.execColdReset facts s
  | .perstN => Sys2Proof.Machine.execPerstN s
  | .functionLevelReset f => Sys2Proof.Machine.execFunctionLevelReset f s
  | .pcieLinkDown => Sys2Proof.Machine.execPcieLinkDown s
  | .tapReset => Sys2Proof.Machine.execTapReset s
  | .extest => Sys2Proof.Machine.execExtest s
  | .idcode => Sys2Proof.Machine.execIdcode s
  | .samplePreload pins data => Sys2Proof.Machine.execSamplePreload pins data s
  | .clamp => Sys2Proof.Machine.execClamp s
  | .highz => Sys2Proof.Machine.execHighz s
  | .extestPulse => Sys2Proof.Machine.execExtestPulse s
  | .extestTrain => Sys2Proof.Machine.execExtestTrain s
  | .bypass code => Sys2Proof.Machine.execBypass code s
  | .prepareToArp pecOk => Sys2Proof.Machine.execPrepareToArp pecOk s
  | .resetDevice directed pecOk => Sys2Proof.Machine.execResetDevice directed pecOk s
  | .getUdid directed bus => Sys2Proof.Machine.execGetUdid directed bus s
  | .assignAddress udid addr pecOk => Sys2Proof.Machine.execAssignAddress udid addr pecOk s
  | .csrRead off pecOk => Sys2Proof.Machine.execCsrRead off pecOk s
  | .mbxStatus => Sys2Proof.Machine.execMbxStatus s
  | .ident => Sys2Proof.Machine.execIdent s
  | .portLinkUp port fecLanes => Sys2Proof.Machine.execPortLinkUp port fecLanes s
  | .pcieLinkUp width speed numVf bars => Sys2Proof.Machine.execPcieLinkUp width speed numVf bars s
  | .perstNRelease => Sys2Proof.Machine.execPerstNRelease s
  | .railsInRange => Sys2Proof.Machine.execRailsInRange s
  | .faultBlockParity => Sys2Proof.Machine.execFaultBlockParity s
  | .stagingDone region readOk => Sys2Proof.Machine.execStagingDone region readOk s
  | .symbolBoundary mu => Sys2Proof.Machine.execSymbolBoundary mu s
  | .ethernetFrame port f => Sys2Proof.Machine.execEthernetFrame port f s

end Sys2Proof.Machine
end

