-- ==== Sys2Proof/Safety.lean ====
section
/-! DEFINITION. What the claims rely on: the canonical form of the memories, and what no command leaves undone. -/
namespace Sys2Proof.Machine

/-- A byte memory is in canonical form. -/
def Memory.wf (m : Tab Byte) : Bool := twf zeroByte m

/-- Device memory and host memory are in canonical form. -/
def State.memWf (s : State) : Bool := Memory.wf s.mem && Memory.wf s.host

/-- The fencing-class bits of the shared collectors: register, bit, and the unit that the bit puts out of service by FENCE
kind and number (15, tables; 08, WEIR.FAULTWORD). -/
def fencingBits : List (Nat × Nat × Nat × Nat) :=
  ((List.range 4).flatMap fun q =>
    ((List.range 6).map fun e => (Reg.WEIR_FAULTWORD q, 6 + e, 1, q * 6 + e)) ++ [(Reg.WEIR_FAULTWORD q, 5, 3, q)]
      ++ ((List.range 2).map fun e => (Reg.WEIR_FAULTWORD q, 3 + e, 2, q * 2 + e))
      ++ ((List.range 16).map fun b => (Reg.POOL_FAULTWORD q, 8 + b, 5, q))
      ++ [(Reg.POOL_FAULTWORD q, 2, 5, q), (Reg.POOL_FAULTWORD q, 3, 5, q)])
  ++ (List.range 2).flatMap fun g => (List.range 4).map fun i => (Reg.PGRP_FAULTWORD g, 8 + i, 4, g * 4 + i)

/-- No core's event is left unhandled. -/
def State.coresQuiet (s : State) : Bool := (List.range 52).all fun p => (s.core p).evs.isEmpty

/-- Every fencing-class bit of a shared collector has its unit out of service (15 R563). -/
def State.unitsFenced (s : State) : Bool :=
  fencingBits.all fun x => !bitOf (s.reg x.1).toNat x.2.1 || s.fence x.2.2.1 x.2.2.2 != 0

/-- No event is left unhandled, and no broken unit in service. -/
def State.handled (s : State) : Bool := s.coresQuiet && s.unitsFenced

/-- DET.STRICT shows the strict mode in force (14 R547). -/
def State.strictShown (s : State) : Bool := bitOf (s.reg Reg.DET_STRICT).toNat 8 == s.strictEff

/-- Nothing that a command must bring about is left undone: events handled, broken units fenced, EFF up to date. -/
def State.settled (s : State) : Bool := s.handled && s.strictShown

/-- No command in progress has logged entries that are still to be brought into order (15 R561). -/
def State.logOrdered (s : State) : Bool := s.ctl.logKeys.isEmpty

/-- The booted device, with nothing left undone. -/
def State.ready (s : State) : Bool := s.mode == .running && s.settled && s.logOrdered

/-- The server has mailbox `m`'s command of opcode `op` at its front and nothing refuses it; every command that waits has an
opcode of the table (13 R497, R503). -/
def State.serves (s : State) (m op : Nat) : Bool :=
  s.ready && s.wq.head? == some m && (s.mailbox m).st == 1 && s.par m 0 1 == op && (s.refusal m).isNone
    && s.wq.all fun k => (cmdInfo (s.par k 0 1)).isSome

/-- The commands that serve mailbox `m`, with their opcodes (13, table "Command set"); MODEL_UPDATE is TRAIN, LOAD or SWAP by
its record's KIND. -/
def State.mailboxRows (s : State) (m : Fin 9) (rec_ : Option CarrierRec) (rows : List BudgetRow) : List (Instr × Nat) :=
  [(.identify m, 0x01), (.echo m, 0x02), (.getState m, 0x03), (.imageLoad m, 0x10), (.imageInfo m, 0x11), (.imageUnload m, 0x12),
   (.carrierConfig m rec_, 0x18), (.carrierRemove m, 0x19), (.funcStart m, 0x20), (.funcStop m, 0x21), (.funcChange m, 0x22),
   (.basinConfig m, 0x28), (.basinReset m, 0x29), (.basinStats m, 0x2A), (.ringConfig m, 0x30), (.jobCancel m, 0x31),
   (.atuContext m, 0x34), (.atuInval m, 0x35),
   (if s.updKind m.val = 1 then .train m else if s.updKind m.val = 2 then .load m else .swap m, 0x40),
   (.modelStatus m, 0x41), (.bkwCtrl m, 0x44), (.bkwCache m, 0x45), (.bkwRefsig m, 0x46), (.bkwPerm m, 0x47), (.fence m, 0x48),
   (.unfence m, 0x49), (.checkLevel m, 0x4A), (.telemetry m, 0x50), (.telemetryPeriod m, 0x51), (.faultLog m, 0x52),
   (.timeSet m, 0x58), (.timeSource m, 0x59), (.fabricLease m, 0x60), (.fabricRoute m, 0x61), (.remoteMbx m, 0x62),
   (.budgetSet m rows, 0x68), (.detMode m, 0x69), (.powerCap m, 0x6A), (.fwStage m, 0x70), (.fwActivate m, 0x71),
   (.fwStatus m, 0x72), (.deviceReset m, 0x78)]

/-- The grave faults with their causes (15 R556, R578; 16 R585, R618; 07 R250): a lost DRAM channel counts only while its pair is in
use, and the watchdog only once it is armed. -/
def State.graveFault (s : State) (c : Instr) (code : Nat) : Prop :=
  (c = .collectorError ∧ code = 1) ∨ (c = .wellheadLockstep ∧ code = 2) ∨
  (∃ ch : Fin 16, c = .dramChannelLoss ch ∧ code = 3 ∧ s.dramOn = true ∧ ch.val / 2 ∈ s.dramPairs) ∨
  (c = .pllLockLoss ∧ code = 4) ∨ (c = .railFault ∧ code = 5) ∨ (c = .faultBlockParity ∧ code = 7) ∨
  (c = .watchdogExpiry ∧ code = 8 ∧ s.boot.watchdog = true)

/-- The timebase in its ranges (12 R450, R452, R471; TIME.STATUS): SUBSEC below a second, the frame count below 1,024, the clock state
one of four, the increment in force and the one that waits within 100 ppm of nominal. -/
def TimeSt.inRange (t : TimeSt) : Prop :=
  t.sub < secUnits ∧ t.sfn < 1024 ∧ t.clock ≤ 3 ∧
  ∀ v, v = t.inc ∨ t.incPend = some v → 0x0411AAAAAAAA - 447392427 ≤ v ∧ v ≤ 0x0411AAAAAAAA + 447392427

/-- A frame of type `typ` passes every check on port `k` (11 R407, R434). -/
def State.accepts (s : State) (k typ : Nat) (f : Frame) : Bool :=
  s.portUsable k && f.ver == 1 && f.typ.toNat == typ && decide (1 ≤ typ ∧ typ ≤ 9) && zeroFields f && f.crc == frameCrc f
    && f.length.toNat == f.payload.length && decide (f.payload.length ≤ 4096)
    && (s.fabric == some f.dst.toNat || (decide (6 ≤ typ) && f.dst == 0x3FFFF)) && s.fabric != some f.src.toNat

/-- A frame is the next of its source, which has nothing open: no frame held, none beyond the cumulative point, no error to acknowledge (11 R417). -/
def State.inOrder (s : State) (f : Frame) : Bool :=
  let x := s.srcSt f.src.toNat
  f.seq.toNat == x.c && !bitOf f.flags.toNat 2 && x.got.isEmpty && x.held.isEmpty && x.errs.isEmpty

/-- An address of this device names `n` bytes of its DRAM or pool, from local address `b` on (07 R239). -/
def State.landsAt (s : State) (a n b : Nat) : Prop := (s.place (selfAddr a)).1 = .mem b ∧ n ≤ (s.place (selfAddr a)).2

/-- What leaves at a port for a destination MAC, with its header (11 R403, R412): nothing while the port has stopped (16 R620). -/
def State.leaves (s : State) (k dst : Nat) (o : Out) : List Out :=
  if s.txStopped k then [] else [.head k dst (s.portMac k) (s.vlanTag k), o]

/-- A Tributary frame as it leaves. -/
def State.frameOut (s : State) (k : Nat) (f : Frame) : List Out := s.leaves k (leasedMac f.dst.toNat k) (.frame k f)

/-- The commands that bring a Tributary frame, with the frame's type (11, table "Frame types"). -/
def frameRows (k : Fin 8) (f : Frame) (own : Bool) (mac : BitVec 48) : List (Instr × Nat) :=
  [(.write k f own, 1), (.readReq k f own, 2), (.readResp k f own, 3), (.ack k f, 4), (.nack k f, 5), (.discover k f mac, 6),
   (.offer k f, 7), (.request k f mac, 8), (.grant k f, 9)]

end Sys2Proof.Machine
end

