-- ==== Sys2Proof/WellFormed.lean ====
section
/-! DEFINITION. Which commands are well formed: operands inside the ranges that the manual gives them. -/
namespace Sys2Proof

/-- A row carries data exactly when it writes (07 R255). -/
def Burst.wellFormed (b : Burst) : Bool :=
  decide (0 < b.len) && (if b.write then b.data.length == b.len else b.data.isEmpty)

/-- An uncorrectable error gives the bytes of one protected word (07 R244, R251). -/
def MemUpset.wellFormed (size : Nat) : MemUpset → Bool
  | .corrected _ => true
  | .uncorrectable _ stored => stored.length == size

/-- A command's operands lie in their ranges: 07 R244, R251, R255; 10 R381, R388, R389, R395; 13 R481, R494;
17 R630. -/
def Instr.wellFormed : Instr → Bool
  | .arbiterGrant _ arriving _ => arriving.all Burst.wellFormed
  | .burstComplete a upsets => upsets.all (MemUpset.wellFormed (if a.val < 64 then 8 else 64))
  | .poolScrubRead _ upsets => upsets.all (MemUpset.wellFormed 8)
  | .dramScrubRead upsets => upsets.all (MemUpset.wellFormed 64)
  | .agcBlock _ block => block.length == 64
  | .commandSlotWrite _ _ off bytes => decide (0 < bytes.length ∧ off.val + bytes.length ≤ 64)
  | .registerWrite _ off bytes => decide (0 < bytes.length ∧ off.toNat + bytes.length ≤ 2 ^ 24)
  | .pcieLinkUp width speed _ _ => [1, 2, 4, 8].contains width.val && speed.val != 0
  | _ => true

end Sys2Proof
end

