-- ==== Sys2Proof/Certificates/Slice0/Obligations.lean ====
section
/-! DEFINITION. The statements for the provers. A statement that has several parts names each of them under Claims. -/
open Sys2Proof Sys2Proof.Machine

/-! ## The queue -/

/-- A step runs the command at the front of the queue with the queue's rest; on an empty queue the block idles (assumption
10). -/
def Obligations.StepRunsFront : Prop :=
  (∀ (c : Instr) (rest : List Instr) (s : State),
    s.pending = c :: rest → step s = exec c { s with pending := rest }) ∧
  ∀ s : State, s.pending = [] → step s = .next s.idle

/-- Every command answers a next state and leaves the queue as it is, and so does an idle block. -/
def Obligations.QueueKept : Prop :=
  (∀ (c : Instr) (s : State), ∃ t, exec c s = .next t ∧ t.pending = s.pending) ∧ ∀ s : State, s.idle.pending = s.pending

/-! ## Mailboxes (13 R494 to R503) -/

/-- A doorbell (R494, R495): BUSY sets OVERRUN; a value that is not the command slot's SEQ and LAST_ACCEPTED + 1 sets
SEQ_REJECT; else the slot is latched, LAST_ACCEPTED is set, STATE is BUSY and both bits clear. An accepted JOB_CANCEL acts
at once and has a statement of its own; an opcode that the table does not have is answered in its turn. A function that does
not hold the mailbox rings nothing (R482, R483). -/
def Claims.DoorbellTaken : Prop :=
  ∀ (s : State) (f : PFunc) (m : Fin 9) (v : BitVec 16), s.ready = true → ¬(0 < m.val ∧ (s.basin (m.val - 1)).st = 2) →
    let x := s.mailbox m.val
    let next := (x.accepted + 1) % 65536
    (s.fnServes f m.val = false → exec (.doorbell f m v) s = .next s.clearOuts) ∧
    (s.fnServes f m.val = true → x.st = 1 →
      exec (.doorbell f m v) s = .next (s.clearOuts.setMailbox m.val { x with overrun := true })) ∧
    (s.fnServes f m.val = true → x.st ≠ 1 → ¬(v.toNat = fieldAt x.cmd 2 2 ∧ v.toNat = next) →
      exec (.doorbell f m v) s = .next (s.clearOuts.setMailbox m.val { x with reject := true })) ∧
    (s.fnServes f m.val = true → x.st ≠ 1 → v.toNat = fieldAt x.cmd 2 2 → v.toNat = next → fieldAt x.cmd 0 1 ≠ 0x31 →
      (cmdInfo (fieldAt x.cmd 0 1)).isSome = true → (∀ k ∈ s.wq, k ≠ m.val ∧ (cmdInfo (s.par k 0 1)).isSome = true) →
      exec (.doorbell f m v) s = .next { s.clearOuts.setMailbox m.val
        { x with latched := x.cmd, accepted := next, st := 1, overrun := false, reject := false, pre := none } with
        wq := s.wq ++ [m.val] })

/-- Writes to MBX.COMMAND while STATE is BUSY are discarded; else each byte inside the write takes the written byte and every
other byte, and all else, stays (R496). A function that does not hold the mailbox writes nothing (R482, R483). -/
def Claims.CommandSlotWritten : Prop :=
  ∀ (s : State) (f : PFunc) (m : Fin 9) (off : Fin 64) (bs : List Byte), s.ready = true → (s.mailbox m.val).cmd.length = 64 →
    (Instr.commandSlotWrite f m off bs).wellFormed = true →
    (s.fnServes f m.val = false ∨ (s.mailbox m.val).st = 1 → exec (.commandSlotWrite f m off bs) s = .next s.clearOuts) ∧
    (s.fnServes f m.val = true → (s.mailbox m.val).st ≠ 1 → ∃ cmd : List Byte,
      exec (.commandSlotWrite f m off bs) s = .next (s.clearOuts.setMailbox m.val { s.mailbox m.val with cmd := cmd }) ∧
      cmd.length = 64 ∧ ∀ i, i < 64 →
        cmd.getD i 0 = if off.val ≤ i ∧ i < off.val + bs.length then bs.getD (i - off.val) 0 else (s.mailbox m.val).cmd.getD i 0)

/-- Doorbells and command-slot writes of the mailboxes (13 R494 to R496). -/
def Obligations.MailboxWritesTaken : Prop := Claims.DoorbellTaken ∧ Claims.CommandSlotWritten

/-- What an answer leaves (R497): the response slot with the command's opcode, the code, its SEQ and the results; LAST_DONE
at LAST_ACCEPTED; STATE DONE; the mailbox's MSI-X message waiting; the command gone from the server; every other mailbox,
memory, the cores and the registers unchanged. -/
def Claims.AnswerWritten : Prop :=
  ∀ (s : State) (m : Nat) (code : Nat) (rs : List Byte),
    (s.mailbox m).latched.length = 64 → code < 256 → rs.length ≤ 60 →
    let x := s.mailbox m
    let t := s.reply m code rs
    let y := t.mailbox m
    y.st = 2 ∧ y.done = x.accepted ∧ y.cmd = x.cmd ∧ y.accepted = x.accepted ∧
    y.resp.length = 64 ∧ fieldAt y.resp 0 1 = fieldAt x.latched 0 1 ∧ fieldAt y.resp 1 1 = code ∧
    fieldAt y.resp 2 2 = fieldAt x.latched 2 2 ∧ (y.resp.drop 4).take rs.length = rs ∧
    m ∉ t.wq ∧ (∀ k, k ≠ m → t.mailbox k = s.mailbox k) ∧
    (m = 0 → 0 ∈ t.ctl.msix) ∧ (0 < m → s.boot.numVf ≤ m - 1 → (3 + 2 * (m - 1)) ∈ t.ctl.msix) ∧
    (0 < m → m - 1 < s.boot.numVf → m * 32 ∈ t.ctl.msix) ∧
    t.mem = s.mem ∧ t.host = s.host ∧ t.cores = s.cores ∧ t.ctl.regs = s.ctl.regs

/-- A command that is refused changes nothing but its answer, for every mailbox command of the table (R503). -/
def Claims.RefusedCommandChangesNothing : Prop :=
  ∀ (s : State) (m : Fin 9) (rec_ : Option CarrierRec) (rows : List BudgetRow) (code : Nat),
    s.ready = true → s.wq.head? = some m.val → (s.mailbox m.val).st = 1 → s.refusal m.val = some code →
    (∀ k ∈ s.wq, (cmdInfo (s.par k 0 1)).isSome = true) →
    ∀ c ∈ s.mailboxRows m rec_ rows, s.par m.val 0 1 = c.2 →
      exec c.1 s = .next (s.clearOuts.reply m.val code [])

/-- What an answer leaves, and a refused command (13 R497, R501). -/
def Obligations.AnswersLeft : Prop := Claims.AnswerWritten ∧ Claims.RefusedCommandChangesNothing

/-- Commands that only ask (13, table "Command set"): each answers OK with what the table says it returns, and changes
nothing else. FW_STATUS and IDENTIFY return the running firmware's version. The places of parameters and results are the
model's (assumption 30). -/
def Obligations.QueriesAnswer : Prop :=
  ∀ (s : State) (m : Fin 9),
    let x := s.mailbox m.val
    let ident := 0x48200000 + s.fuses.stepMajor.val * 2 ^ 18 + s.fuses.stepMinor.val * 2 ^ 16 + s.enabled * 256
      + (if s.fuses.tempI then 128 else 0)
    let version := State.versionOf (s.slotOf s.boot.runB)
    let answers (c : Instr) (rs : List Byte) : Prop := exec c s = .next (s.clearOuts.reply m.val rcOk rs)
    (s.serves m.val 0x01 = true →
      answers (.identify m) (leBytes 4 ident ++ leBytes 16 s.fuses.uid.toNat ++ leBytes 4 version
        ++ [if m.val = 0 then 0xFF else BitVec.ofNat 8 (m.val - 1)])) ∧
    (s.serves m.val 0x02 = true → answers (.echo m) (x.latched.drop 4)) ∧
    (s.serves m.val 0x03 = true →
      answers (.getState m) ([Config.stateByte s.img.file.isSome (s.func.started != 0)] ++ leBytes 4 s.tagNow
        ++ leBytes 4 s.func.started ++ leBytes 4 ((s.regRead (fun _ => 0) (fun _ => 0) Reg.FAULT_FENCED_LO).toNat)
        ++ leBytes 4 ((s.regRead (fun _ => 0) (fun _ => 0) Reg.FAULT_FENCED_HI).toNat))) ∧
    (∀ f, s.serves m.val 0x11 = true → s.img.file = some f →
      answers (.imageInfo m) (leBytes 4 f.tag.toNat ++ leBytes 2 f.catchments.length ++ leBytes 1 f.regions.length
        ++ [Config.carrierSlots f.tag])) ∧
    (∀ b : Fin 8, s.serves m.val 0x2A = true → (if m.val = 0 then s.par 0 4 1 = b.val else b.val = m.val - 1) →
      answers (.basinStats m) (leBytes 6 (s.basin b.val).submitted ++ leBytes 6 (s.basin b.val).completed
        ++ leBytes 6 (s.basin b.val).cancelled ++ leBytes 6 (s.basin b.val).reset)) ∧
    (∀ d, s.serves m.val 0x41 = true → s.par m.val 4 1 < 16 → s.regionDecl (s.par m.val 4 1) = some d →
      answers (.modelStatus m) (leBytes 4 (s.regionState (s.par m.val 4 1)) ++ leBytes 8 (s.slotVersion d 0)
        ++ leBytes 8 (s.slotVersion d 1))) ∧
    (s.serves m.val 0x72 = true →
      answers (.fwStatus m) (leBytes 4 version ++ leBytes 4 (State.versionOf (s.boot.staged.bind fun b => s.slotOf b))))

/-- Commands that set one value of the device (13, table; 14 R547, 15 R569, 16 R591, R595, R611, R615; 11 R413): the value
and the answer, and nothing else. POWER_CAP keeps the written value and acts with it limited (R591). The places of the
parameters are the model's (assumption 30). -/
def Obligations.SettingsTaken : Prop :=
  ∀ s : State,
    let u := s.clearOuts
    let p := s.par 0
    (s.serves 0 0x6A = true → p 4 4 < 2 ^ 16 →
      (s.func.started = 0 ∨ (s.reg Reg.PWR_ENVELOPE).toNat ≤ min 60000 (max 10000 (p 4 4))) →
      exec (.powerCap 0) s = .next ((u.setReg Reg.PWR_CAP (BitVec.ofNat 32 (p 4 4))).reply 0 rcOk [])) ∧
    (s.serves 0 0x69 = true → p 4 1 < 2 → s.func.started = 0 → s.func.proc = none →
      exec (.detMode 0) s = .next ((u.setReg Reg.DET_STRICT (setBits (s.reg Reg.DET_STRICT) 0 0 (p 4 1))).reply 0 rcOk [])) ∧
    (s.serves 0 0x4A = true → p 4 1 ∈ [0, 3, 6, 25, 50] → (∀ f, s.img.file = some f → p 4 1 ∈ f.levels) →
      exec (.checkLevel 0) s = .next ({ u with flt := { s.flt with checkNext := p 4 1 } }.reply 0 rcOk [])) ∧
    (∀ b, s.serves 0 0x71 = true → s.boot.staged = some b → s.slotValid (s.slotOf b) = true →
      exec (.fwActivate 0) s = .next ({ u with boot := { s.boot with preferB := b } }.reply 0 rcOk [])) ∧
    (s.serves 0 0x78 = true → (p 4 1 = 1 ∨ p 4 1 = 2) →
      exec (.deviceReset 0) s = .next ({ u with boot := { s.boot with resetReq := some (p 4 1) } }.reply 0 rcOk [])) ∧
    (s.serves 0 0x61 = true → p 4 1 < 64 → p 5 4 < 2 ^ 18 → p 9 4 < 2 ^ 18 → p 14 1 < 2 →
      exec (.fabricRoute 0) s = .next ({ u with
        ctl := (s.ctl.setArr bankRouteBase (p 4 1) (BitVec.ofNat 32 (p 5 4 + p 14 1 * 2 ^ 31))).setArr bankRouteMask (p 4 1)
          (BitVec.ofNat 32 (p 9 4 + p 13 1 * 2 ^ 24)) }.reply 0 rcOk [])) ∧
    (s.serves 0 0x51 = true →
      exec (.telemetryPeriod 0) s = .next ({ u with sched := { s.sched with
        tele := (s.sched.tele.filter fun (t : Telemetry) => t.dest != p 10 8)
          ++ (if p 4 4 = 0 ∨ p 8 2 = 0 then [] else [(⟨p 4 4, p 8 2, p 8 2, p 10 8, 0⟩ : Telemetry)]) } }.reply 0 rcOk [])) ∧
    (s.serves 0 0x59 = true → ∃ t : State, exec (.timeSource 0) s = .next t ∧
      t.reg Reg.TIME_PTP_CFG = BitVec.ofNat 32 (p 4 4) &&& 0xFFFFFFF3 ∧
      (∀ k, k < 8 → tget (fun _ => 0) t.time.portDelay k = BitVec.ofNat 32 (p (8 + 4 * k) 4)) ∧
      { t.time with portDelay := s.time.portDelay } = s.time ∧ (t.mailbox 0).st = 2 ∧
      (∀ a, a ≠ Reg.TIME_PTP_CFG → t.reg a = s.reg a) ∧ t.mem = s.mem ∧ t.cores = s.cores)

/-- BKW_CTRL, BKW_CACHE and BKW_REFSIG (13, table; 09 R329, R362): Wellhead writes the registers named. BKW_CACHE acts only
while the cache is free and empties it; BKW_CTRL writes the values that its mask picks. -/
def Obligations.BackwaterSettingsTaken : Prop :=
  ∀ s : State,
    let p := s.par 0
    let w (i : Nat) : Word := BitVec.ofNat 32 (p i 4)
    (s.serves 0 0x45 = true → s.cacheFree = true → ∃ t : State, exec (.bkwCache 0) s = .next t ∧
      t.reg Reg.BKW_CACHE_BASE = w 4 &&& 0x7FFFFF ∧ t.reg Reg.BKW_CACHE_SIZE = w 8 &&& 0x3FFFFF ∧
      t.bkw = { s.bkw with recs := [], occasions := [], wp := 0 } ∧ t.reg Reg.BKW_OLDEST_EPOCH = s.reg Reg.BKW_EPOCH ∧
      (t.mailbox 0).st = 2 ∧ t.mem = s.mem) ∧
    (s.serves 0 0x45 = true → s.cacheFree = false →
      exec (.bkwCache 0) s = .next (s.clearOuts.reply 0 rcState [])) ∧
    (s.serves 0 0x46 = true → ∃ t : State, exec (.bkwRefsig 0) s = .next t ∧
      (∀ i, i < 4 → t.reg (Reg.BKW_REFSIG0 + 4 * i) = w (4 + 4 * i) &&& 0x8FFFFF00) ∧
      (∀ a, a ∉ [Reg.BKW_REFSIG0, Reg.BKW_REFSIG1, Reg.BKW_REFSIG2, Reg.BKW_REFSIG3] → t.reg a = s.reg a) ∧
      (t.mailbox 0).st = 2 ∧ t.bkw = s.bkw ∧ t.mem = s.mem) ∧
    (s.serves 0 0x44 = true → p 4 4 < 32 → bitOf (p 4 4) 0 = false → ∃ t : State, exec (.bkwCtrl 0) s = .next t ∧
      t.reg Reg.BKW_CTRL = s.reg Reg.BKW_CTRL ∧ t.bkw = s.bkw ∧ (t.mailbox 0).st = 2 ∧
      t.reg Reg.BKW_CAPCFG = (if bitOf (p 4 4) 1 then w 12 &&& 0xFFFF1F else s.reg Reg.BKW_CAPCFG) ∧
      t.reg Reg.BKW_REPLAY_CFG = (if bitOf (p 4 4) 2 then w 16 &&& 0xF0F else s.reg Reg.BKW_REPLAY_CFG) ∧
      t.reg Reg.BKW_EPOCH_LEN = (if bitOf (p 4 4) 3 then w 20 else s.reg Reg.BKW_EPOCH_LEN) ∧
      t.reg Reg.BKW_SWAP_LEAD = (if bitOf (p 4 4) 4 then w 24 else s.reg Reg.BKW_SWAP_LEAD)) ∧
    (s.serves 0 0x44 = true → p 4 4 = 1 → bitOf (p 8 4) 1 = s.bkwCtl 1 → ∃ t : State, exec (.bkwCtrl 0) s = .next t ∧
      t.reg Reg.BKW_CTRL = w 8 &&& 0xB ∧ t.bkw = { s.bkw with advPend := s.bkw.advPend || bitOf (p 8 4) 2 } ∧
      (t.mailbox 0).st = 2)

/-- Commands that set tables: ATU contexts and cached translations (13 R489, R491), budgets (14 R536, R541: in force from the
next period start on), carriers, the lease pool, basins and rings (13 R506, R523). Each table holds what the parameters name,
and every other entry what it held. The places of the parameters are the model's (assumption 30). -/
def Obligations.TablesTaken : Prop :=
  ∀ (s : State) (m : Fin 9) (rows : List BudgetRow),
    let u := s.clearOuts
    let p := s.par 0
    let q := s.par m.val
    (s.serves 0 0x34 = true → p 4 1 < 9 → p 5 1 < 2 → p 6 8 % 16384 = 0 →
      exec (.atuContext 0) s = .next ({ u with atu := {
        ctx := tput (fun _ => 0) s.atu.ctx (p 4 1) (if p 5 1 = 1 then 2 ^ 64 + p 6 8 else 0)
        cache := s.atu.cache.filter fun e => !(e.slice == p 4 1) } }.reply 0 rcOk [])) ∧
    (∀ slice addr n : Nat, s.serves m.val 0x35 = true → slice < 16 → addr + n ≤ 2 ^ 41 →
      (if m.val = 0 then p 4 1 = slice ∧ p 5 8 = addr ∧ p 13 8 = n
        else slice = m.val - 1 ∧ q 4 8 = addr ∧ q 12 8 = n) →
      ∃ t : State, exec (.atuInval m) s = .next t ∧ t.atu.ctx = s.atu.ctx ∧ (t.mailbox m.val).st = 2 ∧ t.mem = s.mem ∧
        ∀ e, e ∈ t.atu.cache ↔ e ∈ s.atu.cache ∧ ¬(e.slice = slice ∧
          (n = 0 ∨ (e.vpage * 2 ^ (39 - 9 * e.level) < addr + n ∧ addr < (e.vpage + 1) * 2 ^ (39 - 9 * e.level))))) ∧
    (s.serves 0 0x68 = true → s.budgetOk rows = true → ∃ t : State, exec (.budgetSet 0 rows) s = .next t ∧
      t.sched = s.sched ∧ (t.mailbox 0).st = 2 ∧ t.mem = s.mem ∧
      ∀ (a : Fin 6) (k : Fin 5), t.ctl.arr bankMin (a.val + k.val * 16) =
          (match rows.reverse.find? fun r => r.activity == a && r.kind == k with
            | some r => BitVec.ofNat 32 r.min
            | none => s.ctl.arr bankMin (a.val + k.val * 16)) ∧
        t.ctl.arr bankMax (a.val + k.val * 16) =
          (match rows.reverse.find? fun r => r.activity == a && r.kind == k with
            | some r => BitVec.ofNat 32 r.max
            | none => s.ctl.arr bankMax (a.val + k.val * 16))) ∧
    (s.serves 0 0x19 = true → p 4 1 < 16 → s.carrierRuns (p 4 1) = false → s.func.proc = none →
      exec (.carrierRemove 0) s = .next ({ u with func := { s.func with
        staged := tdel s.func.staged (p 4 1), applied := tdel s.func.applied (p 4 1)
        refused := s.func.refused.filter fun k => decide (k ≠ p 4 1) } }.reply 0 rcOk [])) ∧
    (s.serves 0 0x60 = true → p 4 1 = 1 → p 5 4 + p 9 4 ≤ 2 ^ 18 → p 9 4 ≠ 0 → p 13 4 ≠ 0 → s.fabric = none →
      exec (.fabricLease 0) s = .next ({ u with trib := { s.trib with
        service := true, poolBase := p 5 4, poolCount := p 9 4, poolMs := p 13 4
        table := s.trib.table.filter fun e => decide (p 5 4 ≤ e.2 ∧ e.2 < p 5 4 + p 9 4) } }.reply 0 rcOk [])) ∧
    (s.serves 0 0x60 = true → p 4 1 = 0 →
      exec (.fabricLease 0) s = .next ({ u with trib := { s.trib with service := false, open_ := [] } }.reply 0 rcOk [])) ∧
    (s.serves 0 0x28 = true → p 4 1 < 8 → p 5 1 < 2 → (s.basin (p 4 1)).st ≠ 2 → ∃ t : State,
      exec (.basinConfig 0) s = .next t ∧
      t.basin (p 4 1) = { s.basin (p 4 1) with st := p 5 1, carriers := p 6 2, catchments := p 8 32 } ∧
      t.basinOn (p 4 1) = (p 5 1 == 1) ∧ (∀ b, b < 8 → b ≠ p 4 1 → t.basin b = s.basin b ∧ t.basinOn b = s.basinOn b) ∧
      (t.mailbox 0).st = 2 ∧ t.mem = s.mem)

/-- RING_CONFIG (13 R506): a disabled ring takes base, size, notify address and data, with both indices 0, and size 0 disables
a ring; no other ring changes. Completions that wait enter a completion ring that has come up (R510), so that ring's clause is
for a basin with none waiting. A base that is not aligned to the ring's size answers BAD_PARAM. -/
def Claims.RingConfigured : Prop :=
  ∀ (s : State) (m : Fin 9),
    let q := s.par m.val
    let ring := q 4 1
    let k := q 5 1
    let base := q 6 8
    let size := (if ring = 5 then 8 else (if ring = 1 ∨ ring = 2 then 64 else 32) * 2 ^ k)
    s.serves m.val 0x30 = true → (if m.val = 0 then ring = 4 ∨ ring = 5 else ring = 5 ∨ ring < 4) →
    (ring = 3 → (s.basin (m.val - 1)).waiting = []) →
      (4 ≤ k → k ≤ 15 → (s.ringOf m.val ring).log2 = 0 → base % size = 0 → ∃ t : State,
        exec (.ringConfig m) s = .next t ∧ t.ringOf m.val ring = ⟨base, k, q 14 8, q 22 4, 0, 0⟩ ∧
        (t.mailbox m.val).st = 2 ∧ fieldAt (t.mailbox m.val).resp 1 1 = rcOk ∧
        (∀ (i : Fin 9) (r : Nat), ¬(i = m ∧ r = ring) → (if i.val = 0 then r = 4 ∨ r = 5 else r = 5 ∨ r < 4) →
          t.ringOf i.val r = s.ringOf i.val r) ∧ t.mem = s.mem ∧ t.host = s.host) ∧
      (k = 0 → ∃ t : State, exec (.ringConfig m) s = .next t ∧
        t.ringOf m.val ring = { s.ringOf m.val ring with log2 := 0 } ∧ (t.mailbox m.val).st = 2) ∧
      (4 ≤ k → k ≤ 15 → (s.ringOf m.val ring).log2 = 0 → base % size ≠ 0 →
        exec (.ringConfig m) s = .next (s.clearOuts.reply m.val rcBadParam []))

/-- Commands marked asynchronous (R498, R500): IMAGE_LOAD and FW_STAGE answer ACCEPTED and leave their work running, or STATE
while their opcode has work running; REMOTE_MBX reads its 64 bytes and posts them to the mailbox named. The end of the work
posts a type-1 admin event that names mailbox and SEQ, and FW_STAGE's firmware goes into the slot that does not run (16 R615). -/
def Claims.BackgroundWork : Prop :=
  ∀ (s : State) (d : FwSlot) (bs : List Byte),
    let u := s.clearOuts
    let work (op : Nat) : AsyncWork := ⟨op, 0, fieldAt (s.mailbox 0).latched 2 2, ((s.mailbox 0).latched.drop 4).take 60⟩
    (s.serves 0 0x70 = true → s.working 0x70 = false →
      exec (.fwStage 0) s = .next ({ u with async := s.async ++ [work 0x70] }.reply 0 rcAccepted [])) ∧
    (s.serves 0 0x70 = true → s.working 0x70 = true → exec (.fwStage 0) s = .next (u.reply 0 rcState [])) ∧
    (s.serves 0 0x10 = true → s.func.started = 0 → s.func.proc = none → s.working 0x10 = false →
      exec (.imageLoad 0) s = .next ({ u with async := s.async ++ [work 0x10] }.reply 0 rcAccepted [])) ∧
    (s.serves 0 0x62 = true → s.fabric.isSome = true → s.working 0x62 = false → s.par 0 4 4 < 2 ^ 18 → s.par 0 8 1 < 9 →
      s.isSelf (s.par 0 4 4) = false → State.readG reqWellhead 0 64 u (s.par 0 9 8) 64 = (u, bs, true) →
      exec (.remoteMbx 0) s = .next (({ u with async := s.async ++ [work 0x62] }.emit
        (.remoteCmd (s.par 0 4 4) (s.par 0 8 1) bs)).reply 0 rcAccepted [])) ∧
    (∀ w, s.ready = true → s.async = [w] → w.opcode = 0x70 → s.aeq.full = true → d.wellFormed = true →
      exec (.asyncCommandDone 0x70 (.fwStage (some d))) s = .next { u with
        async := [], aeqLost := s.aeqLost + 1
        boot := { s.boot with
          staged := some (!s.boot.runB)
          slotA := if s.boot.runB then some d else s.boot.slotA
          slotB := if s.boot.runB then s.boot.slotB else some d } }) ∧
    (∀ w, s.ready = true → s.async = [w] → w.opcode = 0x10 → s.aeq.full = true →
      exec (.asyncCommandDone 0x10 (.image none)) s = .next { u with async := [], aeqLost := s.aeqLost + 1 })

/-- Commands that read or write memory for the host: TELEMETRY writes its group's bytes, which are open, at the destination, to
memory of the device inside activity 5's allowance, and waits where that refuses it (14 R535, R538; assumption 25);
FAULT_LOG copies the retained entries from the oldest to the newest, counts them as copied and returns their number and
FAULT.LOG_OVF (15 R562); BKW_PERM takes the 4,096 bytes it reads; each answers HOST_FAULT where the access ends in error
(R503). -/
def Claims.MemoryCommands : Prop :=
  ∀ (s : State) (m : Fin 9),
    let u := s.clearOuts
    (s.serves m.val 0x50 = true → s.par m.val 4 2 < 32 → s.sched.teleWait ≠ some (s.reg Reg.SCHED_PERIOD) →
      let bs := Config.telemetryBytes (s.par m.val 4 2) s.freeCtr
      let v : State := { u with freeCtr := s.freeCtr + 1 }
      let dest := s.par m.val 6 8
      let sent (x : State) : State × Bool := State.writeG reqWellhead 0 bs.length x dest bs
      let answers (w : State × Bool) : Prop :=
        exec (.telemetry m) s = .next (w.1.reply m.val (if w.2 then rcOk else rcHostFault) []).settle
      (∀ a x, (s.place dest).1 = .mem a → v.chargeMem a bs.length 5 = some x → answers (sent x)) ∧
      ((∀ a, (s.place dest).1 ≠ .mem a) → answers (sent v)) ∧
      (∀ a, (s.place dest).1 = .mem a → v.chargeMem a bs.length 5 = none → ∃ t, exec (.telemetry m) s = .next t ∧
        t.sched = { s.sched with teleWait := some (s.reg Reg.SCHED_PERIOD) } ∧ t.mailbox m.val = s.mailbox m.val ∧ t.wq = s.wq ∧
        t.reg Reg.SCHED_BG_DENY_CNT = s.reg Reg.SCHED_BG_DENY_CNT + 1 ∧ t.mem = s.mem ∧ t.host = s.host)) ∧
    (s.serves m.val 0x50 = true → s.par m.val 4 2 < 32 → s.sched.teleWait = some (s.reg Reg.SCHED_PERIOD) →
      exec (.telemetry m) s = .next u) ∧
    (s.serves 0 0x52 = true →
      let head := (s.reg Reg.FAULT_LOG_HEAD).toNat
      let slots := (List.range (min head 256)).map fun i => (head - min head 256 + i) % 256
      let bs := slots.flatMap fun k => (List.range 8).flatMap fun i => leBytes 4 (tget (fun _ => 0) s.ctl.log (k * 8 + i)).toNat
      let w := State.writeG reqWellhead 0 bs.length u (s.par 0 4 8) bs
      (w.2 = true → exec (.faultLog 0) s = .next ({ w.1 with ctl := { w.1.ctl with copied := slots } }.reply 0 rcOk
        (leBytes 4 (min head 256) ++ leBytes 4 (w.1.reg Reg.FAULT_LOG_OVF).toNat)).settle) ∧
      (w.2 = false → exec (.faultLog 0) s = .next (w.1.reply 0 rcHostFault []).settle)) ∧
    (s.serves 0 0x47 = true →
      let r := State.readG reqWellhead 0 4096 u (s.par 0 4 8) 4096
      (r.2.2 = true → exec (.bkwPerm 0) s = .next
        ({ r.1 with bkw := { r.1.bkw with perm := writeBytes [] 0 r.2.1 } }.reply 0 rcOk []).settle) ∧
      (r.2.2 = false → exec (.bkwPerm 0) s = .next (r.1.reply 0 rcHostFault []).settle))

/-- IMAGE_UNLOAD (13, table): with no function started, starting or being loaded, and no update under way, the image is gone,
its envelope too, and nothing else changes but the remaps that waited. -/
def Claims.ImageUnloaded : Prop :=
  ∀ s : State, s.serves 0 0x12 = true → s.bkw.regions = [] → s.flt.remaps = [] →
    (s.func.started = 0 → s.func.proc = none → s.working 0x10 = false →
      exec (.imageUnload 0) s = .next (({ s.clearOuts with
        img := ⟨none⟩, flt := { s.flt with taken := [] } }.setReg Reg.PWR_ENVELOPE 0).reply 0 rcOk [])) ∧
    (s.func.started ≠ 0 → exec (.imageUnload 0) s = .next (s.clearOuts.reply 0 rcState []))

/-- Background work, and the image that goes (13 R498, R500). -/
def Obligations.BackgroundWorkEnds : Prop := Claims.BackgroundWork ∧ Claims.ImageUnloaded


/-! ## Rings (13 R484, R507 to R511) -/

/-- Doorbells of rings (R507): a producer index is taken, or, where it would leave more than 2^k entries outstanding, ignored
with RING_ERR; a consumer index is taken. Neither acts on a basin that resets (R513), nor from a function that does not hold the
basin (R482, R483). -/
def Claims.RingDoorbells : Prop :=
  ∀ (s : State) (f : PFunc) (b : Fin 8) (ring : Fin 3) (v : BitVec 16), s.ready = true →
    let u := s.clearOuts
    let x := s.basin b.val
    let r := x.sq ring.val
    let mine := s.fnServes f (1 + b.val) = true
    let cq : Fin 9 := ⟨1 + b.val, by omega⟩
    (¬mine ∨ x.st = 2 → exec (.sqDoorbell f b ring v) s = .next u ∧ exec (.cqDoorbell f cq v) s = .next u) ∧
    (mine → x.st ≠ 2 → r.log2 ≠ 0 → (v.toNat + 65536 - r.cons) % 65536 ≤ 2 ^ r.log2 →
      exec (.sqDoorbell f b ring v) s = .next (u.setBasin b.val (x.setSq ring.val { r with prod := v.toNat }))) ∧
    (mine → x.st ≠ 2 → r.log2 = 0 ∨ 2 ^ r.log2 < (v.toNat + 65536 - r.cons) % 65536 →
      exec (.sqDoorbell f b ring v) s = .next (u.event Reg.HOST_STATUS Ev.HOST_RING_ERR).sortLog) ∧
    exec (.cqDoorbell .pf 0 v) s = .next { u with aeq := { s.aeq with cons := v.toNat } } ∧
    (mine → x.st ≠ 2 → exec (.cqDoorbell f cq v) s = .next (u.setBasin b.val { x with cq := { x.cq with cons := v.toNat } }))

/-- Rings come up and their doorbells are taken (13 R506, R507). -/
def Obligations.RingsConfiguredAndRung : Prop := Claims.RingConfigured ∧ Claims.RingDoorbells

/-- Fetches, waiting completions, shadows and MSI-X messages (R484, R508 to R510): a fetch takes every posted entry in ring order
and the consumer index to the producer's; the oldest waiting completion leaves the queue of a ring that has room; a shadow that is
due is written once, and no sooner than 1 µs (246 ticks) after the last; a message is sent, and its vector waits 2 µs (492 ticks)
for the next. -/
def Obligations.RingTraffic : Prop :=
  ∀ (s : State) (b : Fin 8) (ring : Fin 3) (f : PFunc) (vec : Fin 32), s.ready = true → (s.basin b.val).st ≠ 2 →
    let u := s.clearOuts
    let x := s.basin b.val
    let r := x.sq ring.val
    let n := (r.prod + 65536 - r.cons) % 65536
    let k := State.pfuncNum f * 32 + vec.val
    let rested (tab : Tab Nat) (i d : Nat) : Prop := ∀ t0, tfind tab i = some t0 → t0 + d ≤ s.time.ticks
    (r.log2 ≠ 0 → ∃ t : State, ∃ es : List (List Byte),
      exec (.ringFetch b ring) s = .next t ∧ es.length = n ∧
      (n ≠ 0 → (t.basin b.val).sq ring.val = { r with cons := r.prod } ∧ (t.basin b.val).shadowDue = true ∧
        (t.basin b.val).f0 = x.f0 ++ (if ring.val = 0 then es else []) ∧
        (t.basin b.val).f1 = x.f1 ++ (if ring.val = 1 then es else []) ∧
        (t.basin b.val).f2 = x.f2 ++ (if ring.val = 2 then es else []))) ∧
    (∀ e rest, x.waiting = e :: rest → x.dropped = 0 → x.cq.full = false → (u.dequeue b.val).settled = true →
      ∃ t : State, exec (.completionDequeue b) s = .next t ∧ (t.basin b.val).waiting = rest ∧
        (t.basin b.val).cq.prod = (x.cq.prod + 1) % 65536 ∧ (t.basin b.val).shadowDue = true) ∧
    (x.shadowDue = true → x.shadow.log2 ≠ 0 → rested s.ctl.shadowAt (b.val + 1) 246 →
      (u.writeShadow (b.val + 1)).settled = true → ∃ t : State,
      exec (.shadowWrite ⟨b.val + 1, by omega⟩) s = .next t ∧ (t.basin b.val).shadowDue = false ∧
      tfind t.ctl.shadowAt (b.val + 1) = some s.time.ticks ∧ (t.basin b.val).cq = x.cq) ∧
    (x.shadowDue = false ∨ ¬rested s.ctl.shadowAt (b.val + 1) 246 →
      exec (.shadowWrite ⟨b.val + 1, by omega⟩) s = .next u) ∧
    (s.aeqDue = true → s.aeqShadow.log2 ≠ 0 → rested s.ctl.shadowAt 0 246 → (u.writeShadow 0).settled = true → ∃ t : State,
      exec (.shadowWrite 0) s = .next t ∧ t.aeqDue = false ∧ t.aeq = s.aeq) ∧
    (s.pcieUp = true → k ∈ s.ctl.msix → rested s.ctl.msixAt k 492 →
      exec (.msixMessage f vec) s = .next { u with
        ctl := { s.ctl with msix := s.ctl.msix.filter fun j => decide (j ≠ k), msixAt := tset s.ctl.msixAt k s.time.ticks }
        outs := [.msix (k / 32) vec.val] })

/-! ## Functions (16 R620 to R626), time set, fences and basin resets -/

/-- FUNC_START, FUNC_CHANGE and FUNC_STOP (16 R620, R623, R624; 14 R547): once nothing refuses them, the command answers OK with
S and R and a procedure begins; nothing has stopped or started yet, and EFF is clear during a start and a change. S of a stop or a change is
the first slot boundary of the highest affected numerology at least 50 µs away. Without the receive set a start or a change
answers CONFIG_BAD (R626). -/
def Claims.FunctionCommandsAccepted : Prop :=
  ∀ s : State,
    let u := s.clearOuts
    let mask := s.par 0 4 4
    let mu := State.topMu (State.affected mask s.records)
    State.maskBad mask = false → s.func.proc = none →
    (s.serves 0 0x21 = true → s.func.started &&& mask = mask → ∃ p : Proc,
      exec (.funcStop 0) s = .next ({ u with func := { s.func with proc := some p } }.reply 0 rcOk
        (leBytes 4 p.s ++ leBytes 4 p.r)) ∧
      p.kind = 1 ∧ p.mask = mask ∧ p.phase = 0 ∧ p.s = s.time.boundary mu 50000 % 2 ^ 32) ∧
    (s.serves 0 0x22 = true → s.receiveSet = true → s.func.started &&& mask = mask → s.working 0x10 = false →
      s.startRefusal mask = none → ∃ (p : Proc) (t : State), exec (.funcChange 0) s = .next t ∧ t.func = { s.func with proc := some p } ∧
        p.kind = 2 ∧ p.mask = mask ∧ p.phase = 0 ∧ p.s = s.time.boundary mu 50000 % 2 ^ 32 ∧
        bitOf (t.reg Reg.DET_STRICT).toNat 8 = false ∧ (t.mailbox 0).st = 2 ∧ t.cores = s.cores ∧ t.mem = s.mem ∧ t.dfe = s.dfe) ∧
    (s.serves 0 0x20 = true → s.receiveSet = true → s.func.started &&& mask = 0 → s.working 0x10 = false →
      (bits mask 1 0 ≠ 0 → s.img.file.isSome = true) → s.startRefusal mask = none →
      ∃ (p : Proc) (t : State), exec (.funcStart 0) s = .next t ∧ t.func = { s.func with proc := some p } ∧
        p.kind = 0 ∧ p.mask = mask ∧ bitOf (t.reg Reg.DET_STRICT).toNat 8 = false ∧ (t.mailbox 0).st = 2 ∧
        t.cores = s.cores ∧ t.mem = s.mem ∧ t.dfe = s.dfe) ∧
    (s.receiveSet = false →
      (s.serves 0 0x20 = true → exec (.funcStart 0) s = .next (u.reply 0 rcConfigBad [])) ∧
      (s.serves 0 0x22 = true → exec (.funcChange 0) s = .next (u.reply 0 rcConfigBad [])))

/-- The boundaries of a procedure (16 R620, R622, R624): at S its functions stop being armed, and those of a FUNC_STOP are no
longer started; at R its functions run and the procedure is over. Before S or R nothing happens. What each boundary does
before its time is the model's reading (assumption 32). -/
def Claims.ProcedureBoundaries : Prop :=
  ∀ (s : State) (p : Proc), s.ready = true → s.func.proc = some p →
    (p.phase = 0 → s.reached p.s = true → ∃ t : State, exec .stopBoundary s = .next t ∧
      t.func.proc = some { p with phase := 1 } ∧
      t.func.started = (if p.kind = 1 then s.func.started &&& (2 ^ 16 - 1 - p.mask) else s.func.started) ∧
      (∀ f l, bitOf p.mask f = true → t.mayArm f l = false) ∧
      (bitOf p.mask 3 = true → t.dfe.tx.on = false) ∧ (bitOf p.mask 3 = false → t.dfe = s.dfe) ∧
      t.cores = s.cores ∧ t.mem = s.mem) ∧
    (p.phase = 0 → s.reached p.s = false → exec .stopBoundary s = .next s.clearOuts) ∧
    (p.phase = 2 → s.reached p.r = true → ∃ t : State, exec .restartBoundary s = .next t ∧
      t.func = { s.func with proc := none, started := s.func.started ||| p.mask } ∧ t.cores = s.cores ∧ t.mem = s.mem ∧
      t.dfe = s.dfe) ∧
    (p.phase = 2 → s.reached p.r = false → exec .restartBoundary s = .next s.clearOuts)

/-- The apply phase (16 R621, R624; 12 R455, R456): a FUNC_STOP ends there and its functions' cores are to be switched off; a
start or a change waits for R; a TIME_SET's step is taken at the next tick, with every gate disarmed, where no started
direction or fronthaul port stands in its way. That a FUNC_STOP ends there is the model's reading (assumption 32). -/
def Claims.ApplyPhaseActs : Prop :=
  ∀ (s : State) (p : Proc) (bad : List (Fin 65)), s.ready = true → s.func.proc = some p → p.phase = 1 →
    (s.reached p.ap = false → exec (.applyPhase bad) s = .next s.clearOuts) ∧
    (s.reached p.ap = true → (s.clearOuts.atApply (bad.map (·.val))).handled = true → ∃ t : State,
      exec (.applyPhase bad) s = .next t ∧
      (p.kind = 1 → t.func.proc = none ∧ t.func.started = s.func.started ∧
        ∀ f c, f < 2 → bitOf p.mask f = true → c ∈ s.funcCores f →
          (∀ g, g < 2 → bitOf s.func.started g = true → c ∉ s.funcCores g) → c ∈ t.pwr.dying) ∧
      (p.kind = 0 ∨ p.kind = 2 → t.func.proc = some { p with phase := 2 } ∧ t.func.started = s.func.started ∧
        t.flt.check = s.flt.checkNext))

/-- A procedure from its stop boundary to its end (16 R620 to R624). -/
def Obligations.ProceduresRun : Prop := Claims.ProcedureBoundaries ∧ Claims.ApplyPhaseActs

/-- TIME_SET (12 R456): accepted, it begins a procedure of every started function that carries the time to set, and its answer
waits for the apply phase; nanoseconds of a second or more are BAD_PARAM. -/
def Claims.TimeSetAccepted : Prop :=
  ∀ s : State, s.serves 0 0x58 = true →
    (s.par 0 12 4 < 1000000000 → s.par 0 16 1 < 2 → s.func.proc = none → ∃ p : Proc,
      exec (.timeSet 0) s = .next { s.clearOuts with func := { s.func with proc := some p } } ∧
      p.kind = 3 ∧ p.mask = s.func.started ∧ p.setSub = s.par 0 12 4 ∧
      p.setNs = (s.par 0 4 8 * 1000000000 + s.par 0 12 4) % 2 ^ 32 ∧ (s.par 0 16 1 = 0 → p.setSfn =
        (s.par 0 4 8 * 100 + s.par 0 12 4 / 10000000) % 1024)) ∧
    (1000000000 ≤ s.par 0 12 4 → exec (.timeSet 0) s = .next (s.clearOuts.reply 0 rcBadParam []))

/-- Commands that begin a procedure (16 R620 to R624; 12 R456). -/
def Obligations.FunctionAndTimeCommands : Prop := Claims.FunctionCommandsAccepted ∧ Claims.TimeSetAccepted

/-- FENCE and UNFENCE (15 R567, R568): FENCE puts a unit in service out of it, a core at once halted for good and its
transfers dropped; UNFENCE returns a unit that FENCE put out, and answers FENCED_BY_FAULT for one that a fault did, changing
nothing. That FENCE of a unit other than a core answers NO_SPARE is the model's reading (assumption 63). -/
def Claims.FenceCommands : Prop :=
  ∀ s : State,
    let u := s.clearOuts
    let kind := s.par 0 4 1
    let num := s.par 0 5 2
    s.unitExists kind num = true →
    (s.serves 0 0x48 = true → s.outOfService kind num = false → (u.fenceUnit kind num 2).handled = true → ∃ t : State,
      exec (.fence 0) s = .next t ∧ t.fence kind num = 2 ∧ (t.mailbox 0).st = 2 ∧
      (kind = 0 → (t.core num).run = .fenced ∧ ((t.core num).si ++ (t.core num).so).all (·.dropped) = true ∧
        ∀ q, q ≠ num → (t.core q).run = (s.core q).run) ∧
      (1 ≤ kind → kind ≤ 5 → fieldAt (t.mailbox 0).resp 1 1 = rcNoSpare)) ∧
    (s.serves 0 0x49 = true → s.fence kind num = 1 → exec (.unfence 0) s = .next (u.reply 0 rcFencedByFault [])) ∧
    (s.serves 0 0x49 = true → s.fence kind num = 2 → (s.flt.remaps.all fun r => r.phys != num) = true →
      (fencingBits.all fun x => !(x.2.2.1 == kind && x.2.2.2 == num) || !bitOf (s.reg x.1).toNat x.2.1) = true → ∃ t : State,
      exec (.unfence 0) s = .next t ∧ t.fence kind num = 0 ∧ (t.mailbox 0).st = 2 ∧ fieldAt (t.mailbox 0).resp 1 1 = rcOk ∧
      ∀ k n, n < 64 → num < 64 → (k ≠ kind ∨ n ≠ num) → t.fence k n = s.fence k n)

/-- REMAP (15 R564 to R567): the first remap that waits gives the fenced core's logical number to the first listed spare that
is enabled, unfenced and not taken, and the spare's old number to no core; with no such spare NO_SPARE is set and the number
stays. -/
def Claims.RemapMovesNumber : Prop :=
  ∀ (s : State) (p : Fin 52) (launch : Option (Word × Fin 4096)) (r : Remap) (rest : List Remap),
    s.ready = true → s.flt.remaps = r :: rest → r.phys = p.val → (s.clearOuts.remapCore p.val launch).handled = true →
    (∀ j q, s.spareFor r.logical = some (j, q) → q < 52 → j ≠ r.logical → ∃ t : State, exec (.remap p launch) s = .next t ∧
      t.physOf r.logical = some q ∧ t.physOf j = none ∧ t.flt.remaps = rest ∧ q ∈ t.flt.taken ∧
      t.reg Reg.FAULT_REMAP_CNT = s.reg Reg.FAULT_REMAP_CNT + 1) ∧
    (s.spareFor r.logical = none → ∃ t : State, exec (.remap p launch) s = .next t ∧ t.flt.remaps = rest ∧
      t.l2p = s.l2p ∧ bitOf (t.reg Reg.FAULT_STATUS).toNat Ev.FAULT_NO_SPARE = true)

/-- A failed domain (16 R589): DOMAIN_FAIL is set; a failed core or port-group domain fences its unit or units, a failed pool
its cluster, a failed Weir domain its units; a failed DRAM domain is a grave fault; a failed host domain leaves the host
interface down. -/
def Claims.DomainFailFences : Prop :=
  ∀ (s : State) (d : Fin 65), s.ready = true → (s.clearOuts.domainFail d.val).handled = true → ∃ t : State,
    exec (.domainFail d) s = .next t ∧
    (d.val ≠ 63 → bitOf (t.reg Reg.PWR_STATUS).toNat Ev.PWR_DOMAIN_FAIL = true ∧ t.mode = .running) ∧
    (d.val < 52 → t.fence 0 d.val ≠ 0 ∨ s.fence 5 (d.val / 13) ≠ 0) ∧
    (52 ≤ d.val → d.val < 56 → t.fence 5 (d.val - 52) ≠ 0) ∧
    (56 ≤ d.val → d.val < 60 → (∀ e, e < 6 → t.fence 1 ((d.val - 56) * 6 + e) ≠ 0) ∧ t.fence 3 (d.val - 56) ≠ 0) ∧
    (61 ≤ d.val → d.val < 63 → ∀ i, i < 4 → t.fence 4 ((d.val - 61) * 4 + i) ≠ 0) ∧
    (d.val = 63 → t.mode = .spill) ∧ (d.val = 64 → t.boot.hostUp = false)

/-- Units out of service, and the numbers that move (15 R563 to R568; 16 R589). -/
def Obligations.UnitsLeaveService : Prop := Claims.FenceCommands ∧ Claims.RemapMovesNumber ∧ Claims.DomainFailFences

/-- A basin reset (13 R513 to R516): the basin is resetting from the command on, its fetched entries and its jobs are gone, no
strict mode is in force, and the answer waits; when its tagged work is done, the basin is enabled or disabled as BASIN_EN says,
its rings are disabled, HOST.RESET_TIME holds the duration in ns, of whole ticks, and the command is answered. -/
def Obligations.BasinResets : Prop :=
  ∀ (s : State) (b : Fin 8),
    let u := s.clearOuts
    let ns := (s.time.ticks - (s.basin b.val).resetAt) * 3125 / 768 % 2 ^ 18
    (s.serves 0 0x29 = true → s.par 0 4 1 = b.val → (s.basin b.val).st ≠ 2 →
      (u.startBasinReset b.val (some (0, fieldAt (s.mailbox 0).latched 2 2))).handled = true → ∃ t : State,
      exec (.basinReset 0) s = .next t ∧ (t.basin b.val).st = 2 ∧ (t.basin b.val).resetAt = s.time.ticks ∧
      (t.basin b.val).f0 = [] ∧ (t.basin b.val).f1 = [] ∧ (t.basin b.val).f2 = [] ∧
      (∀ j ∈ t.sched.jobs, j.basin ≠ b.val) ∧ bitOf (t.reg Reg.DET_STRICT).toNat 8 = false ∧ (t.mailbox 0).st = 1) ∧
    (s.ready = true → (s.basin b.val).st = 2 → s.tagCnt b.val ≠ 0 → s.time.ticks < (s.basin b.val).resetAt + 49152 →
      exec (.basinResetEnd b) s = .next u) ∧
    (s.ready = true → (s.basin b.val).st = 2 → s.tagCnt b.val = 0 → (u.endBasinReset b.val).handled = true →
      ∃ t : State, exec (.basinResetEnd b) s = .next t ∧
      (t.basin b.val).st = (if s.basinOn b.val then 1 else 0) ∧ (t.basin b.val).sq0 = Ring.reset ∧
      (t.basin b.val).sq1 = Ring.reset ∧ (t.basin b.val).sq2 = Ring.reset ∧ (t.basin b.val).cq = Ring.reset ∧
      t.reg Reg.HOST_RESET_TIME = BitVec.ofNat 32 ns ∧ (t.basin b.val).nextJob = (s.basin b.val).nextJob)

/-! ## Memory and arbiters (07) -/

/-- DRAM and pool memory (07 R239, R241, R244): a read after a write gives the written bytes, and every other byte as before;
a protected word that a write covers whole is poisoned no longer, one that it covers in part stays as it was, and so does
every word outside; a read is clean exactly when no poisoned word lies in it; and a write keeps the canonical form. What an
unlisted byte reads as is the model's choice (assumption 3), and nothing here rests on it. -/
def Claims.MemoryWordRules : Prop :=
  ∀ (s : State) (a : Nat) (bs : List Byte), bs ≠ [] →
    let t := s.writeMem a bs
    (∀ i, tget zeroByte t.mem i = if a ≤ i ∧ i < a + bs.length then bs.getD (i - a) 0 else tget zeroByte s.mem i) ∧
    (∀ k, k ∈ t.poison ↔ k ∈ s.poison ∧ ¬(State.protKey a ≤ k ∧ k ≤ State.protKey (a + bs.length - 1) ∧ k % 2 = State.protKey a % 2 ∧
      a ≤ k / 2 * State.protSize a ∧ k / 2 * State.protSize a + State.protSize a ≤ a + bs.length)) ∧
    (∀ n, 0 < n → ((s.readMem a n).2.2 = true ↔
      ∀ k ∈ s.poison, ¬(State.protKey a ≤ k ∧ k ≤ State.protKey (a + n - 1) ∧ k % 2 = State.protKey a % 2))) ∧
    (s.memWf = true → t.memWf = true) ∧ t.cores = s.cores ∧ t.host = s.host ∧ (s.readMem a bs.length).1.mem = s.mem

/-- A row is presented as bursts (R255): each lies in one bank or channel pair, is at most 1 KiB of a pool or 2 KiB of DRAM long, lies
inside the row and carries the row's bytes there. -/
def Claims.RowsSplit : Prop :=
  ∀ (s : State) (b : Burst) (x : Nat × Burst), x ∈ s.splitRow b →
    s.arbOf x.2.addr = some x.1 ∧ b.addr ≤ x.2.addr ∧ x.2.addr + x.2.len ≤ b.addr + b.len ∧
    x.2.len ≤ (if b.addr < 0x001000000000 then 2048 else 1024) ∧ x.2.data = (b.data.drop (x.2.addr - b.addr)).take x.2.len ∧
    x.2.port = b.port ∧ x.2.write = b.write ∧ x.2.activity = b.activity

/-- A grant of an idle arbiter (R256; 14 R537): among foreground bursts that wait or arrive, with no minimum owed, one of the
highest class is granted; it holds the bank or pair for its cycles, and its full length counts to its activity. Memory is
untouched. That a port waits with one burst at a time is the model's reading (assumption 37). -/
def Claims.ArbiterGrantsHighestClass : Prop :=
  ∀ (s : State) (a : Fin 72) (arriving : List Burst), s.ready = true →
    let x := s.arb a.val
    let class_ (b : Burst) : Nat := s.portClass a.val b.port.val
    x.busy = none → x.queue = [] → s.owed (State.arbKind a.val) (State.arbUnit a.val) = 0 →
    (∀ r ∈ x.wait, r.b.activity.val = 0 ∧ r.b.port.val < portsOf a.val) →
    (∀ b ∈ arriving, s.arbOf b.addr = some a.val ∧ s.splitRow b = [(a.val, b)] ∧ b.port.val < portsOf a.val ∧
      b.port.val ≠ scrubPort a.val ∧ b.activity.val = 0) →
    x.wait ≠ [] ∨ arriving ≠ [] →
    ∃ (t : State) (r : ArbReq), exec (.arbiterGrant a arriving none) s = .next t ∧
      (t.arb a.val).busy = some (r, x.cyc + holdOf a.val r.b - 1) ∧ (t.arb a.val).cyc = x.cyc + 1 ∧
      (r ∈ x.wait ∨ r.b ∈ arriving) ∧ (∀ q ∈ x.wait, class_ q.b ≤ class_ r.b) ∧ (∀ b ∈ arriving, class_ b ≤ class_ r.b) ∧
      t.used (State.arbKind a.val) (State.arbUnit a.val) 0
        = s.used (State.arbKind a.val) (State.arbUnit a.val) 0 + holdOf a.val r.b ∧
      t.mem = s.mem ∧ t.cores = s.cores ∧ t.ctl = s.ctl

/-- While strict mode is in force no burst is revoked (R259): the burst in progress goes on, whatever begins to wait. -/
def Claims.StrictModeNeverRevokes : Prop :=
  ∀ (s : State) (a : Fin 72) (arriving : List Burst) (r : ArbReq) (last : Nat), s.ready = true → s.strictEff = true →
    (s.arb a.val).busy = some (r, last) → ∃ t : State, exec (.arbiterGrant a arriving none) s = .next t ∧
      (t.arb a.val).busy = some (r, last) ∧ (t.arb a.val).cyc = (s.arb a.val).cyc + 1 ∧ t.sched.choices = s.sched.choices ∧
      t.mem = s.mem

/-- Out of strict mode a foreground burst that began to wait in the cycle before at a higher class revokes the foreground burst in
progress, which waits again for its first byte; what a write burst has written stands, and the choice and the revocation are
counted (R257, R258; 14 R549). The decision between the two is read from R537 (assumption 37). -/
def Claims.HigherClassRevokes : Prop :=
  ∀ (s : State) (a : Fin 72) (r q : ArbReq) (last : Nat), s.ready = true → s.strictEff = false →
    let x := s.arb a.val
    let cnt := if 64 ≤ a.val then Reg.DRAM_REVOKE_CNT else Reg.POOL_REVOKE_CNT (a.val / 16)
    x.busy = some (r, last) → x.wait = [q] → x.queue = [] → x.cyc ≤ last → x.cls < s.portClass a.val q.b.port.val → x.cls < q.cls →
    s.portClass a.val r.b.port.val ≤ x.cls → q.b.port.val < portsOf a.val → r.b.port ≠ q.b.port →
    q.since + 1 = x.cyc → x.from_ < q.since → q.b.activity.val = 0 → r.b.activity.val = 0 →
    s.owed (State.arbKind a.val) (State.arbUnit a.val) = 0 →
    ∃ t : State, exec (.arbiterGrant a [] none) s = .next t ∧
      (t.arb a.val).busy = some (q, x.cyc + holdOf a.val q.b - 1) ∧ (t.arb a.val).wait = [r] ∧
      t.sched.choices = (s.sched.choices + 1) % 2 ^ 64 ∧ t.reg cnt = s.reg cnt + 1 ∧
      t.mem = if r.b.write then writeBytes s.mem r.b.addr (r.b.data.take (writtenBy a.val (x.cyc - x.from_) r.b)) else s.mem

/-- A failure of a pool bank, its arbiter or its router sets its bit of the cluster's collector and fences the cluster (15 R563,
table "POOL.FAULTWORD fields"); the collector has none of a DRAM arbiter. -/
def Claims.PoolFailuresFence : Prop :=
  ∀ (s : State) (a : Fin 72) (arriving : List Burst) (f : PoolFail), s.ready = true →
    let bit := match f with
      | .bank => 8 + a.val % 16
      | .arbiter => 2
      | .router => 3
    (a.val < 64 → ∃ t : State, exec (.arbiterGrant a arriving (some f)) s = .next t ∧ t.fence 5 (a.val / 16) ≠ 0 ∧
      bitOf (t.reg (Reg.POOL_FAULTWORD (a.val / 16))).toNat bit = true) ∧
    (64 ≤ a.val → exec (.arbiterGrant a arriving (some f)) s = .next s.clearOuts)

/-- Grants, revocations and failures of the memory arbiters (07 R255 to R260; 14 R534 to R549; 15 R563). -/
def Obligations.PoolArbitrated : Prop :=
  Claims.RowsSplit ∧ Claims.ArbiterGrantsHighestClass ∧ Claims.StrictModeNeverRevokes ∧ Claims.HigherClassRevokes ∧
    Claims.PoolFailuresFence

/-- BURST_COMPLETE (R243, R244, R251, R255): a burst whose last data cycle is over ends. A write's bytes stand at its addresses and
nowhere else; a read changes no byte, counts a corrected word, and a word found uncorrectable is as stored and poisoned. With no
burst, with one not yet over, and with a scrubber's, nothing happens. A read burst's error is recorded by its requester
(assumption 25). -/
def Claims.BurstEnds : Prop :=
  ∀ (s : State) (a : Fin 72) (us : List MemUpset), s.ready = true →
    let x := s.arb a.val
    let u := s.clearOuts
    (x.busy = none → exec (.burstComplete a us) s = .next u) ∧
    ∀ (r : ArbReq) (last : Nat), x.busy = some (r, last) →
      (x.cyc ≤ last ∨ r.b.port.val = scrubPort a.val → exec (.burstComplete a us) s = .next u) ∧
      (last < x.cyc → r.b.port.val ≠ scrubPort a.val →
        (r.b.write = true → r.b.data.length = r.b.len → ∃ t : State,
          exec (.burstComplete a []) s = .next t ∧ (t.arb a.val).busy = none ∧
          (∀ i, tget zeroByte t.mem i = if r.b.addr ≤ i ∧ i < r.b.addr + r.b.len then r.b.data.getD (i - r.b.addr) 0
            else tget zeroByte s.mem i) ∧ t.cores = s.cores ∧ t.host = s.host) ∧
        (r.b.write = false →
          exec (.burstComplete a []) s = .next (u.setArb a.val { x with busy := none, closing := false }) ∧
          (∀ off, off < r.b.len →
            let at_ := r.b.addr + off
            let cnt := if at_ < 0x001000000000 then Reg.DRAM_CORR_CNT else Reg.POOL_CORR_CNT ((at_ - 0x100000000000) / 0x1000000)
            ∃ t : State, exec (.burstComplete a [.corrected off]) s = .next t ∧ (t.arb a.val).busy = none ∧
              t.reg cnt = s.reg cnt + 1 ∧ t.mem = s.mem ∧ t.poison = s.poison ∧ t.cores = s.cores) ∧
          (∀ off stored, off < r.b.len →
            let z := State.protSize (r.b.addr + off)
            let base := (r.b.addr + off) / z * z
            ∃ t : State, exec (.burstComplete a [.uncorrectable off stored]) s = .next t ∧ (t.arb a.val).busy = none ∧
              State.protKey (r.b.addr + off) ∈ t.poison ∧ (∀ k ∈ s.poison, k ∈ t.poison) ∧ t.cores = s.cores ∧
              ∀ i, tget zeroByte t.mem i = if base ≤ i ∧ i < base + min z stored.length then stored.getD (i - base) 0
                else tget zeroByte s.mem i)))

/-- STARVED (R261, R263): a wait that has reached STARVE_LIMIT, which acts as at least 64, sets STARVED once and the bank's or
pair's information register; nothing else changes but the mark. -/
def Claims.StarvedOnce : Prop :=
  ∀ (s : State) (a : Fin 72) (port : Fin 32) (r : ArbReq), s.ready = true →
    let x := s.arb a.val
    let st := if 64 ≤ a.val then Reg.DRAM_STATUS else Reg.POOL_STATUS (a.val / 16)
    x.wait = [r] → x.busy = none → r.b.port.val = port.val →
    (r.starved = false → s.starveLimit a.val ≤ x.cyc - r.since → ∃ t : State, exec (.starved a port) s = .next t ∧
      (t.arb a.val).wait = [{ r with starved := true }] ∧ bitOf (t.reg st).toNat Ev.POOL_STARVED = true ∧ t.mem = s.mem ∧
      t.cores = s.cores ∧ 64 ≤ s.starveLimit a.val) ∧
    (r.starved = true ∨ x.cyc - r.since < s.starveLimit a.val → exec (.starved a port) s = .next s.clearOuts)

/-- Ends of bursts, and ports that wait too long. -/
def Obligations.BurstsEndOrStarve : Prop := Claims.BurstEnds ∧ Claims.StarvedOnce

/-- The scrubbers (R245, R252): inside the period's rate the next granule, or KiB of DRAM, is presented at the scrubber's port of the
arbiters under activity 3; once its cycles are over it has been read and the position moves on, with wrap-around, and counts to the
rate; at the rate nothing happens. A channel that asks for doubled refresh is noted once (R253). -/
def Claims.ScrubbersAdvance : Prop :=
  ∀ (s : State) (c : Fin 4) (ch : Fin 16), s.ready = true →
    let u := s.clearOuts
    let off := s.scrubAt c.val
    let addr := 0x100000000000 + c.val * 0x1000000 + off
    let bank := 16 * c.val + off / 0xC0000
    let kib := s.scrubAt 4 * 1024
    (off % 64 = 0 → off < 0xC00000 → s.fence 5 c.val = 0 →
      s.scrubAt (6 + c.val) < bits (s.reg (Reg.POOL_SCRUB_RATE c.val)).toNat 15 0 → s.scrubbing bank = false →
      exec (.poolScrubRead c []) s = .next (u.setArb bank { s.arb bank with
        queue := (s.arb bank).queue ++ [⟨29, addr, 64, false, [], 3⟩] })) ∧
    (∀ r last, (s.arb bank).busy = some (r, last) → last < (s.arb bank).cyc → r.b = ⟨29, addr, 64, false, [], 3⟩ →
      s.poisoned addr 64 = [] →
      exec (.poolScrubRead c []) s = .next (((u.setArb bank { s.arb bank with busy := none, closing := false }).setScrub c.val
        (if off + 64 = 0xC00000 then 0 else off + 64)).setScrub (6 + c.val) (s.scrubAt (6 + c.val) + 1))) ∧
    (s.scrubOver bank = none → bits (s.reg (Reg.POOL_SCRUB_RATE c.val)).toNat 15 0 ≤ s.scrubAt (6 + c.val) →
      exec (.poolScrubRead c []) s = .next u) ∧
    (bitOf (s.reg Reg.DRAM_SCRUB).toNat 31 = true → s.scrubAt 5 < bits (s.reg Reg.DRAM_SCRUB).toNat 15 0 → s.dramOn = true →
      (∀ p, p < 8 → s.scrubbing (64 + p) = false) → exec (.dramScrubRead []) s = .next (u.present ⟨13, kib, 1024, false, [], 3⟩)) ∧
    (∀ p r last, p < 8 → (s.arb (64 + p)).busy = some (r, last) → last < (s.arb (64 + p)).cyc → r.b = ⟨13, kib, 1024, false, [], 3⟩ →
      (∀ q, q < 8 → q ≠ p → s.scrubbing (64 + q) = false) →
      ({ u with arbs := tset u.arbs (64 + p) { s.arb (64 + p) with busy := none } } : State).scrubbing
        (64 + p) = false → s.poisoned kib 1024 = [] → ∃ t : State,
      exec (.dramScrubRead []) s = .next t ∧ (t.arb (64 + p)).busy = none ∧
      t.scrubAt 4 = (if s.dramTop ≤ kib + 1024 then 0 else s.scrubAt 4 + 1) ∧ t.scrubAt 5 = s.scrubAt 5 + 1 ∧
      t.reg Reg.DRAM_SCRUB_PASS = s.reg Reg.DRAM_SCRUB_PASS + (if s.dramTop ≤ kib + 1024 then 1 else 0) ∧
      t.mem = s.mem) ∧
    (s.dramOn = false → exec (.dramRefresh ch true) s = .next u ∧
      ((∀ p, p < 8 → s.scrubbing (64 + p) = false) → exec (.dramScrubRead []) s = .next u)) ∧
    (s.dramOn = true → ch.val / 2 ∈ s.dramPairs → ch.val ∉ s.refreshX2 → ∃ t : State,
      exec (.dramRefresh ch true) s = .next t ∧ t.refreshX2 = s.refreshX2 ++ [ch.val] ∧
      bitOf (t.reg Reg.DRAM_STATUS).toNat Ev.DRAM_REFRESH_X2 = true ∧ t.mem = s.mem) ∧
    (s.dramOn = true → ch.val / 2 ∈ s.dramPairs → exec (.dramRefresh ch false) s = .next
      { u with refreshX2 := s.refreshX2.filter fun k => decide (k ≠ ch.val) })

/-- Poisoned words and the scrubbers (07 R244 to R252). -/
def Obligations.MemoryGuarded : Prop := Claims.MemoryWordRules ∧ Claims.ScrubbersAdvance


/-! ## CSR space (17) -/

/-- Locks (R651, R653; 17 R638, R639): UNLOCK takes 0x0000_5A3C and opens its block's lock, any other value closes it, and a lock
closes when its 100 µs, 24,576 ticks, are over, and not before. A core's physical address range takes writes of Wellhead alone, and
none for a core that is fused off. Nothing else changes. (That the latest opening write counts is the model's reading, assumption
91.) -/
def Claims.LocksOpenAndClose : Prop :=
  ∀ (s : State) (path : Path) (off : BitVec 24) (v : Word) (k : Nat), s.ready = true →
    let b := csrAt s.enabled off.toNat
    let shut := s.ctl.locks.filter fun (j : Nat) => decide (j ≠ k)
    let taken : Prop := b.1 = .coreB → 0x200000 ≤ b.2.1 →
      path = .wellhead ∧ ∀ d ∈ s.fuses.disabled, b.2.1 ≠ 0x200000 + d.val * 0x1000
    s.accAt off.toNat = some .wo → s.lockKey b = some k →
    (taken → exec (.unlock path off v) s = .next { s.clearOuts with
      ctl := { s.ctl with
        locks := if v = 0x5A3C then shut ++ [k] else shut
        lockAt := if v = 0x5A3C then tset s.ctl.lockAt k s.time.ticks else s.ctl.lockAt } }) ∧
    (¬taken → exec (.unlock path off v) s = .next s.clearOuts) ∧
    (tget (fun _ => 0) s.ctl.lockAt k + 24576 ≤ s.time.ticks →
      exec (.lockTimeout off) s = .next { s.clearOuts with ctl := { s.ctl with locks := shut } }) ∧
    (s.time.ticks < tget (fun _ => 0) s.ctl.lockAt k + 24576 → exec (.lockTimeout off) s = .next s.clearOuts)

/-- CORE.CTRL (04 R160, table "CORE.CTRL"; 17 R652): with the core's lock open a write sets HALT as written, starts a core that
CTRL had halted when HALT is clear, takes SCRUB of a halted core, and closes the lock; with the lock closed it does nothing. No
other core and nothing else changes. -/
def Claims.CoreControlWritten : Prop :=
  ∀ (s : State) (path : Path) (sel : CoreSel) (on : Bool) (p : Nat), s.ready = true →
    let c := s.core p
    let shut : State := { s.clearOuts with ctl := { s.ctl with
      locks := s.ctl.locks.filter fun (j : Nat) => decide (j ≠ 2 ^ 24 + p) } }
    (match sel with
      | .logical k => k.val < s.enabled ∧ s.physOf k.val = some p
      | .physical q => q.val = p ∧ path = .wellhead ∧ ∀ d ∈ s.fuses.disabled, d.val ≠ p) →
    c.run ≠ .fenced → c.run ≠ .unpowered →
    (s.lockOpen (2 ^ 24 + p) = false →
      exec (.halt path sel on) s = .next s.clearOuts ∧ exec (.scrub path sel) s = .next s.clearOuts) ∧
    (s.lockOpen (2 ^ 24 + p) = true →
      exec (.halt path sel true) s = .next (shut.setCore p { c with haltReq := true }) ∧
      exec (.halt path sel false) s = .next (shut.setCore p { c with
        haltReq := false, run := if c.run = .halted .ctrl then .running else c.run }) ∧
      ((∃ why, c.run = .halted why) → exec (.scrub path sel) s = .next (shut.setCore p { c with haltReq := true, scrub := true })) ∧
      ((∀ why, c.run ≠ .halted why) → exec (.scrub path sel) s = .next (shut.setCore p { c with haltReq := true })))

/-- Keyed writes outside the cores (R652; 12 R454, R455; 07 R273; 11 R404, R447): with the lock closed nothing happens; with it
open the lock closes and GO waits for the next tick or is refused with STEP_REFUSED while a gate is armed or a direction or
fronthaul port is started; DRAM.CFG is taken while the DRAM is off and held off otherwise; a stopped port takes CP.CFG and starts
where its configuration allows it and the receive set is there, with its settings taken into force; a started port stops, its link
down and its frames to forward gone, and its group goes off with the last of its ports. -/
def Claims.KeyedWritesTaken : Prop :=
  ∀ (s : State) (path : Path) (port : Fin 8) (v : Word), s.ready = true →
    let k := port.val
    let u := s.clearOuts
    let shut (key : Nat) : State := { u with ctl := { s.ctl with locks := s.ctl.locks.filter fun (j : Nat) => decide (j ≠ key) } }
    let armed := (List.range 52).any fun p => (s.core p).gate.armed
    let cfg := v &&& 0x1FFE
    (s.lockOpen Reg.TIME_UNLOCK = false → exec (.go path v) s = .next u) ∧
    (s.lockOpen Reg.TIME_UNLOCK = true → bitOf v.toNat 0 = true → s.radioStarted = false → armed = false →
      exec (.go path v) s = .next { shut Reg.TIME_UNLOCK with time := { s.time with goPend := true } }) ∧
    (s.lockOpen Reg.TIME_UNLOCK = true → bitOf v.toNat 0 = true → s.radioStarted = true ∨ armed = true →
      exec (.go path v) s = .next ((shut Reg.TIME_UNLOCK).event Reg.TIME_STATUS Ev.TIME_STEP_REFUSED)) ∧
    (s.lockOpen Reg.DRAM_UNLOCK = false → exec (.dramCfgWrite path v) s = .next u) ∧
    (s.lockOpen Reg.DRAM_UNLOCK = true → s.dramOn = false →
      exec (.dramCfgWrite path v) s = .next ((shut Reg.DRAM_UNLOCK).setReg Reg.DRAM_CFG (v &&& 0x63))) ∧
    (s.lockOpen Reg.DRAM_UNLOCK = true → s.dramOn = true → exec (.dramCfgWrite path v) s = .next (shut Reg.DRAM_UNLOCK)) ∧
    (s.lockOpen (Reg.CP_UNLOCK k) = false →
      exec (.portStart path port v) s = .next u ∧ exec (.portStop path port v) s = .next u) ∧
    (s.lockOpen (Reg.CP_UNLOCK k) = true → bitOf v.toNat 0 = true → s.portOn k = false →
      let there := ((shut (Reg.CP_UNLOCK k)).setReg (Reg.CP_CFG k) cfg).receiveSet
      (bits cfg.toNat 3 2 = 3 ∨ s.fence 4 k ≠ 0 ∨ there = false ∨ (bitOf cfg.toNat 1 = true ∧ s.fhCfgOk = false) →
        exec (.portStart path port v) s = .next ((shut (Reg.CP_UNLOCK k)).setReg (Reg.CP_CFG k) cfg)) ∧
      (bits cfg.toNat 3 2 ≠ 3 → s.fence 4 k = 0 → there = true → (bitOf cfg.toNat 1 = true → s.fhCfgOk = true) → ∃ t : State,
        exec (.portStart path port v) s = .next t ∧ t.reg (Reg.CP_CFG k) = cfg ||| 1 ∧ t.portOn k = true ∧
        t.domOn (61 + k / 4) = true ∧ (∀ a ∈ [Reg.CP_VLAN k, Reg.TRIB_ETYPE, Reg.FH_CFG], t.ctl.inForce a = s.reg a) ∧
        (∀ a, a ≠ Reg.CP_CFG k → t.reg a = s.reg a) ∧ t.mem = s.mem ∧ t.cores = s.cores)) ∧
    (s.lockOpen (Reg.CP_UNLOCK k) = true → bitOf v.toNat 0 = false → s.portOn k = true →
      ((∃ j, j < 8 ∧ j ≠ k ∧ j / 4 = k / 4 ∧ s.portOn j = true) → (s.port k).link = false →
        exec (.portStop path port v) s = .next (((shut (Reg.CP_UNLOCK k)).setPort k { s.port k with link := false, fwd := [] }).setReg
          (Reg.CP_CFG k) (s.reg (Reg.CP_CFG k) &&& ~~~1))) ∧
      ∃ t : State, exec (.portStop path port v) s = .next t ∧ t.portOn k = false ∧ (t.port k).link = false ∧ (t.port k).fwd = [] ∧
        (∀ j, j < 8 → t.reg (Reg.CP_CFG j) = if j = k then s.reg (Reg.CP_CFG k) &&& ~~~1 else s.reg (Reg.CP_CFG j)) ∧
        ((∀ j, j < 8 → j ≠ k → j / 4 = k / 4 → s.portOn j = false) → t.domOn (61 + k / 4) = false) ∧
        (∀ j, j < 8 → j / 4 ≠ k / 4 → t.port j = s.port j) ∧ t.mem = s.mem ∧ t.cores = s.cores) ∧
    (s.lockOpen (Reg.CP_UNLOCK k) = true → bitOf v.toNat 0 = false → s.portOn k = false →
      exec (.portStop path port v) s = .next ((shut (Reg.CP_UNLOCK k)).setReg (Reg.CP_CFG k) cfg))

/-- Key locks and the registers behind them. -/
def Obligations.KeyedRegistersWritten : Prop := Claims.LocksOpenAndClose ∧ Claims.KeyedWritesTaken

/-- Writes by address (R630, R631, R652; table "Access"): a write that covers no aligned word whole changes nothing; a word written
to an RO register, or to a KEYED one whose lock is closed, or opened 100 µs ago, changes nothing; one written to the front end's
configuration memory is kept where R644 assigns the place and lost where it reserves it; one written to an RW register without a rule
of its own sets that register's writable bits and leaves its others and everything else. -/
def Claims.RegisterWordsWritten : Prop :=
  ∀ (s : State) (path : Path) (off : BitVec 24) (bs : List Byte), s.ready = true → (Instr.registerWrite path off bs).wellFormed = true →
    let u := s.clearOuts
    let b := csrAt s.enabled off.toNat
    let a := b.2.1 + b.2.2
    let v : Word := BitVec.ofNat 32 (fieldAt bs 0 4)
    ((off.toNat + bs.length) / 4 ≤ (off.toNat + 3) / 4 → exec (.registerWrite path off bs) s = .next u) ∧
    (off.toNat % 4 = 0 → bs.length = 4 → s.accAt off.toNat = some .ro → exec (.registerWrite path off bs) s = .next u) ∧
    (∀ k, off.toNat % 4 = 0 → bs.length = 4 → s.accAt off.toNat = some .keyed → s.lockKey b = some k → k ∉ s.ctl.locks →
      exec (.registerWrite path off bs) s = .next u) ∧
    (∀ k, off.toNat % 4 = 0 → bs.length = 4 → s.accAt off.toNat = some .keyed → s.lockKey b = some k → s.lockOver k = true →
      exec (.registerWrite path off bs) s = .next u) ∧
    (b.1 = .cfgMem → off.toNat % 4 = 0 → bs.length = 4 → exec (.registerWrite path off bs) s = .next
      (if cfgHeld (a - 0x500000) then { u with ctl := s.ctl.setArr bankCfg ((a - 0x500000) / 4) v } else u)) ∧
    (∀ r, off.toNat % 4 = 0 → bs.length = 4 → b.1 ≠ .coreB → b.1.row b.2.2 = some r → r.acc = .rw → isSelector a = false →
      arrayOf a = none → a ∉ [Reg.TIME_INCREMENT_HI, Reg.TIME_ADJ, Reg.TIME_FRAME_ADV, Reg.BKW_CTRL, Reg.BKW_CACHE_BASE,
        Reg.BKW_CACHE_SIZE] → (∀ i, i < 8 → a ≠ Reg.CP_MAC_LO i ∧ a ≠ Reg.CP_MAC_HI i) →
      exec (.registerWrite path off bs) s = .next
        (u.setReg a ((s.reg a &&& ~~~(BitVec.ofNat 32 r.rw)) ||| (v &&& BitVec.ofNat 32 r.rw))))

/-- Core control and plain register words. -/
def Obligations.PlainRegistersWritten : Prop := Claims.CoreControlWritten ∧ Claims.RegisterWordsWritten

/-- Registers that clear by sequence (R647; 01 R29): a write whose bits 31:24 equal SEQ clears the event bits written as 1, any
other write clears none, and SEQ stays. A catchment's fault word drops its first rank with its last event. Nothing else changes. -/
def Claims.ClearedBySequence : Prop :=
  ∀ (s : State) (path : Path) (off : BitVec 24) (v : Word) (r : RegRow), s.ready = true →
    let u := s.clearOuts
    let b := csrAt s.enabled off.toNat
    let a := b.2.1 + b.2.2
    let after (w : Word) : Word := if v.toNat / 2 ^ 24 = w.toNat / 2 ^ 24 then w &&& ~~~(v &&& BitVec.ofNat 32 r.ev) else w
    b.1.row b.2.2 = some r → r.acc = .wseq →
    (b.1 ≠ .coreB → a ≠ Reg.CATCH_FAULTWORD → exec (.wseqClear path off v) s = .next (u.setReg a (after (s.reg a)))) ∧
    (∀ q, b.1 = .coreB → b.2.1 < 0x200000 → s.physOf ((b.2.1 - 0x100000) / 0x1000) = some q →
      exec (.wseqClear path off v) s = .next (u.setCore q ((s.core q).setReg b.2.2 (after ((s.core q).reg b.2.2))))) ∧
    (a = Reg.CATCH_FAULTWORD → s.catchment (s.pathSel (pathNum path) Reg.CATCH_SELECT % 256) = none →
      exec (.wseqClear path off v) s = .next u) ∧
    (a = Reg.CATCH_FAULTWORD → (s.catchment (s.pathSel (pathNum path) Reg.CATCH_SELECT % 256)).isSome = true →
      let d := s.pathSel (pathNum path) Reg.CATCH_SELECT % 256
      let w := s.ctl.arr bankCatch d
      ∃ t : State, exec (.wseqClear path off v) s = .next t ∧ t.reg = s.reg ∧ t.mem = s.mem ∧ t.cores = s.cores ∧
        (v.toNat / 2 ^ 24 ≠ w.toNat / 2 ^ 24 → t.ctl.arr bankCatch d = w) ∧
        (v.toNat / 2 ^ 24 = w.toNat / 2 ^ 24 → bits (after w).toNat 4 0 ≠ 0 → t.ctl.arr bankCatch d = after w) ∧
        (v.toNat / 2 ^ 24 = w.toNat / 2 ^ 24 → bits (after w).toNat 4 0 = 0 →
          bits (t.ctl.arr bankCatch d).toNat 19 8 = 0xFFF ∧ bits (t.ctl.arr bankCatch d).toNat 4 0 = 0 ∧
          bits (t.ctl.arr bankCatch d).toNat 31 24 = bits w.toNat 31 24))

/-- Writes with rules of their own: TIME.INCREMENT_HI moves the whole increment, limited to 100 ppm of the nominal value with
INC_CLAMP set where it was limited (12 R451, R452); TIME.ADJ waits for the next tick (R453); TIME.FRAME_ADV is limited to 5 ms and
held off while the radio runs (R480); EPOCH_ADV asks for one epoch advance (09 R333); clearing TRAIN_EN ends a TRAIN that has no
step in progress, with ABORTED, and lets one that has reach its step boundary (R360); the cache's place and size are taken, and
the cache emptied, only while it is free (R362). -/
def Obligations.RuledWritesTaken : Prop :=
  ∀ (s : State) (path : Path) (v : Word), s.ready = true →
    let u := s.clearOuts
    let n := (s.reg Reg.TIME_INCREMENT).toNat + (v.toNat % 2 ^ 16) * 2 ^ 32
    let near := max (0x0411AAAAAAAA - 447392427) (min (0x0411AAAAAAAA + 447392427) n)
    let x := max (-5000000) (min 5000000 v.toInt)
    (∃ t : State, exec (.incrementWrite path v) s = .next t ∧ t.time = { s.time with incPend := some near } ∧
      t.reg Reg.TIME_INCREMENT_HI = v &&& 0xFFFF ∧
      (near ≠ n → bitOf (t.reg Reg.TIME_STATUS).toNat Ev.TIME_INC_CLAMP = true) ∧
      (near = n → t.reg Reg.TIME_STATUS = s.reg Reg.TIME_STATUS) ∧ t.mem = s.mem ∧ t.cores = s.cores) ∧
    exec (.adjWrite path v) s = .next { u with time := { s.time with adjPend := some (v &&& 0x070FFFFF) } } ∧
    (s.radioStarted = true → exec (.frameAdvWrite path v) s = .next u) ∧
    (s.radioStarted = false → exec (.frameAdvWrite path v) s = .next
      { u.setReg Reg.TIME_FRAME_ADV (wordOfInt x) with time := { s.time with advPend := some x } }) ∧
    ((s.bkwCtl 1 = true → bitOf v.toNat 1 = true) → exec (.epochAdv path v) s = .next
      { u.setReg Reg.BKW_CTRL (v &&& 0xB) with bkw := { s.bkw with advPend := true } }) ∧
    (s.bkwCtl 1 = false → bitOf v.toNat 2 = false → exec (.trainDisable path v) s = .next (u.setReg Reg.BKW_CTRL (v &&& 9))) ∧
    (s.bkwCtl 1 = true → ∃ t : State, exec (.trainDisable path v) s = .next t ∧ t.bkwCtl 1 = false ∧
      ∀ i, i < 16 → ∀ x, (s.region i).run = some x → (s.region i).st = 1 → x.rec_.kind = 1 → (s.region i).queue = none →
        ((s.region i).window.isSome = true → (∀ j, j < 16 → j ≠ i → (s.region j).run = none ∧ (s.region j).queue = none) →
          t.region i = { s.region i with abort := true }) ∧
        ((s.region i).window = none → (t.region i).run = none ∧ (t.region i).st = 0)) ∧
    (∀ size : Bool, s.cacheFree = false → exec (.cacheConfigWrite path size v) s = .next u) ∧
    (∀ size : Bool, s.cacheFree = true → ∃ t : State, exec (.cacheConfigWrite path size v) s = .next t ∧
      t.reg (if size then Reg.BKW_CACHE_SIZE else Reg.BKW_CACHE_BASE) = v &&& (if size then 0x3FFFFF else 0x7FFFFF) ∧
      t.bkw = { s.bkw with recs := [], occasions := [], wp := 0 } ∧ t.reg Reg.BKW_OLDEST_EPOCH = s.reg Reg.BKW_EPOCH ∧
      t.mem = s.mem)

/-- Reads that latch (12 R449; 14 R554; 02 R80; 17 R632): TIME.NS32 latches its fraction, SUBSEC and radio time for its own path,
in the spillway state too; DET.CHOICES and RXP.REACH_LO latch their high halves for their path. Registers, memory and cores stay,
and so do the other paths' copies. -/
def Claims.ReadsLatch : Prop :=
  ∀ (s : State) (path : Path) (c : Fin 4),
    let p := pathNum path
    let reaches := (tget (fun _ => Rx.reset) s.rx c.val).reaches
    let only (t : State) : Prop := t.ctl.regs = s.ctl.regs ∧ t.mem = s.mem ∧ t.cores = s.cores ∧ t.time = s.time ∧
      ∀ q a, q ≠ p → q < 3 → a < 2 ^ 24 → t.pathLatch q a = s.pathLatch q a
    (s.timeRuns = true → ¬(s.mode = .recovery ∧ path = .bar2) → ∃ t : State, exec (.ns32Read path) s = .next t ∧
      t.outs = [.csr (BitVec.ofNat 32 (s.time.cnt.toNat / 2 ^ 40))] ∧
      t.pathLatch p Reg.TIME_FRAC = BitVec.ofNat 32 (s.time.cnt.toNat % 2 ^ 40 / 2 ^ 8) ∧
      t.pathLatch p Reg.TIME_SUBSEC = BitVec.ofNat 32 (s.time.sub / 2 ^ 40) ∧
      t.pathLatch p Reg.TIME_RADIO = s.time.radio (s.pathSel p Reg.TIME_RADIO_SEL % 4) ∧ only t) ∧
    (s.ready = true → ∃ t : State, exec (.reachLoRead path c) s = .next t ∧
      t.outs = [.csr (BitVec.ofNat 32 (reaches % 2 ^ 32))] ∧
      t.pathLatch p (Reg.RXP_REACH_HI c.val) = BitVec.ofNat 32 (reaches / 2 ^ 32) ∧ only t) ∧
    (s.ready = true → ∃ t : State, exec (.choicesRead path) s = .next t ∧
      t.outs = [.csr (BitVec.ofNat 32 (s.sched.choices % 2 ^ 32))] ∧
      t.pathLatch p Reg.DET_CHOICES_HI = BitVec.ofNat 32 (s.sched.choices / 2 ^ 32) ∧ only t)

/-- Status words are cleared by sequence, and reads latch. -/
def Obligations.StatusClearedAndRead : Prop := Claims.ClearedBySequence ∧ Claims.ReadsLatch


/-! ## The cores (04, 05, 12) -/

/-- A core cycle (05 R163, R165, R167, R168; 04 R153, R160): results that are due reach their registers; a bundle of an ALU operation
alone takes its operands as the bundle finds them, sends its result off with its latency, sets the flags of the operation and moves
the pc on; a MOVS write to FLAGS leaves set what an event of its cycle has set; a bundle that must wait counts its stall; an
unassigned or malformed bundle halts the core with ILLEGAL; a gated bundle before its time waits; HALT stops the core at a
boundary; a halted or fenced core only counts its cycle; an unpowered one does nothing. No other core and no memory changes.
A pre-emption request holds a bundle with CP set off at a boundary (R179), and a local-memory bank that does not serve the bundle counts
in STALL_BANK (04 R144, R153). (A bundle issues while no bubbles hold the Lane Row, no request of another agent waits at a bank and no
run writes lines; jobs end with their cores.) -/
def Obligations.CoreCycles : Prop :=
  ∀ (s : State) (p : Fin 52), s.ready = true → s.pwr.bubble = 0 → (s.core p.val).bankWait = [] →
    (∀ r, (s.core p.val).eddy = some r → r.toLines = false) →
    let c := (s.core p.val).arrive
    let b := bundleOf (c.bundle c.pc)
    let r := aluFn (bits b.s0 6 0) (c.gr (bits b.s0 16 12)) (c.gr (bits b.s0 11 7))
    let ends (d : Core) : Core := { d with cyc := c.cyc + 1, raised := 0, taken := [], tickSeen := s.time.ticks }
    let gives (d : Core) : Prop := ∃ t : State, exec (.bundleIssue p [] []) s = .next t ∧ t.core p.val = ends d ∧
      (∀ q, q ≠ p.val → t.core q = s.core q) ∧ t.mem = s.mem ∧ t.host = s.host ∧ t.time = s.time
    (c.run = .unpowered → exec (.bundleIssue p [] []) s = .next s.clearOuts) ∧
    ((c.run = .fenced ∨ ∃ why, c.run = .halted why) → gives c) ∧
    (c.run = .running → c.haltReq = true → c.boundary = true → gives { c with run := .halted .ctrl }) ∧
    (c.run = .running → c.haltReq = false → c.preempt = true → c.boundary = true → b.cp = true →
      gives { c with run := .halted .preempted, preempt := false }) ∧
    (c.run = .running → c.haltReq = false → c.preempt = false →
      (b.decodeOk = false → s.sched.jobs = [] → ∃ t : State, exec (.bundleIssue p [] []) s = .next t ∧
        (t.core p.val).run = .halted .illegal ∧ bitOf ((t.core p.val).reg cFAULTWORD).toNat 9 = true ∧ t.mem = s.mem) ∧
      (b.decodeOk = true → c.delay = 0 → c.reps = [] → b.g = false → sOp b.s0 = 1 → b.s1 = 0 → b.l = 0 → b.e = 0 → b.m = 0 →
        gives { c with
          stall := 0, served := 0, parked := false, flags := c.flags ||| r.1.2
          flight := c.flight ++ [⟨c.cyc + r.2, .g (bits b.s0 21 17), r.1.1.toNat⟩], pc := (c.pc + 1) % 4096 }) ∧
      (b.decodeOk = true → c.delay = 0 → c.reps = [] → b.g = false → sOp b.s0 = 0x0B → bitOf b.s0 11 = true → bits b.s0 16 12 = 0 →
        b.s1 = 0 → b.l = 0 → b.e = 0 → b.m = 0 →
        gives { c with
          stall := 0, served := 0, parked := false, flags := (c.gr (bits b.s0 21 17)).toNat % 32 ||| c.raised, pc := (c.pc + 1) % 4096 }) ∧
      (∀ k ks, b.decodeOk = true → controlOk c b = true → b.g = false → waitOf c b = k :: ks →
        gives { (k :: ks).foldl (fun (d : Core) i => d.count i 1) c with stall := c.stall + 1 }) ∧
      (b.decodeOk = true → controlOk c b = true → b.g = false → waitOf c b = [] → copiedOk c b = true →
        (c.bankServe b).1 < (bankReqs c b).length →
        gives { c.count cSTALL_BANK 1 with stall := c.stall + 1, served := (c.bankServe b).1 }) ∧
      (b.decodeOk = true → controlOk c b = true → b.g = true → c.gate.armed = true → c.gate.opened = false → c.gate.tgt = c.pc →
        gateL s.ns32 c.gate.time < 0 → gives { c with run := .waiting }))

/-- Ends and starts inside a core (04 R117, R124, R139, R141, R142, R154, R160, table "CORE.CTRL"). A pass that is over writes the
rows it computed into its tile and no other word, and leaves the tile queued or free; a queued run starts on the queue's head and
takes the program's cycles; a run that is over leaves its element registers, reduction and flags and frees its tiles; an element
program load takes its 32 words; a scrub leaves tiles, lane stores, element registers and codebook memory zero; a stall of
1,048,576 cycles halts the core with its event; HALT takes effect at a boundary. What is not over stays. -/
def Obligations.CoreUnitsEnd : Prop :=
  ∀ (s : State) (p : Fin 52), s.ready = true →
    let c := s.core p.val
    let u := s.clearOuts
    let stays (i : Instr) : Prop := exec i s = .next u
    c.lmErr = [] →
    (∀ x, c.pass = some x → x.endsAt ≤ c.cyc → x.width ≤ 64 →
      (∀ w i k l, x.check (c.tile x.dst) (x.rows (c.tile x.dst)) [] ≠ .mismatch w i k l) →
      ∃ t : State, exec (.passEnd p [] []) s = .next t ∧
        let d := t.core p.val
        d.pass = none ∧ (d.tile x.dst).st = (if x.q then .queued else .free) ∧
        d.queue = (if x.q then c.queue ++ [x.dst] else c.queue) ∧
        (∀ i k, i < 64 → k < 64 → (d.tile x.dst).word i k =
          if i ∈ x.lanes ∧ k < x.width then (x.word ((c.tile x.dst).word i k) i k).1 else (c.tile x.dst).word i k) ∧
        (∀ j, j ≠ x.dst → d.tile j = c.tile j) ∧ d.lm = c.lm ∧ d.ls = c.ls ∧ d.g = c.g ∧ d.er = c.er ∧ t.mem = s.mem) ∧
    ((∀ x, c.pass = some x → c.cyc < x.endsAt) → stays (.passEnd p [] [])) ∧
    (∀ r h rest, c.eddy = some r → r.desc.src = 0 → c.queue = h :: rest → runReady r c = true →
      (c.ldprog.any fun l => l.slot == r.slot) = false →
      ∃ (t : State) (r' : EddyRun), exec (.eddyRunStart p []) s = .next t ∧ (t.core p.val).eddy = some r' ∧ r'.started = true ∧
        r'.slot = r.slot ∧ r'.src = some h ∧ r'.endsAt = c.cyc + runCycles (progOf (c.prog r.slot).ins).1.length r.desc.v ∧
        (t.core p.val).queue = rest ∧ ((t.core p.val).tile h).st = .eddy ∧ (t.core p.val).lm = c.lm ∧ t.mem = s.mem) ∧
    ((∀ r, c.eddy = some r → runReady r c = false) → stays (.eddyRunStart p [])) ∧
    (∀ r, c.eddy = some r → r.started = true → r.endsAt ≤ c.cyc →
      ∃ t : State, exec (.eddyRunEnd p) s = .next t ∧ (t.core p.val).eddy = none ∧ (t.core p.val).er = r.er ∧
        (t.core p.val).held = r.red ∧ (t.core p.val).flags = c.flags ||| r.flags ∧
        (∀ j ∈ r.tiles, ((t.core p.val).tile j).st = .free) ∧ (t.core p.val).g = c.g ∧ t.mem = s.mem) ∧
    ((∀ r, c.eddy = some r → r.started = false ∨ c.cyc < r.endsAt) → stays (.eddyRunEnd p)) ∧
    (∀ l rest, c.ldprog = l :: rest → l.endsAt ≤ c.cyc →
      let ws := wordsOf 32 (readBytes c.lm l.off 128)
      exec (.ldprogDone p) s = .next (u.setCore p.val { c with
        progs := tset c.progs l.slot ⟨ws, (progOf ws).1.length, (progOf ws).2⟩, ldprog := rest })) ∧
    ((∀ l, c.ldprog.head? = some l → c.cyc < l.endsAt) → stays (.ldprogDone p)) ∧
    (c.scrub = true → exec (.scrubDone p) s = .next (u.setCore p.val { c with
      tiles := [], queue := [], ls := [], lsSum := [], er := List.replicate 16 (List.replicate 64 0), cb := [], n16 := 0, n256 := 0
      scrub := false })) ∧
    (c.scrub = false → stays (.scrubDone p)) ∧
    ((c.run = .running ∨ c.run = .waiting) → 1048576 ≤ c.stall → s.sched.jobs = [] →
      ∃ t : State, exec (.stallTimeout p) s = .next t ∧ (t.core p.val).run = .halted .stall ∧ (t.core p.val).stall = 0 ∧
        bitOf ((t.core p.val).reg cFAULTWORD).toNat 13 = true ∧ t.mem = s.mem) ∧
    (c.stall < 1048576 → stays (.stallTimeout p)) ∧
    (c.haltReq = true → c.boundary = true → (c.run = .running ∨ c.run = .waiting) →
      exec (.haltAtBoundary p) s = .next (u.setCore p.val { c with run := .halted .ctrl })) ∧
    (c.haltReq = false ∨ c.boundary = false → stays (.haltAtBoundary p))

/-- A transfer that completes (04 R148, R151; 13 R514): rows to local memory hold what the source holds, rows from it stand at their
address, and no other byte changes; the transfer leaves its engine and sets its DONE bit; one dropped by a reset or a fence moves
nothing, sets its ERR bit too and raises SLUICE_FAULT; one that waits for frames stays; one to codebook memory waits for the running
pass and then takes a cycle for each 64 bytes (R113). (The moves are stated for one row to or from memory of this device; a read
that meets no error.) -/
def Obligations.TransferCompletes : Prop :=
  ∀ (s : State) (p : Fin 52) (so : Bool) (which : Fin 6) (x : Xfer), s.ready = true →
    let c := s.core p.val
    let bit := BitVec.ofNat 32 (2 ^ x.done)
    let left (t : State) : Prop :=
      (t.core p.val).si = (if so then c.si else c.si.filter fun (y : Xfer) => decide (y.num ≠ x.num)) ∧
      (t.core p.val).so = (if so then c.so.filter fun (y : Xfer) => decide (y.num ≠ x.num) else c.so) ∧
      (t.core p.val).reg cSLUICE_DONE = c.reg cSLUICE_DONE ||| bit
    (if so then c.so else c.si)[which.val]? = some x →
    (x.dropped = true → ∃ t : State, exec (.sluiceTransferComplete p so which []) s = .next t ∧ left t ∧
      (t.core p.val).reg cSLUICE_ERR = c.reg cSLUICE_ERR ||| bit ∧ bitOf ((t.core p.val).reg cFAULTWORD).toNat 11 = true ∧
      (t.core p.val).lm = c.lm ∧ t.mem = s.mem) ∧
    (x.dropped = false → x.remote ≠ .frames → so = false → x.target = 1 → x.writing = none →
      (c.pass.isSome = true ∨ c.cbWriting = true → exec (.sluiceTransferComplete p so which []) s = .next s.clearOuts) ∧
      (c.pass = none → c.cbWriting = false → exec (.sluiceTransferComplete p so which []) s = .next (s.clearOuts.setCore p.val
        (State.Core.setXfer false { x with writing := some (c.cyc + (x.rows * x.rowBytes + 63) / 64) } c)))) ∧
    (∀ w, x.dropped = false → x.remote ≠ .frames → so = false → x.target = 1 → x.writing = some w → c.cyc < w →
      exec (.sluiceTransferComplete p so which []) s = .next s.clearOuts) ∧
    (x.dropped = false → x.remote = .frames → exec (.sluiceTransferComplete p so which []) s = .next s.clearOuts) ∧
    (∀ a n, x.dropped = false → x.remote = .none → x.stop = none → x.away = [] → x.rows = 1 → 0 < x.rowBytes → c.lmErr = [] →
      so = false → x.target = 0 →
      s.place (State.Xfer.farAt x false 0) = (.mem a, n) → x.rowBytes ≤ n → s.poisoned a x.rowBytes = [] →
      ∃ t : State, exec (.sluiceTransferComplete p so which []) s = .next t ∧ left t ∧
        (t.core p.val).reg cSLUICE_ERR = c.reg cSLUICE_ERR ∧ t.mem = s.mem ∧
        ∀ i, tget zeroByte (t.core p.val).lm i =
          if x.dst ≤ i ∧ i < x.dst + x.rowBytes then tget zeroByte s.mem (a + (i - x.dst)) else tget zeroByte c.lm i) ∧
    (∀ a n, x.dropped = false → x.remote = .none → x.stop = none → x.away = [] → x.rows = 1 → 0 < x.rowBytes → c.lmErr = [] →
      so = true →
      s.place (State.Xfer.farAt x true 0) = (.mem a, n) → x.rowBytes ≤ n →
      ∃ t : State, exec (.sluiceTransferComplete p so which []) s = .next t ∧ left t ∧
        (t.core p.val).reg cSLUICE_ERR = c.reg cSLUICE_ERR ∧ (t.core p.val).lm = c.lm ∧
        ∀ i, tget zeroByte t.mem i =
          if a ≤ i ∧ i < a + x.rowBytes then tget zeroByte c.lm (x.src + (i - a)) else tget zeroByte s.mem i)

/-- Launches (01 R30; 04 R153, R155, R159; 05 R178, R180, R191, R192; 12 R474 to R477). At the launch time the gated bundle that a core
waits at, or reaches in that tick's first cycle, issues in a core cycle of its own: the gate is disarmed, CORE.MODE is taken and
the core runs on; a bundle that must wait is held with its gate opened; a core with HALT set halts at its gate instead; before its time
nothing happens; on a fenced core the gate is lost. A gate that is late acts with GATE_LATE set and
counted. An abandoning gate cuts pass, run, queue, delay slots and repeats, sets ABANDON and starts its bundle. (Stated for a gated
bundle whose slots are empty, of a core that no job holds.) -/
def Obligations.GatesAct : Prop :=
  ∀ (s : State) (p : Fin 52), s.ready = true → s.sched.jobs = [] → s.pwr.bubble = 0 → (s.core p.val).bankWait = [] →
    (∀ r, (s.core p.val).eddy = some r → r.toLines = false) →
    let c := s.core p.val
    let u := s.clearOuts
    let a := c.arrive
    let ends (d : Core) : Core := { d with cyc := c.cyc + 1, raised := 0, taken := [], tickSeen := s.time.ticks }
    let issued : Core := ends { a with
      gate := { c.gate with armed := false, past := false, late := false, opened := false }, mode := (c.reg cMODE).toNat % 2
      run := .running, stall := 0, served := 0, parked := false, pc := (c.pc + 1) % 4096 }
    let only (t : State) (d : Core) : Prop := t.core p.val = d ∧ (∀ q, q ≠ p.val → t.core q = s.core q) ∧ t.mem = s.mem ∧
      t.time = s.time ∧ t.sched = s.sched
    let emptyAt (i : Nat) : Prop := c.bundle i = BitVec.ofNat 128 (2 ^ 127)
    let here : Prop := s.launchNow c.gate = true ∧ s.coreFenced p.val = false ∧ (waitsAtGate c = true ∨ s.reachesNow c = true)
    (here → c.haltReq = false → c.delay = 0 → c.reps = [] → emptyAt c.pc →
      ∃ t : State, exec (.gateLaunch p .plain) s = .next t ∧ only t issued) ∧
    (here → c.haltReq = true → c.boundary = true → waitsAtGate c = true →
      exec (.gateLaunch p .plain) s = .next (u.setCore p.val { c with run := .halted .ctrl })) ∧
    (∀ k ks, here → c.haltReq = false → c.preempt = false →
      (bundleOf (c.bundle c.pc)).decodeOk = true → controlOk a (bundleOf (c.bundle c.pc)) = true →
      waitOf a (bundleOf (c.bundle c.pc)) = k :: ks → ∃ t : State, exec (.gateLaunch p .plain) s = .next t ∧
        only t (ends { (k :: ks).foldl (fun (d : Core) i => d.count i 1) a with
          stall := c.stall + 1, gate := { c.gate with opened := true }, run := .waiting })) ∧
    (s.launchNow c.gate = false → exec (.gateLaunch p .plain) s = .next u ∧ exec (.abandoningGate p .none) s = .next u) ∧
    (s.launchNow c.gate = true → s.coreFenced p.val = true → c.run = .fenced → ∃ t : State, exec (.gateLaunch p .plain) s = .next t ∧
      t.core p.val = { c with gate := { c.gate with armed := false, past := false, late := false } } ∧ t.mem = s.mem) ∧
    (waitsAtGate c = true → c.gate.late = true → c.gate.opened = false → c.haltReq = false → c.delay = 0 → c.reps = [] → emptyAt c.pc →
      ∃ t : State, exec (.gateLate p .plain) s = .next t ∧ only t issued ∧
        t.reg Reg.TIME_GATE_LATE_CNT = s.reg Reg.TIME_GATE_LATE_CNT + 1 ∧
        bitOf (t.reg Reg.TIME_STATUS).toNat Ev.TIME_GATE_LATE = true) ∧
    (c.gate.late = false → c.run ≠ .halted .missed → exec (.gateLate p .plain) s = .next u) ∧
    (s.launchNow c.gate = true → s.coreFenced p.val = false → c.gate.abn = true → c.run = .running →
      s.reachesNow c = false → emptyAt c.gate.tgt → ∃ t : State, exec (.abandoningGate p .none) s = .next t ∧
        let d := t.core p.val
        d.pass = none ∧ d.eddy = none ∧ d.queue = [] ∧ d.delay = 0 ∧ d.reps = [] ∧ d.pc = (c.gate.tgt + 1) % 4096 ∧
        d.run = .running ∧ d.gate.armed = false ∧ bitOf d.flags 4 = true ∧ d.g = a.g ∧ d.ls = c.ls ∧ d.lm = c.lm ∧
        bitOf (d.reg cFAULTWORD).toNat 12 = true ∧ (∀ q, q ≠ p.val → t.core q = s.core q) ∧ t.mem = s.mem)

/-! ## Reset, boot and the spillway state (16 R610 to R619, 15 R578 to R582) -/

/-- The device after a power-on reset (16 R610; the register tables of 03, 12, 15 and 16): PORST_N is low, nothing waits, the registers
hold the values of their tables, memory lists nothing, the mailboxes are idle, and nothing is left undone. The values that
the manual does not give (assumptions 3, 4, 5) are not claimed. -/
def Claims.ResetState : Prop :=
  let s := State.reset
  s.mode = .porLow ∧ s.pending = [] ∧ s.memWf = true ∧ s.settled = true ∧ s.pins.spillN = true ∧ s.func.started = 0 ∧
  (∀ m, (s.mailbox m).st = 0 ∧ (s.mailbox m).accepted = 0) ∧ (∀ d, s.domOn d = false) ∧
  s.time.cnt = 0 ∧ s.time.sub = 0 ∧ s.time.inc = 0x0411AAAAAAAA ∧ s.time.sfn = 0 ∧ s.time.clock = 0 ∧
  s.reg Reg.TIME_INCREMENT = 0xAAAAAAAA ∧ s.reg Reg.TIME_INCREMENT_HI = 0x411 ∧ s.reg Reg.FAULT_CHECK = 3 ∧
  s.reg Reg.PWR_CAP = 60000 ∧ s.reg Reg.PWR_CFG = 0x433 ∧ s.reg Reg.TXP_LEAD = 100000 ∧ s.reg Reg.HOST_BASIN_EN = 0 ∧
  (∀ c, s.ctl.arr bankCatch c = 0x000FFF00)

/-- The resets that end in PORST_N low (16 R610, 15 R581): POWER_ON from no supply and PORST_N_ASSERT leave every register at
its reset value but those that show fuses and the cause, which RESET_CAUSE holds; timebase, memory, cores and mailboxes are
reset, the fuses and the flash stay. The loss of the always-on supply ends every mode. In other modes they do nothing:
PORST_N is ignored in the spillway state. TAP_RESET resets the test access port alone, and that it selects IDCODE is the
model's choice (assumption 35), as is the zero of a register without a stated reset value (assumption 4). -/
def Claims.PowerOnResets : Prop :=
  ∀ s : State,
    let isReset (t : State) (kind : Nat) : Prop :=
      t.time = TimeSt.reset ∧ t.cores = [] ∧ t.mem = [] ∧ t.mbx = [] ∧ t.basins = [] ∧ t.wq = [] ∧ t.fences = [] ∧ t.pwr = Pwr.reset ∧
      t.func.started = 0 ∧ t.fuses = s.fuses ∧ t.boot.slotA = s.boot.slotA ∧ t.boot.slotB = s.boot.slotB ∧ t.pins.spillN = true ∧
      t.reg Reg.PWR_RESET_CAUSE = BitVec.ofNat 32 kind ∧
      ∀ a, a ∉ [Reg.PWR_RESET_CAUSE, Reg.PWR_BOOT, Reg.PWR_THERM_CFG] → t.reg a = regDefault a
    (s.mode = .off → ∃ t, exec .powerOn s = .next t ∧ t.mode = .porLow ∧ isReset t 0) ∧
    (s.mode ≠ .off → exec .powerOn s = .next s.clearOuts.sortLog) ∧
    (s.mode = .running ∨ s.mode = .recovery ∨ s.mode = .relHeld →
      ∃ t, exec .porstNAssert s = .next t ∧ t.mode = .porLow ∧ isReset t 1) ∧
    (s.mode = .off ∨ s.mode = .porLow ∨ s.mode = .spill → exec .porstNAssert s = .next s.clearOuts.sortLog) ∧
    (∃ t, exec .aonPowerLoss s = .next t ∧ t.mode = .off ∧ isReset t 0) ∧
    (s.mode ≠ .off → exec .tapReset s = .next { s.clearOuts.sortLog with pins := { s.pins with tap := .idcode } }) ∧
    (s.mode = .off → exec .tapReset s = .next s.clearOuts.sortLog)

/-- The release of PORST_N (16 R612, R614, R616; 18 R661, R667): the straps are sampled; with a rail out of range the device is held; with
the RECOVERY strap or no valid slot it stays in recovery, which PWR.BOOT shows, the host domain alone powered; else the
firmware of the preferred valid slot boots, STEP is 6, the fused rollback level is at least the slot's, and every enabled
core's domain is on. RAILS_IN_RANGE goes on from there. -/
def Obligations.ReleaseBoots : Prop :=
  ∀ (s : State) (f : BootFacts),
    (s.mode ≠ .porLow → exec (.porstNRelease f) s = .next s.clearOuts.sortLog) ∧
    (s.mode ≠ .relHeld → exec .railsInRange s = .next s.clearOuts.sortLog) ∧
    (s.mode = .porLow → f.railsOk = false → ∃ t, exec (.porstNRelease f) s = .next t ∧ t.mode = .relHeld ∧ t.boot.facts = f ∧
      t.pins = s.pins ∧ t.ctl.regs = s.ctl.regs ∧ t.cores = s.cores ∧ t.time = s.time) ∧
    ∀ c, (s.mode = .porLow ∧ f.railsOk = true ∧ c = .porstNRelease f) ∨ (s.mode = .relHeld ∧ s.boot.facts = f ∧ c = .railsInRange) →
      ((f.recovery = true ∨ (s.slotValid s.boot.slotA = false ∧ s.slotValid s.boot.slotB = false)) →
        ∃ t, exec c s = .next t ∧ t.mode = .recovery ∧ t.boot.facts = f ∧
          t.reg Reg.PWR_BOOT = bootWord true s.fuses.rollback.val false 1 ∧ (f.hostEn = true → f.badDomains = [] → t.domOn 64 = true) ∧
          ∀ d, d < 64 → t.domOn d = s.domOn d) ∧
      (∀ slot, f.recovery = false → f.badDomains = [] → s.handled = true → s.slotOf s.boot.preferB = some slot →
        s.slotValid (some slot) = true → ∃ t, exec c s = .next t ∧ t.mode = .running ∧ t.boot.runB = s.boot.preferB ∧
          t.boot.watchdog = true ∧ t.fuses.rollback.val = max s.fuses.rollback.val slot.rollback.val ∧
          t.reg Reg.PWR_BOOT = bootWord false (max s.fuses.rollback.val slot.rollback.val) s.boot.preferB 6 ∧
          ∀ p, p < 52 → (∀ x ∈ s.fuses.disabled, x.val ≠ p) → t.domOn p = true)

/-- Warm and cold resets (16 R610, R611, R614): only as DEVICE_RESET asked. A cold reset leaves the timebase, the fault log
and memory as a power-on reset does; a warm one keeps the timebase's counters, SPILL_CAUSE, the SMBus address and the PCIe
link, counts itself, and forgets memory, jobs and mailboxes. No domain fails in either. What a warm reset clears beside what
R610 names is the model's reading (assumption 34). -/
def Claims.DeviceResets : Prop :=
  ∀ (s : State) (f : BootFacts),
    (s.boot.resetReq ≠ some 1 ∨ s.awake = false → exec (.warmReset f) s = .next s.clearOuts.sortLog) ∧
    (s.boot.resetReq ≠ some 2 ∨ s.awake = false → exec (.coldReset f) s = .next s.clearOuts.sortLog) ∧
    (s.awake = true → s.boot.resetReq = some 1 → f.badDomains = [] → ∃ t, exec (.warmReset f) s = .next t ∧
      (t.mode = .running ∨ t.mode = .recovery) ∧ t.time.ticks = s.time.ticks ∧ t.time.cnt = s.time.cnt ∧ t.time.sub = s.time.sub ∧
      t.mem = [] ∧ t.mbx = [] ∧ t.sched.jobs = [] ∧ t.func.started = 0 ∧ t.boot.resetReq = none ∧ t.smb = s.smb ∧
      t.reg Reg.PWR_RESET_CAUSE = State.warmCause (s.reg Reg.PWR_RESET_CAUSE) ∧
      t.reg Reg.HOST_LINK = s.reg Reg.HOST_LINK ∧ t.reg Reg.FAULT_SPILL_CAUSE = s.reg Reg.FAULT_SPILL_CAUSE) ∧
    (s.awake = true → s.boot.resetReq = some 2 → f.badDomains = [] → ∃ t, exec (.coldReset f) s = .next t ∧
      (t.mode = .running ∨ t.mode = .recovery) ∧ t.time = TimeSt.reset ∧ t.ctl.log = [] ∧ t.mem = [] ∧ t.func.started = 0 ∧
      t.boot.facts = f ∧ t.reg Reg.PWR_RESET_CAUSE = 3)

/-- Power-on, cold and warm resets (16 R609 to R613). -/
def Obligations.ResetsAct : Prop := Claims.PowerOnResets ∧ Claims.DeviceResets

/-- Host resets and the PCIe link (13 R481, R486; 16 R610, R611): PERST_N resets the host interface: its mailboxes, rings, MSI-X, ATU
and HOST registers, LINK among them, and holds it in reset; a function-level reset of a VF takes that function's mailbox
alone, and one of the PF all mailboxes and admin rings, leaving the started functions as they are; the link comes up with
its width and speed only out of reset, and its loss is an event. -/
def Obligations.HostResetsAndLink : Prop :=
  ∀ s : State,
    (s.mode = .running → s.boot.perst = false → s.clearOuts.resetHost.handled = true → ∃ t, exec .perstN s = .next t ∧
      t.boot.perst = true ∧ t.mbx = [] ∧ t.wq = [] ∧ t.aeq = Ring.reset ∧ t.atu = ⟨[], []⟩ ∧ t.ctl.msix = [] ∧ t.boot.numVf = 0 ∧
      (∀ a, 0x5000 ≤ a → a < 0x6000 → t.reg a = regDefault a) ∧ t.pcieUp = false ∧ t.func.started = s.func.started ∧
      t.time = s.time) ∧
    (s.mode ≠ .running → s.mode ≠ .recovery → exec .perstN s = .next (s.clearOuts.setPerst true).sortLog) ∧
    exec .perstNRelease s = .next (s.clearOuts.setPerst false).sortLog ∧
    (s.mode = .running → s.clearOuts.resetPf.handled = true → ∃ t, exec (.functionLevelReset .pf) s = .next t ∧
      t.mbx = [] ∧ t.wq = [] ∧ t.aeq = Ring.reset ∧ t.func.started = s.func.started ∧
      (∀ b, b < 8 → (t.basin b).st = 2) ∧ (∀ b, b < 8 → (t.basin b).resetCmd = none) ∧ t.mode = .running) ∧
    (∀ n : Fin 8, s.mode = .running → n.val < s.boot.numVf → (s.clearOuts.flr (.vf n)).handled = true → ∃ t,
      exec (.functionLevelReset (.vf n)) s = .next t ∧ (t.basin n.val).st = 2 ∧ t.mailbox (n.val + 1) = State.reset.mailbox (n.val + 1) ∧
      (n.val + 1) ∉ t.wq ∧ (∀ m, m ≠ n.val + 1 → t.mailbox m = s.mailbox m) ∧ t.func.started = s.func.started) ∧
    (∀ n : Fin 8, s.ready = true → s.boot.numVf ≤ n.val → exec (.functionLevelReset (.vf n)) s = .next s.clearOuts) ∧
    (∀ (w : Fin 9) (v : Fin 6) (n : Fin 9) (bars : List (Nat × Nat)), s.ready = true →
      (s.boot.hostUp = true → s.boot.perst = false → w.val ∈ [1, 2, 4, 8] → v.val ≠ 0 → ∃ t,
        exec (.pcieLinkUp w v n bars) s = .next t ∧ t.pcieUp = true ∧ bits (t.reg Reg.HOST_LINK).toNat 9 4 = w.val ∧
        bits (t.reg Reg.HOST_LINK).toNat 3 0 = v.val ∧ t.boot.numVf = n.val ∧ t.ctl.bars = bars ∧ t.mem = s.mem ∧ t.mbx = s.mbx) ∧
      (s.boot.perst = true → exec (.pcieLinkUp w v n bars) s = .next s.clearOuts)) ∧
    (s.ready = true → s.pcieUp = true → ∃ t, exec .pcieLinkDown s = .next t ∧ t.pcieUp = false ∧
      bitOf (t.reg Reg.HOST_STATUS).toNat Ev.HOST_LINK_DOWN = true ∧ t.mbx = s.mbx ∧ t.mem = s.mem ∧ t.cores = s.cores) ∧
    (s.ready = true → s.pcieUp = false → exec .pcieLinkDown s = .next s.clearOuts)

/-- A grave fault (15 R578, R579): SPILL_CAUSE holds its code and its mask bit, the device is in the spillway state with SPILL_N low,
its DRAM in self-refresh and its core, pool and Weir domains off, and the fault log has one more entry. Without its
conditions a fault does nothing. -/
def Obligations.GraveFaultsSpill : Prop :=
  ∀ (s : State) (c : Instr) (code : Nat), s.ready = true →
    (s.graveFault c code → ∃ t, exec c s = .next t ∧ t.mode = .spill ∧ t.pins.spillN = false ∧ t.dramOn = false ∧
      t.reg Reg.FAULT_SPILL_CAUSE = BitVec.ofNat 32 (code + 2 ^ (8 + code - 1)) ∧ (∀ d, d < 60 → t.domOn d = false) ∧
      (∀ d, 60 ≤ d → t.domOn d = s.domOn d) ∧ t.reg Reg.FAULT_LOG_HEAD = s.reg Reg.FAULT_LOG_HEAD + 1 ∧
      t.flt.remaps = [] ∧ t.time = s.time) ∧
    (∀ ch : Fin 16, s.dramOn = false ∨ ch.val / 2 ∉ s.dramPairs → exec (.dramChannelLoss ch) s = .next s.clearOuts) ∧
    (s.boot.watchdog = false → exec .watchdogExpiry s = .next s.clearOuts)

/-- In the spillway state every command but the loss of the always-on supply, and every step on an empty queue, leaves the
state in it (15 R581): no reset ends it, its memory, cores, mailboxes and functions stay, SPILL_N stays as it is. The loss of
that supply ends it, and the device is off until the supply is restored. The step on an empty queue is a tick (assumption
10). -/
def Obligations.SpillwaySurvives : Prop :=
  ∀ s : State, s.mode = .spill →
    (∀ t, s.pending.head? ≠ some .aonPowerLoss → step s = .next t →
      t.mode = .spill ∧ t.pins.spillN = s.pins.spillN ∧ t.dramOn = s.dramOn ∧ t.mem = s.mem ∧ t.host = s.host ∧ t.cores = s.cores ∧
      t.pwr = s.pwr ∧ t.func = s.func ∧ t.mbx = s.mbx ∧ t.basins = s.basins ∧ t.sched.jobs = s.sched.jobs ∧ t.fences = s.fences) ∧
    (∀ rest, s.pending = .aonPowerLoss :: rest → ∃ t, step s = .next t ∧ t.mode = .off ∧
      ∀ more, ∃ r, step { t with pending := .powerOn :: more } = .next r ∧ r.mode = .porLow)

/-! ## Invariants -/

/-- Every step keeps the canonical form of device memory and host memory. -/
def Obligations.MemoryStaysCanonical : Prop :=
  ∀ (s t : State), s.memWf = true → step s = .next t → t.memWf = true

/-- The timebase's ranges hold after reset. -/
def Claims.TimebaseStartsInRange : Prop := TimeSt.inRange State.reset.time

/-- The state after reset. -/
def Obligations.ResetLeaves : Prop := Claims.ResetState ∧ Claims.TimebaseStartsInRange

/-- Every step keeps the timebase in its ranges. -/
def Obligations.TimebaseStaysInRange : Prop :=
  ∀ (s t : State), TimeSt.inRange s.time → step s = .next t → TimeSt.inRange t.time

/-! ## Test access port and SMBus (18 R669 to R671; 13 R517 to R522) -/

/-- TAP instructions (18 R669 to R673): each is taken in every mode with supply, and a code without an instruction is BYPASS; IDCODE
shifts its register out, with the version, the part 0x4820 and a final 1; SAMPLE/PRELOAD captures the cells of the pins that have one
and loads those that drive. While PORST_N is low EXTEST and CLAMP put the preloaded level on a pin whose cell drives, HIGHZ puts it in high
impedance, and EXTEST_PULSE and EXTEST_TRAIN pulse the AC cells alone; in every other mode a pin holds what it holds of itself. Nothing
else changes; without supply nothing happens. -/
def Obligations.TapInstructionsTaken : Prop :=
  ∀ (s : State) (pins data : List (Pin × Bool)) (code : Byte), s.logOrdered = true →
    let u := s.clearOuts
    let holds (i : TapIns) (p : Pin) : PinLevel := ({ s with pins := { s.pins with tap := i } } : State).pinLevel p
    let ac (p : Pin) (x y : PinLevel) : PinLevel := if pinCell p = some .ac then x else y
    let answers (c : Instr) (p : Pins) : Prop := exec c s = .next { u with pins := p }
    (s.mode ≠ .off →
      (tapOfCode code = .bypass → answers (.bypass code) { s.pins with tap := .bypass }) ∧
      (tapOfCode code ≠ .bypass → exec (.bypass code) s = .next u) ∧
      answers .extest { s.pins with tap := .extest } ∧ answers .clamp { s.pins with tap := .clamp } ∧
      answers .highz { s.pins with tap := .highz } ∧ answers .extestPulse { s.pins with tap := .extestPulse } ∧
      answers .extestTrain { s.pins with tap := .extestTrain } ∧
      answers (.samplePreload pins data) { s.pins with
        tap := .sample, boundary := pins.filter fun e => (pinCell e.1).isSome, preload := data.filter fun e => cellDrives e.1 } ∧
      ∃ w : Word, exec .idcode s = .next { u with pins := { s.pins with tap := .idcode }, outs := [.tdo w] } ∧
        bits w.toNat 31 28 = s.fuses.stepMajor.val * 4 + s.fuses.stepMinor.val ∧ bits w.toNat 27 12 = 0x4820 ∧
        bits w.toNat 11 1 = Config.jtagMaker.toNat ∧ bits w.toNat 0 0 = 1) ∧
    (s.mode = .off → ∀ c ∈ [Instr.bypass code, .extest, .clamp, .highz, .extestPulse, .extestTrain, .idcode, .samplePreload pins data],
      exec c s = .next u) ∧
    (∀ p v, s.mode = .porLow → cellDrives p = true → s.preloaded p = some v →
      holds .extest p = .level v ∧ holds .clamp p = .level v ∧ holds .highz p = .highZ ∧
      holds .extestPulse p = ac p (.pulse v) (.level v) ∧ holds .extestTrain p = ac p (.train v) (.level v)) ∧
    (∀ p i, s.mode ≠ .porLow ∨ cellDrives p = false ∨ i.acts = false → holds i p = s.pinPlain p)

/-- SMBus (13 R517 to R522; 15 R580): the target answers in the spillway state too; ARP commands change only its own address and flags,
a fixed address stays, a read changes nothing but the output; a write with a bad PEC is discarded, counted and shown. In the
spillway state a CSR_READ outside the always-on TIME and FAULT blocks, the fault log and CHIP.IDENT reads zero. Which flags
PREPARE_TO_ARP clears, and that a resolved device leaves a general GET_UDID alone, is the model's reading (assumption 35). -/
def Obligations.SmbusAnswers : Prop :=
  ∀ (s : State) (a : BitVec 7) (id bus : BitVec 128) (off : BitVec 24), s.mode = .running ∨ s.mode = .recovery ∨ s.mode = .spill →
    s.logOrdered = true →
    let u := s.clearOuts
    let x := s.smb
    let takes (c : Instr) (y : Smb) : Prop := exec c s = .next { u with smb := y }
    let sends (c : Instr) (bs : List Byte) : Prop := exec c s = .next { u with outs := [.smb bs] }
    takes (.prepareToArp true) { x with ar := false } ∧
    takes (.resetDevice none true) { x with ar := false, av := false, udidPending := false } ∧
    (x.av = true → x.addr = a → takes (.resetDevice (some a) true) { x with ar := false, av := false, udidPending := false }) ∧
    (¬(x.av = true ∧ x.addr = a) → takes (.resetDevice (some a) true) x) ∧
    (id = s.udid → takes (.assignAddress id a true) { x with addr := if x.fixed then x.addr else a, ar := true, av := true }) ∧
    (id ≠ s.udid → takes (.assignAddress id a true) x) ∧
    (x.av = true → x.addr = a → sends (.getUdid (some a) bus) s.udidBytes) ∧
    (x.ar = true → x.udidPending = false → exec (.getUdid none bus) s = .next u) ∧
    (x.ar = false ∨ x.udidPending = true → s.udid &&& ~~~bus ≠ 0 → takes (.getUdid none bus) { x with udidPending := true }) ∧
    (x.ar = false ∨ x.udidPending = true → s.udid &&& ~~~bus = 0 →
      exec (.getUdid none bus) s = .next { u with smb := { x with udidPending := false }, outs := [.smb s.udidBytes] }) ∧
    (x.av = true → sends .ident s.identity ∧ sends .mbxStatus (leBytes 4 (s.mbxStatus 0).toNat ++ leBytes 4 (s.mbxSeq 0).toNat) ∧
      sends (.csrRead off true) (leBytes 4 (s.smbRead off.toNat).toNat)) ∧
    (x.av = false → ∀ c ∈ [Instr.ident, .mbxStatus, .csrRead off true, .csrRead off false], exec c s = .next u) ∧
    (∀ c ∈ [Instr.prepareToArp false, .resetDevice none false, .assignAddress id a false], ∃ t, exec c s = .next t ∧
      t.smb = x ∧ t.reg Reg.HOST_SMB_ERR_CNT = s.reg Reg.HOST_SMB_ERR_CNT + 1 ∧ bitOf (t.reg Reg.HOST_STATUS).toNat Ev.HOST_SMB_PEC = true ∧
      t.outs = [] ∧ t.mem = s.mem ∧ t.cores = s.cores) ∧
    (s.mode = .spill → (csrAt s.enabled off.toNat).1 ∉ [Blk.chipB, .timeB, .faultB, .logWin] → s.smbRead off.toNat = 0)

/-! ## Time (12_time.md) and periods (14 R534, R541) -/

/-- One tick of the timebase (12 R448 to R454, R471, R480), which is what the block does on an empty queue (assumption 10): what was
written for this tick arrives, both counters advance by the increment and the slewed amount, SUBSEC wraps at a second, the
frame count and FRAME_ADV change on a frame boundary, and GO loads the values set. FRAME_BOUNDARY and SUBSEC_WRAP are the
ticks on which those fall, and do nothing at another time. No gate has a passed time to evaluate here, no notify write waits for its
time, and no fence leaves the service to be established again. -/
def Claims.TickAdvances : Prop :=
  ∀ s : State, s.timeRuns = true →
    (s.mode = .running → s.ready = true ∧ s.ctl.notifyDue = [] ∧ s.flt.recheck = false ∧ ∀ p, (s.core p).gate.past = false) →
    let t := s.idle
    let n := s.time.arrive
    t.mem = s.mem ∧ t.cores = s.cores ∧ t.mbx = s.mbx ∧ t.host = s.host ∧ t.time.ticks = s.time.ticks + 1 ∧
    t.time.incPend = none ∧ t.time.adjPend = none ∧ n.inc = s.time.incPend.getD s.time.inc ∧
    (s.time.goPend = false →
      t.time.cnt = s.time.cnt + BitVec.ofNat 72 n.added ∧ t.time.inc = n.inc ∧ t.time.slew = n.slewRest ∧
      t.time.sub = (if n.wraps then s.time.sub + n.added - secUnits else s.time.sub + n.added) ∧
      t.time.sfn = (if n.crosses then (s.time.sfn + 1) % 1024 else s.time.sfn) ∧ t.time.frameTick = n.crosses ∧
      t.time.adv = (if n.crosses then s.time.advPend.getD s.time.adv else s.time.adv)) ∧
    (s.time.goPend = true →
      t.time.cnt = BitVec.ofNat 72 ((s.reg Reg.TIME_SET_NS32).toNat * 2 ^ 40) ∧
      t.time.sub = min (s.reg Reg.TIME_SET_SUBSEC).toNat 999999999 * 2 ^ 40 ∧
      t.time.sfn = (s.reg Reg.TIME_SET_SFN).toNat % 1024 ∧ t.time.slew = 0 ∧ t.time.clock = 0 ∧ t.time.goPend = false ∧
      bitOf (t.reg Reg.TIME_STATUS).toNat Ev.TIME_STEPPED = true) ∧
    exec .frameBoundary s = .next (if !s.time.goPend && n.crosses then t else s.clearOuts) ∧
    exec .subsecWrap s = .next (if !s.time.goPend && n.wraps then t else s.clearOuts)

/-- Messages of the PTP client (12 R459 to R463): the times of an exchange are recorded; a measured offset is shown, counted
and handed to the servo, which within STEP_LIMIT leads to TRACKING or, after sixteen in the threshold, LOCKED, and beyond it
does not steer; a better master is taken. A port out of use or not the PTP port, and a message of another domain than DOMAIN's, bring
nothing to the client. Times count in units of 2^-16 ns. What the servo writes is free (assumption 11). Offsets modulo 2^32 ns and
the port's correction are the model's (assumption 44). -/
def Obligations.PtpMessagesTaken : Prop :=
  ∀ (s : State) (k : Fin 8) (d : Byte) (c : Int), s.ready = true →
    let u := s.clearOuts
    let now : Int := (s.stamp * 256 : Nat)
    let cfg := (s.ctl.inForce Reg.TIME_PTP_CFG).toNat
    let rx := u.count (Reg.CP_RX_FRAMES k.val) 1
    let up := s.portOn k.val = true ∧ (s.port k.val).link = true ∧ s.fence 4 k.val = 0
    let path := Config.portCorrection (tget (fun _ => 0) s.time.portDelay k.val) * 65536
    let off (t1 t2 : Int) : Int := (State.ns32Diff t2 t1 - s.time.pathDelay - path) / 65536
    (¬up → ∀ m, exec (.ptpEventMessage k d m c none) s = .next u) ∧
    (up → s.ptpPort k.val = false ∨ bits cfg 31 24 ≠ d.toNat → ∀ m, m ≠ .delayReqSent →
      exec (.ptpEventMessage k d m c none) s = .next rx) ∧
    (up → s.ptpPort k.val = true → bits cfg 31 24 = d.toNat →
      exec (.ptpEventMessage k d .delayReqSent c none) s =
        .next { u.count (Reg.CP_TX_FRAMES k.val) 1 with time := { s.time with t3 := some now } } ∧
      (∀ o, exec (.ptpEventMessage k d (.sync o true) c none) s =
        .next { rx with time := { s.time with t1 := none, t2 := some now, corr := some c } }) ∧
      (∀ r t1 t2 t3, s.time.t1 = some t1 → s.time.t2 = some t2 → s.time.t3 = some t3 →
        exec (.ptpEventMessage k d (.delayResp r) c none) s = .next { rx with time := { s.time with
          t3 := none, pathDelay := (State.ns32Diff t2 t1 + State.ns32Diff (r * 65536 - c) t3) / 2 } }) ∧
      (∀ m o t1 t2, ((m = .sync o false ∧ t1 = o * 65536 + c ∧ t2 = now) ∨
          (∃ c0, m = .followUp o ∧ t1 = o * 65536 + c0 + c ∧ s.time.corr = some c0 ∧ s.time.t2 = some t2)) →
        (off t1 t2).natAbs ≤ max 1 (bits cfg 23 16) * 1000 ∨ s.aeq.full = true ∨ (u.ptp k.val d m c).handled = true →
        ∃ t, exec (.ptpEventMessage k d m c none) s = .next t ∧
          t.time.t1 = some t1 ∧ t.time.t2 = some t2 ∧ t.time.corr = none ∧ t.reg Reg.TIME_OFFSET = wordOfInt (off t1 t2) ∧
          ((off t1 t2).natAbs ≤ max 1 (bits cfg 23 16) * 1000 →
            let i := if (off t1 t2).natAbs ≤ bits cfg 15 8 then s.time.inLock + 1 else 0
            t.time.inLock = i ∧ t.time.clock = (if s.time.clock = 2 ∨ 16 ≤ i then 2 else 1) ∧
            t.time.incPend = some (TimeSt.clampInc (Config.servoIncrement s.time.meas (off t1 t2)).toNat).1 ∧ t.mem = s.mem) ∧
          (max 1 (bits cfg 23 16) * 1000 < (off t1 t2).natAbs →
            bitOf (t.reg Reg.TIME_STATUS).toNat Ev.TIME_OFFSET_LARGE = true ∧ t.time.incPend = s.time.incPend ∧
            t.time.clock = (if s.time.everLocked then 3 else 0))) ∧
      (∀ n, s.time.master ≠ some n → ∃ t, exec (.ptpEventMessage k d (.announce n true) c none) s = .next t ∧
        t.time = { s.time with master := some n, inLock := 0, clock := if s.time.clock = 2 then 1 else s.time.clock } ∧
        bitOf (t.reg Reg.TIME_STATUS).toNat Ev.TIME_MASTER_CHANGE = true ∧ t.sched.choices = (s.sched.choices + 1) % 2 ^ 64 ∧
        t.mem = s.mem) ∧
      (∀ n b, b = false ∨ s.time.master = some n → exec (.ptpEventMessage k d (.announce n b) c none) s = .next rx))

/-- Sources that go (12 R457, R464, R467, R470): the PTP source's loss, and the third second without an edge, take the clock from TRACKING or
LOCKED to HOLDOVER, its slewing gone; an edge is stamped; SYNCE_OUT is squelched when the selected port loses FEC lock. With
another source selected nothing happens. -/
def Obligations.TimeSourcesLost : Prop :=
  ∀ (s : State) (why : SourceLoss), s.ready = true →
    let u := s.clearOuts
    let k := bits (s.ctl.inForce Reg.TIME_SYNCE).toNat 2 0
    let sec : Int := (s.time.sub / 2 ^ 40 : Nat)
    let near := (if sec < 500000000 then sec else sec - 1000000000).natAbs
    (s.time.source ≠ 1 → exec (.announceTimeout why) s = .next u) ∧
    (s.time.source = 1 → s.time.clock = 1 ∨ s.time.clock = 2 → ∃ t, exec (.announceTimeout why) s = .next t ∧
      t.time = { s.time with clock := 3, slew := 0, adjPend := none, inLock := 0, master := if why = .announce then none else s.time.master } ∧
      bitOf (t.reg Reg.TIME_STATUS).toNat Ev.TIME_HOLDOVER = true ∧ t.mem = s.mem) ∧
    (s.time.source ≠ 2 → exec .ppsInEdge s =
      .next { u.setReg Reg.TIME_PPS_IN_TS s.ns32 with time := { s.time with ppsMissed := 0 } }) ∧
    (s.time.source = 2 → near ≤ max 1 (bits (s.ctl.inForce Reg.TIME_PTP_CFG).toNat 23 16) * 1000 ∨ s.aeq.full = true ∨
      u.ppsEdge.handled = true → ∃ t, exec .ppsInEdge s = .next t ∧ t.reg Reg.TIME_PPS_IN_TS = s.ns32 ∧ t.time.ppsMissed = 0) ∧
    (s.time.source ≠ 2 → exec .ppsMissing s = .next u) ∧
    (s.time.source = 2 → ∃ t, exec .ppsMissing s = .next t ∧ t.time.ppsMissed = s.time.ppsMissed + 1 ∧
      bitOf (t.reg Reg.TIME_STATUS).toNat Ev.TIME_PPS_MISSING = true ∧
      t.time.clock = (if s.time.ppsMissed = 2 ∧ (s.time.clock = 1 ∨ s.time.clock = 2) then 3 else s.time.clock) ∧ t.mem = s.mem) ∧
    (s.synceOf k = true → ∃ t, exec .synceLos s = .next t ∧ (t.port k).fec = 0 ∧ t.time = { s.time with synceLow := true } ∧
      (∀ i, i ≠ k → t.port i = s.port i) ∧
      (s.time.synceLow = false → bitOf (t.reg Reg.TIME_STATUS).toNat Ev.TIME_SYNCE_LOS = true)) ∧
    (s.synceOf k = false → exec .synceLos s = .next u)

/-- Boundaries (12 R472, R473; 14 R534, R541; 15 R583; 03 R109): on the first tick at or after a slot boundary one of the device's lowest
started numerology takes the settings that wait for one into force; on the first at or after a multiple of 125 µs a budget period starts
with no count used, takes the budgets and the test settings and counts itself; at other ticks neither happens. -/
def Claims.PeriodsBegin : Prop :=
  ∀ s : State, s.ready = true →
    (∀ mu : Fin 4, s.slotDue mu.val = false → exec (.slotBoundary mu) s = .next s.clearOuts) ∧
    (s.periodDue 125000 = false → exec .budgetPeriodStart s = .next s.clearOuts) ∧
    (∀ mu : Fin 4, s.slotDue mu.val = true → s.bkw.regions = [] → ∃ t, exec (.slotBoundary mu) s = .next t ∧
      (mu.val = s.deviceMu → ∀ a ∈ State.slotRegs, t.ctl.inForce a = s.reg a) ∧
      (∀ a, a ∉ State.slotRegs → t.ctl.inForce a = s.ctl.inForce a) ∧ t.mem = s.mem ∧ t.cores = s.cores ∧ t.time = s.time) ∧
    (s.periodDue 125000 = true → s.sched.tele = [] → ∃ t, exec .budgetPeriodStart s = .next t ∧ (∀ kind unit a, t.used kind unit a = 0) ∧
      t.reg Reg.SCHED_PERIOD = s.reg Reg.SCHED_PERIOD + 1 ∧
      (∀ kind a, kind < 5 → 1 ≤ a → a ≤ 5 → t.minOf kind a = (s.ctl.arr bankMin (a + kind * 16)).toNat ∧
        t.maxOf kind a = (s.ctl.arr bankMax (a + kind * 16)).toNat) ∧
      (∀ a ∈ [Reg.FAULT_SUSPECT_CFG, Reg.FAULT_TEST_CFG], t.ctl.inForce a = s.reg a) ∧
      t.mem = s.mem ∧ t.cores = s.cores ∧ t.mbx = s.mbx)

/-- Ticks, frame and slot boundaries, and budget periods (12; 14 R534). -/
def Obligations.BoundariesPass : Prop := Claims.TickAdvances ∧ Claims.PeriodsBegin


/-! ## Power (16 R590 to R609) -/

/-- An estimator interval (16 R590 to R602): at the first tick at or after a multiple of 1 µs the estimate and its peak are shown; the
bubbles step by at most 3 toward the target of estimate, cap and gain; every core's floor steps by the slope toward its standing target,
clamped there; PWR.CAP and PWR.CFG come into force; throttling is counted; a fourth interval in which the channels differ is a grave
fault. At another tick nothing happens. No domain waits to go off. -/
def Obligations.EstimatorSteps : Prop :=
  ∀ (s : State) (a b : BitVec 17), s.ready = true →
    let cfg := (s.ctl.inForce Reg.PWR_CFG).toNat
    let cap := State.capOf (bits (s.ctl.inForce Reg.PWR_CAP).toNat 15 0)
    let n := State.bubbleStep s.pwr.bubble (State.bubbleTarget a.toNat cap (max 1 (bits cfg 11 8)))
    let slope := min 51 (max 1 (bits cfg 5 0))
    let div := if State.channelsDiffer a.toNat b.toNat then s.pwr.diverge + 1 else 0
    (s.periodDue 1000 = false → exec (.estimatorInterval a b) s = .next s.clearOuts) ∧
    (s.periodDue 1000 = true → s.pwr.dying = [] → ∃ t, exec (.estimatorInterval a b) s = .next t ∧
      t.reg Reg.PWR_EST = BitVec.ofNat 32 a.toNat ∧
      (t.reg Reg.PWR_EST_PEAK).toNat = max a.toNat (s.reg Reg.PWR_EST_PEAK).toNat ∧
      t.pwr.bubble = n ∧ n ≤ s.pwr.bubble + 3 ∧ s.pwr.bubble ≤ n + 3 ∧ t.pwr.diverge = div ∧
      (∀ p, p < 52 → tget (fun _ => 0) t.pwr.floor p = State.floorStep slope (tget (fun _ => 0) s.pwr.floor p) (s.standing p)) ∧
      (n ≠ 0 → t.reg Reg.PWR_THROTTLE_CNT = s.reg Reg.PWR_THROTTLE_CNT + 1 ∧
        bitOf (t.reg Reg.PWR_STATUS).toNat Ev.PWR_THROTTLE = true) ∧
      (∀ r ∈ [Reg.PWR_CAP, Reg.PWR_CFG], t.ctl.inForce r = s.reg r) ∧
      (div < 4 → t.mode = .running ∧ t.cores = s.cores ∧ t.mem = s.mem) ∧
      (4 ≤ div → t.mode = .spill ∧ t.reg Reg.FAULT_SPILL_CAUSE = 0x1005))

/-- A temperature reading (16 R608, R609): the sensor's value and the maximum are kept, an armed threshold that the hottest sensor passes
raises its event once, until 2 °C below it arms it again, and a sensor's second reading in a row above the trip point is a grave fault. -/
def Obligations.SensorReadings : Prop :=
  ∀ (s : State) (k : Fin 9) (v : BitVec 16), s.ready = true →
    let w := BitVec.ofNat 32 v.toNat
    let cfg := (s.reg Reg.PWR_THERM_CFG).toNat
    let heat := sext 16 v.toNat
    let others := (List.range 9).map fun i => if i = k.val then heat else sext 16 (s.ctl.arr bankTemp i).toNat
    let above (lim : Nat) : Prop := ∃ x ∈ others, (lim * 16 : Int) < x
    let cooled (lim : Nat) : Prop := ∀ x ∈ others, x ≤ (lim * 16 : Int) - 32
    ∃ t, exec (.sensorReading k v) s = .next t ∧ t.ctl.arr bankTemp k.val = w ∧
      (∀ i, i ≠ k.val → t.ctl.arr bankTemp i = s.ctl.arr bankTemp i) ∧
      t.reg Reg.PWR_TEMP_MAX = (if sext 16 (s.reg Reg.PWR_TEMP_MAX).toNat < heat then w else s.reg Reg.PWR_TEMP_MAX) ∧
      t.ctl.inForce Reg.PWR_THERM_CFG = s.reg Reg.PWR_THERM_CFG ∧
      (s.pwr.warnArmed = true → above (bits cfg 7 0) → bitOf (t.reg Reg.PWR_STATUS).toNat Ev.PWR_THERM_WARN = true) ∧
      (s.pwr.hotArmed = true → above (bits cfg 15 8) → bitOf (t.reg Reg.PWR_STATUS).toNat Ev.PWR_THERM_HOT = true) ∧
      (above (bits cfg 7 0) → t.pwr.warnArmed = false) ∧ (above (bits cfg 15 8) → t.pwr.hotArmed = false) ∧
      (cooled (bits cfg 7 0) → t.pwr.warnArmed = true) ∧ (cooled (bits cfg 15 8) → t.pwr.hotArmed = true) ∧
      (heat ≤ (bits cfg 23 16 * 16 : Nat) ∨ tget (fun _ => 0) s.pwr.tripRun k.val = 0 → t.mode = .running ∧ t.cores = s.cores) ∧
      ((bits cfg 23 16 * 16 : Nat) < heat → tget (fun _ => 0) s.pwr.tripRun k.val ≠ 0 →
        t.mode = .spill ∧ t.reg Reg.FAULT_SPILL_CAUSE = 0x2006)

/-- Voltage margin (16 R603 to R606): low slack raises a domain's output by 2.5 mV, at most to the fused maximum, the rail
too where it leaves no headroom; without an answer of the regulator nothing rises; the thousandth report in a row of low slack at the
maximum, 1 ms, fails the domain; a report without low slack only ends the row. A step down comes at most once a second, after a second of
reports of high slack alone, inside the calibration allowance and not below the fused minimum. The step of the rail is open
(assumption 62). -/
def Obligations.VoltageMargin : Prop :=
  ∀ (s : State) (d : Fin 65), s.ready = true →
    let u := s.clearOuts
    let v := s.millivolts d.val
    let rail := 65 + State.railOf d.val
    let zero : Nat → Nat := fun _ => 0
    let row := tget zero s.pwr.slackLow d.val
    let seen (n : Nat) (x : Slack) : Pwr := { s.pwr with
      slackLow := tput zero s.pwr.slackLow d.val n
      notHigh := if x = .high then s.pwr.notHigh else tset s.pwr.notHigh d.val s.time.ticks }
    (∀ x headroom avsOk, s.domOn d.val = false → exec (.marginCheck d x headroom avsOk) s = .next u) ∧
    (∀ x headroom avsOk, s.domOn d.val = true → x ≠ .low →
      exec (.marginCheck d x headroom avsOk) s = .next { u with pwr := seen 0 x }) ∧
    (∀ headroom avsOk, s.domOn d.val = true → s.fuses.vMax ≤ v → row + 1 < 1000 →
      exec (.marginCheck d .low headroom avsOk) s = .next { u with pwr := seen (row + 1) .low }) ∧
    (∀ headroom avsOk, s.domOn d.val = true → s.fuses.vMax ≤ v → 1000 ≤ row + 1 → d.val ≠ 63 → ∃ t,
      exec (.marginCheck d .low headroom avsOk) s = .next t ∧ bitOf (t.reg Reg.PWR_STATUS).toNat Ev.PWR_DOMAIN_FAIL = true ∧
      (d.val < 52 → s.fence 5 (d.val / 13) = 0 → t.fence 0 d.val ≠ 0)) ∧
    (∀ headroom avsOk, s.domOn d.val = true → v < s.fuses.vMax → ∃ t,
      exec (.marginCheck d .low headroom avsOk) s = .next t ∧
      t.millivolts d.val = (if headroom || avsOk then min s.fuses.vMax (v + 25) else v) ∧
      t.millivolts rail = (if !headroom && avsOk then s.millivolts rail + Config.railStep else s.millivolts rail) ∧
      ((headroom || avsOk) = true → bitOf (t.reg Reg.PWR_STATUS).toNat Ev.PWR_VRAISE = true) ∧
      ((headroom || avsOk) = false → bitOf (t.reg Reg.PWR_STATUS).toNat Ev.PWR_AVS_FAIL = true) ∧
      tget zero t.pwr.slackLow d.val = 0 ∧ t.cores = s.cores ∧ t.mem = s.mem ∧ t.fences = s.fences) ∧
    let may := s.domOn d.val = true ∧ tget zero s.pwr.notHigh d.val + 245760000 ≤ s.time.ticks ∧ s.fuses.vMin + 25 ≤ v ∧
      (∀ x, State.calibUnit d.val = some x → s.used x.1 x.2 4 < s.maxOf x.1 4) ∧
      (∀ at_, tfind s.pwr.lowered d.val = some at_ → at_ + 245760000 ≤ s.time.ticks)
    (may → ∃ t, exec (.voltageLower d) s = .next t ∧ t.millivolts d.val = v - 25 ∧
      tfind t.pwr.lowered d.val = some s.time.ticks ∧ (∀ i, i ≠ d.val → t.millivolts i = s.millivolts i) ∧
      t.ctl = s.ctl ∧ t.cores = s.cores ∧ t.mem = s.mem) ∧
    (¬may → exec (.voltageLower d) s = .next u)

/-! ## The front end (10_delta_front_end.md) -/

/-- SYSREF and lanes (10 R366 to R370, R394): the first edge after a start aligns the direction on the LEMC grid, every link of it up, or
stops it; a later one off the grid counts as a slip, and a receive one brings its links up; a lane that loses sync takes its link down; a
multiblock with a bad CRC counts at its lane. A direction that is off or not aligned takes none. -/
def Obligations.LinksFollowSysref : Prop :=
  ∀ (s : State) (off : Nat) (lane : Fin 12), s.ready = true →
    let u := s.clearOuts
    let slip (t : State) : Prop := bitOf (t.reg Reg.DFE_STATUS).toNat Ev.DFE_SYSREF_SLIP = true
    let dir (t : State) (tx : Bool) : DirSt := if tx then t.dfe.tx else t.dfe.rx
    let all (tx : Bool) : List Nat := (s.links bankCfgEff tx).map (·.1)
    (∀ tx, (dir s tx).on = false → exec (.sysrefEdge tx off) s = .next u) ∧
    (∀ tx, (dir s tx).on = true → (dir s tx).aligned = false → s.onLemc tx = true → ∃ t, exec (.sysrefEdge tx off) s = .next t ∧
      dir t tx = { dir s tx with aligned := true, links := all tx, edge := s.ns32, t0 := s.radioTc } ∧ dir t (!tx) = dir s (!tx) ∧
      t.reg Reg.DFE_SYSREF_TIME = s.ns32 ∧ t.mem = s.mem ∧ t.cores = s.cores) ∧
    (∀ tx, (dir s tx).on = true → (dir s tx).aligned = false → s.onLemc tx = false → ∃ t, exec (.sysrefEdge tx off) s = .next t ∧
      dir t tx = DirSt.reset ∧ dir t (!tx) = dir s (!tx) ∧ slip t) ∧
    ((dir s true).on = true → (dir s true).aligned = true → off ≤ 1 → exec (.sysrefEdge true off) s = .next u) ∧
    ((dir s false).on = true → (dir s false).aligned = true → off ≤ 1 → ∃ t, exec (.sysrefEdge false off) s = .next t ∧
      t.dfe = { s.dfe with rx := { s.dfe.rx with links := all false } } ∧ t.mem = s.mem ∧ t.cores = s.cores) ∧
    (∀ tx, (dir s tx).on = true → (dir s tx).aligned = true → 1 < off → ∃ t, exec (.sysrefEdge tx off) s = .next t ∧ slip t ∧
      t.reg Reg.DFE_SYSREF_SLIP_CNT = s.reg Reg.DFE_SYSREF_SLIP_CNT + 1 ∧ (dir t tx).aligned = true) ∧
    (s.dfe.rx.aligned = false → ∀ ok, exec (.rxMultiblock lane ok) s = .next u) ∧
    (s.dfe.rx.aligned = true →
      exec (.rxMultiblock lane true) s = .next u ∧
      (∃ t, exec (.rxMultiblock lane false) s = .next t ∧
        t.ctl.arr bankLaneCrc lane.val = s.ctl.arr bankLaneCrc lane.val + 1 ∧
        bitOf (t.reg Reg.DFE_STATUS).toNat Ev.DFE_LANE_CRC = true ∧ t.dfe = s.dfe ∧ t.mem = s.mem)) ∧
    (∀ i, s.laneLink lane.val = some i → i ∈ s.dfe.rx.links → ∃ t, exec (.laneSyncLoss lane) s = .next t ∧
      t.dfe = { s.dfe with rx := { s.dfe.rx with links := s.dfe.rx.links.filter (· ≠ i) } } ∧
      t.reg Reg.DFE_LINK_DROP_CNT = s.reg Reg.DFE_LINK_DROP_CNT + 1 ∧ bitOf (t.reg Reg.DFE_STATUS).toNat Ev.DFE_LINK_DOWN = true) ∧
    ((∀ i, s.laneLink lane.val = some i → i ∉ s.dfe.rx.links) → exec (.laneSyncLoss lane) s = .next u)

/-- FFT_DRAIN (10 R370, R376, R377, R380; 02 R45, R46, R60): once the FFT window of a symbol has come, every position of the carrier has in
its grid block each subcarrier as the F0-weighted bin at its antenna's place, and zero beyond the carrier's; no other byte changes.
Without a window, a carrier or an aligned link nothing happens. The clusters are in service and mirror nothing, no two positions share a
block. The place of a block is an assumption (20), and so are the FFT's twiddles (7, 58). -/
def Claims.FftDrains : Prop :=
  ∀ (s : State) (ch : Fin 64) (y : SymId), s.ready = true →
    let r := s.chanRec bankCfgEff false ch.val
    let base (x : Nat × Nat × RxPlace) : Nat := gridAddr x.2.2.cluster.val x.2.2.block.val y
    (s.dfe.rx.aligned = false ∨ r.valid = false ∨ s.carrierOf r.carrier = none ∨ s.fftWindow ch.val r y = none →
      exec (.fftDrain ch y) s = .next s.clearOuts) ∧
    (∀ (c : CarrierRec) (w : List Cplx), s.dfe.rx.aligned = true → r.valid = true → s.carrierOf r.carrier = some c →
      s.fftWindow ch.val r y = some w → r.ant < s.gridAnts c → s.gridAnts c ≤ 16 → ((State.rxSpots c).map base).Nodup →
      (∀ x ∈ State.rxSpots c, s.fence 5 x.2.2.cluster.val = 0 ∧ s.mirrorOn x.2.2.cluster.val c.mu.val y = false) → ∃ t,
      exec (.fftDrain ch y) s = .next t ∧ t.dfe = s.dfe ∧ t.cores = s.cores ∧
      (∀ x ∈ State.rxSpots c, ∀ i, i < 256 →
        let n := 2 ^ r.nfft
        let sp := posSpan c.group (12 * c.nrb) x.1 x.2.1
        let bins := fft false r.nfft w
        let bins : List Cplx := if r.cut = 0 then bins else bins.zipIdx.map fun b => cmul15 b.1 (twid true r.nfft (b.2 * r.cut))
        let b : Cplx := bins.getD ((sp.1 + i + r.k0) % n) ⟨0, 0⟩
        let f := s.f0Of r y
        let d : Int := (2 ^ (15 + r.shift) : Nat)
        leNat (readBytes t.mem (base x + (i * s.gridAnts c + r.ant) * 4) 4) =
          if i < sp.2 then (cqWord ⟨(b.re * f.re - b.im * f.im) / d, (b.re * f.im + b.im * f.re) / d⟩).1.toNat else 0) ∧
      ∀ a, (∀ x ∈ State.rxSpots c, a < base x ∨ base x + 0x4000 ≤ a) → tget zeroByte t.mem a = tget zeroByte s.mem a)

/-- AGC (10 R373, R381 to R384, R397): a block decides on its raw samples, the index kept while AGC is off or frozen or its link down; a
changed index is sent at once, or at a cyclic prefix, and reaches the compensation after its delay; settings written during a block hold
from the next one; and the NCO of each channel of the stream advances by its step for every sample. Other streams keep their AGC, and
where no chirp channel is fed, memory and cores stay. -/
def Claims.AgcDecides : Prop :=
  ∀ (s : State) (i : Fin 32) (block : List (Int × Int × Bool)), s.ready = true →
    let a := s.agcOf i.val
    let cfg := a.cfg.toNat
    let x := (s.streamsOf bankCfgEff false).getD i.val (9, false)
    let en := bitOf cfg 31
    let frozen := a.freeze || !(x.1 ∈ s.dfe.rx.links) || (bitOf cfg 30 && s.inHoldoff i.val)
    let d := if en = false then (a.att, a.below) else if frozen then (a.att, 0)
      else State.agcDecide cfg a.high.toNat a.low.toNat block a.att a.below
    let send := en = true ∧ frozen = false ∧ d.1 ≠ a.sent ∧ (bitOf cfg 29 = false ∨ s.cpStarts i.val x.2 a.n = true)
    let fed := ∃ k : Fin 8, (s.chirpRec k.val).valid = true ∧ (s.chirpRec k.val).source = i.val
    let phase (t : State) (k : Nat) : Nat := (tget (fun _ => ChanSt.reset) t.dfe.rxChans k).phase
    (s.dfe.rx.aligned = false → exec (.agcBlock i block) s = .next s.clearOuts) ∧
    (s.dfe.rx.aligned = true → ∃ t, exec (.agcBlock i block) s = .next t ∧
      (∀ j, j ≠ i.val → t.agcOf j = s.agcOf j) ∧
      (t.agcOf i.val).att = d.1 ∧ (t.agcOf i.val).below = d.2 ∧ (t.agcOf i.val).n = a.n + block.length ∧
      (t.agcOf i.val).cfg = s.reg Reg.DFE_AGC_CFG ∧ (t.agcOf i.val).high = s.reg Reg.DFE_AGC_HIGH ∧
      (t.agcOf i.val).low = s.reg Reg.DFE_AGC_LOW ∧ (t.agcOf i.val).freeze = bitOf (s.reg Reg.DFE_AGC_FREEZE).toNat i.val ∧
      (t.agcOf i.val).delay = bits (s.reg Reg.DFE_AGC_DELAY).toNat 7 0 ∧
      (send → (t.agcOf i.val).sent = d.1) ∧ (¬send → (t.agcOf i.val).sent = a.sent) ∧
      (a.queue = [] → (t.agcOf i.val).comp = a.comp ∧
        (send → (t.agcOf i.val).queue = [(i.val / 4 * (if x.2 then 8 else 16) + a.delay, d.1)]) ∧
        (¬send → (t.agcOf i.val).queue = [])) ∧
      (¬fed → t.mem = s.mem ∧ t.cores = s.cores ∧ (send → t.outs = [.agc (i.val % 4) d.1 (i.val / 4)]) ∧ (¬send → t.outs = [])) ∧
      (block ≠ [] → ∀ k ∈ s.chans bankCfgEff false,
        phase t k.1 = if k.2.stream = i.val then (phase s k.1 + block.length * k.2.nco) % 2 ^ 32 else phase s k.1))

/-- The chirp receiver (10 R394, R395): once the samples of its next window have come, a window that does not meet the peak test ends a
run; one that completes a run of PRE_MIN outside the hold-off is a detection: an entry with its first sample, bin, powers and time is
written at the next place of the descriptor ring, and it is counted. The place of TIME (assumption 23) and the window powers
(assumption 7) are the model's. -/
def Claims.ChirpWindows : Prop :=
  ∀ (s : State) (ch sf : Fin 8), s.ready = true →
    let u := s.clearOuts
    let r := s.chirpRec ch.val
    let n := 2 ^ (sf.val + 5)
    let c := tget (fun _ => ChirpSt.reset) s.dfe.chirp (ch.val * 8 + sf.val)
    let win := s.chirpWindow ch.val (sf.val + 5) c.win
    let live := s.dfe.rx.aligned = true ∧ r.valid = true ∧ bitOf r.sfMask sf.val = true
    let place := tget (fun _ => 0) s.dfe.place ch.val
    let seq := tget (fun _ => 0) s.dfe.seq ch.val
    (¬live ∨ win = none → exec (.chirpWindow ch sf) s = .next u) ∧
    ∀ xs, win = some xs → live →
      let bins := (List.range n).map fun k => (Config.chirpPower (sf.val + 5) (pairsOf xs)).getD k 0
      let m := State.chirpTest (sf.val + 5) r.thresh bins
      let quiet : ChirpSt := ⟨0, false, m.1, c.hold - 1, c.win + 1⟩
      (m.2.2.2 = false → r.preMin ≠ 0 → exec (.chirpWindow ch sf) s =
        .next { u with dfe := { s.dfe with chirp := tset s.dfe.chirp (ch.val * 8 + sf.val) quiet } }) ∧
      (m.2.2.2 = true → c.hitPrev = false → r.preMin = 1 → c.hold = 0 → ∃ t, exec (.chirpWindow ch sf) s = .next t ∧
        t.reg Reg.DFE_CSS_DET_CNT = s.reg Reg.DFE_CSS_DET_CNT + 1 ∧ bitOf (t.reg Reg.DFE_STATUS).toNat Ev.DFE_CSS_DET = true ∧
        tget (fun _ => ChirpSt.reset) t.dfe.chirp (ch.val * 8 + sf.val) = ⟨1, true, m.1, r.holdoff, c.win + 1⟩ ∧
        tget (fun _ => 0) t.dfe.place ch.val = (place + 1) % max 1 r.descN ∧
        ∀ b, (s.place (r.desc + place * 32)).1 = .mem b → 32 ≤ (s.place (r.desc + place * 32)).2 →
          readBytes t.mem b 32 = leBytes 6 (c.win * 4 * n % 2 ^ 48) ++ [BitVec.ofNat 8 ch.val, BitVec.ofNat 8 (sf.val + 5)]
            ++ leBytes 2 m.1 ++ [BitVec.ofNat 8 r.preMin, 0] ++ leBytes 4 (s.chirpTime r.bw (c.win * 4 * n % 2 ^ 48)).toNat
            ++ leBytes 4 m.2.1.toNat ++ leBytes 4 m.2.2.1.toNat ++ leBytes 2 seq ++ List.replicate 6 0)

/-- Receive samples (10 R373 to R384, R394, R395). -/
def Obligations.SamplesReceived : Prop := Claims.FftDrains ∧ Claims.AgcDecides ∧ Claims.ChirpWindows

/-- Transmit samples (10 R385 to R391, R397): at 6,000 ns before a symbol each channel of its carrier sends the symbol that is handed over as
burst of its inverse transform, or zeros of a late one, which counts; the next block of a stream leaves both crest-factor stages two
blocks later, unchanged where the threshold is 0, as zero codes where the stream is muted or the device in the spillway state; the mask
checker mutes a stream after its number of averages in a row above its table; the threshold is taken at a symbol boundary of its stream's
numerology. What a local maximum is, and the twiddles, are the model's (assumptions 22 and 58). -/
def Obligations.SamplesSent : Prop :=
  ∀ s : State,
    let u := s.clearOuts
    (∀ (c : Fin 16) (y : SymId), s.ready = true →
      (s.carrierOf c.val = none ∨ s.dfe.tx.aligned = false ∨ s.downOn 6000 = false → exec (.ifftStart c y) s = .next u) ∧
      ∀ r, s.carrierOf c.val = some r →
        let mine := (s.chans bankCfgEff true).filter fun x => x.2.carrier == c.val
        let sent (t : State) (k : Nat) := (tget (fun _ => ChanSt.reset) t.dfe.txChans k).bursts
        (s.ifftDue r.mu.val y = false → exec (.ifftStart c y) s = .next u) ∧
        (s.ifftDue r.mu.val y = true → s.dfe.tx.aligned = true → s.downOn 6000 = true → ∃ t, exec (.ifftStart c y) s = .next t ∧
          t.outs = mine.map (fun x =>
            let b := (s.bodyOf x.2 y r).1
            Out.burst x.1 y (if s.symHanded c.val y then b else b.map fun _ => ⟨0, 0⟩)) ∧
          (∀ x ∈ mine, (sent t x.1).length = (sent s x.1).length + 1) ∧
          (s.symHanded c.val y = false → t.tx = { s.tx with lateSyms := s.tx.lateSyms ++ [(c.val, y)] } ∧
            t.reg Reg.TXP_SYM_LATE_CNT = s.reg Reg.TXP_SYM_LATE_CNT + 1 ∧ bitOf (t.reg Reg.TXP_STATUS).toNat Ev.TXP_SYM_LATE = true) ∧
          (s.symHanded c.val y = true → t.tx = s.tx) ∧ t.mem = s.mem ∧ t.cores = s.cores)) ∧
    (∀ i : Fin 32,
      (s.ready = true → s.dfe.tx.aligned = false → exec (.cfrBlock i) s = .next u) ∧
      (s.ready = true → s.dfe.tx.aligned = true → ∃ (t : State) (out : List Cplx),
        exec (.cfrBlock i) s = .next t ∧ t.outs = [.samples i.val out] ∧ t.mem = s.mem ∧ t.cores = s.cores ∧
        (s.muted i.val = true → out = List.replicate 64 ⟨0, 0⟩) ∧
        (s.muted i.val = false → (s.txStream i.val).t = 0 →
          out = ((s.txStream i.val).s2.ys ++ ((s.txStream i.val).s1.ys ++ (s.streamBlock i.val).1).take 64).take 64) ∧
        (t.txStream i.val).n = (s.txStream i.val).n + 64 ∧ (∀ j, j ≠ i.val → t.txStream j = s.txStream j)) ∧
      (s.mode = .spill → s.dfe.tx.on = true → ∃ t, exec (.cfrBlock i) s = .next t ∧
        t.outs = [.samples i.val (List.replicate 64 ⟨0, 0⟩)] ∧ t.dfe = s.dfe ∧ t.mem = s.mem)) ∧
    (∀ i : Fin 32, s.ready = true →
      let cfg := (s.reg Reg.DFE_MASK_CFG).toNat
      let x := s.txStream i.val
      let table := (s.linkRec bankCfgEff true ((s.streamsOf bankCfgEff true).getD i.val (0, false)).1).mask
      let tooLoud (k : Nat) : Bool :=
        (laneFp (BitVec.ofNat 32 (s.cfgField (0xC000 + (table * 256 + k) * 4) 4))).1.lt (laneFp (x.sums.getD k 0)).1
      let whole := s.dfe.tx.aligned = true ∧ bits cfg 5 0 + 1 ≤ x.wins
      let others (t : State) : Prop := (∀ j, j ≠ i.val → t.txStream j = s.txStream j) ∧ t.mem = s.mem ∧ t.cores = s.cores
      (¬whole → exec (.maskAverage i) s = .next u) ∧
      (whole → bitOf cfg 31 = false → ∃ t, exec (.maskAverage i) s = .next t ∧
        t.txStream i.val = { x with sums := [], wins := 0 } ∧ t.ctl = s.ctl ∧ others t) ∧
      (whole → bitOf cfg 31 = true → s.muted i.val = true ∨ (∀ k, k < 256 → tooLoud k = false) → ∃ t,
        exec (.maskAverage i) s = .next t ∧ t.txStream i.val = { x with sums := [], wins := 0, viol := 0 } ∧ t.ctl = s.ctl ∧ others t) ∧
      (whole → bitOf cfg 31 = true → s.muted i.val = false → (∃ k, k < 256 ∧ tooLoud k = true) → ∃ t,
        exec (.maskAverage i) s = .next t ∧ t.txStream i.val = { x with sums := [], wins := 0, viol := x.viol + 1 } ∧
        t.reg Reg.DFE_MASK_VIOL_CNT = s.reg Reg.DFE_MASK_VIOL_CNT + 1 ∧ others t ∧
        (max 1 (bits cfg 11 8) ≤ x.viol + 1 → t.muted i.val = true ∧
          bitOf (t.reg Reg.DFE_STATUS).toNat Ev.DFE_MASK_MUTE = true) ∧
        (x.viol + 1 < max 1 (bits cfg 11 8) → t.muted i.val = false))) ∧
    ∀ mu : Fin 4, s.ready = true →
      let due := s.leadDue (symStart mu.val (s.time.symNow mu.val)) 0
      (due = false → exec (.symbolBoundary mu) s = .next u) ∧
      (due = true → ∃ t, exec (.symbolBoundary mu) s = .next t ∧ t.mem = s.mem ∧ t.cores = s.cores ∧ t.ctl = s.ctl ∧
        ∀ i, i < 32 → t.txStream i =
          match (s.chans bankCfgEff true).find? fun c => c.2.stream == i with
          | some c => if c.2.mu = mu.val then { s.txStream i with t := bits (s.reg Reg.DFE_CFR_THRESH).toNat 15 0 } else s.txStream i
          | none => s.txStream i)


/-! ## The Tributary transport (11 R406 to R434) -/

/-- A frame that fails a check (11 R407, R434): on a port that carries no fabric traffic nothing happens; else it is counted
as received and discarded, as a misroute for its version, type, reserved fields or destination, as a CRC error for its
checksum or length, as an address conflict for a source that is the device's own address. The order of the checks is the
model's reading (assumption 39). -/
def Claims.BadFramesDiscarded : Prop :=
  ∀ (s : State) (k : Fin 8) (f : Frame) (own : Bool) (mac : BitVec 48), s.ready = true → ∀ c ∈ frameRows k f own mac,
    let rx := s.clearOuts.count (Reg.CP_RX_FRAMES k.val) 1
    let misrouted := ((rx.count Reg.TRIB_MISROUTE_CNT 1).event Reg.TRIB_STATUS Ev.TRIB_MISROUTE).sortLog
    let form := f.ver = 1 ∧ f.typ ≠ 0 ∧ f.typ.toNat ≤ 9 ∧ zeroFields f = true
    let whole := f.crc = frameCrc f ∧ f.length.toNat = f.payload.length ∧ f.payload.length ≤ 4096
    let mine := s.fabric = some f.dst.toNat ∨ (6 ≤ f.typ.toNat ∧ f.dst = 0x3FFFF)
    (s.portUsable k.val = false → exec c.1 s = .next s.clearOuts) ∧
    (s.portUsable k.val = true →
      (¬form → exec c.1 s = .next misrouted) ∧
      (form → ¬whole → exec c.1 s = .next ((rx.count Reg.TRIB_CRC_ERR_CNT 1).event Reg.TRIB_STATUS Ev.TRIB_CRC_ERR)) ∧
      (form → whole → ¬mine → exec c.1 s = .next misrouted) ∧
      (form → whole → mine → s.fabric = some f.src.toNat → exec c.1 s = .next (rx.event Reg.TRIB_STATUS Ev.TRIB_ADDR_CONFLICT).sortLog))

/-- Data frames in order (11 R408 to R411, R417, R418): a WRITE puts its payload at its address and changes no other byte; a READ_REQ queues the
data it asks for, as stored, to its source; a READ_RESP puts its payload where its request said, one with ERR or without a request
nowhere. The cumulative point moves on by one, an acknowledgement is owed, and leaves at once after LAST, or with ERR for a WRITE that ends
in error (07 R271, R272). A frame received before counts as a duplicate and lands nowhere. Labels of a slot whose captures have passed are
no such WRITE (09 R326). -/
def Claims.DataFramesLand : Prop :=
  ∀ (s : State) (k : Fin 8) (f : Frame) (own : Bool) (b : Nat), s.ready = true →
    let src := f.src.toNat
    let x := s.srcSt src
    let last := bitOf f.flags.toNat 0
    let c := (x.c + 1) % 2 ^ 24
    let moved (t : State) : Prop := t.srcSt src = { x with port := k.val, c := c, gapAt := none, ackOwed := !last } ∧ t.cores = s.cores
    (s.accepts k.val 1 f = true → s.inOrder f = true → s.landsAt f.addr.toNat f.payload.length b →
      s.labelsLate f.addr.toNat f.payload = false → ∃ t,
      exec (.write k f own) s = .next t ∧ moved t ∧ readBytes t.mem b f.payload.length = f.payload ∧
      (∀ a, a < b ∨ b + f.payload.length ≤ a → tget zeroByte t.mem a = tget zeroByte s.mem a) ∧
      t.outs = (if last then s.frameOut k.val (mkFrame 4 0 src s.srcAddr c 0 0 0 []) else [])) ∧
    (∀ o, s.accepts k.val 1 f = true → s.inOrder f = true → State.csrOff f.addr.toNat = some o → bitOf f.flags.toNat 4 = false → last = false → ∃ t,
      exec (.write k f own) s = .next t ∧ (t.srcSt src).c = c ∧ t.mem = s.mem ∧ t.cores = s.cores ∧
      t.outs = s.frameOut k.val (mkFrame 4 8 src s.srcAddr c 0 f.xfer.toNat 0 [])) ∧
    (∀ (j n : Nat) (dest : Nat), s.accepts k.val 2 f = true → s.inOrder f = true → dest = fieldAt f.payload 0 8 →
      n = fieldAt f.payload 8 4 → 4 ≤ n → n ≤ 65536 → dest % 4096 + n ≤ 4096 → s.landsAt f.addr.toNat n b → s.poisoned b n = [] →
      State.portOf src f.xfer.toNat (s.routePorts src) = some j → (s.destSt src).unreach = false → ∃ (t : State) (o : OutFrame),
      exec (.readReq k f own) s = .next t ∧ moved t ∧ (t.destSt src).out = (s.destSt src).out ++ [o] ∧ o.port = j ∧
      o.f = mkFrame 3 1 src s.srcAddr (s.destSt src).next f.basin.toNat f.xfer.toNat dest (readBytes s.mem b n) ∧ t.mem = s.mem) ∧
    (∀ r, s.accepts k.val 3 f = true → s.inOrder f = true → s.trib.remotes = [r] → r.xfer = f.xfer.toNat → r.dst = src → r.write = false →
      r.who = whoNone → bitOf f.flags.toNat 3 = false → s.landsAt f.addr.toNat f.payload.length b → ∃ t,
      exec (.readResp k f own) s = .next t ∧ moved t ∧ readBytes t.mem b f.payload.length = f.payload ∧
      t.trib.remotes = (if r.left ≤ f.payload.length then [] else [{ r with left := r.left - f.payload.length }])) ∧
    (s.accepts k.val 3 f = true → s.inOrder f = true → s.trib.remotes = [] → ∃ t,
      exec (.readResp k f own) s = .next t ∧ moved t ∧ t.mem = s.mem) ∧
    (∀ (typ : Nat) (cmd : Instr), (cmd, typ) ∈ [(Instr.write k f own, 1), (.readReq k f own, 2), (.readResp k f own, 3)] →
      s.accepts k.val typ f = true → bitOf f.flags.toNat 2 = false → f.seq.toNat ∈ x.got ∨ 1024 ≤ (f.seq.toNat + 2 ^ 24 - x.c) % 2 ^ 24 → ∃ t,
      exec cmd s = .next t ∧ t.reg Reg.TRIB_DUP_CNT = s.reg Reg.TRIB_DUP_CNT + 1 ∧ t.mem = s.mem ∧ t.cores = s.cores ∧
      (t.srcSt src).c = x.c ∧ (t.srcSt src).got = x.got)

/-- Frames that fail a check, and frames that land (11 R407 to R417). -/
def Obligations.FramesReceived : Prop := Claims.BadFramesDiscarded ∧ Claims.DataFramesLand

/-- Retries and acknowledgements (11 R418 to R422): an ACK frees the frames below its SEQ; a NACK, or a frame's timeout,
sends the frame again with RETRY on its port, until its destination is unreachable, every frame to it dropped and its record
shown; owed acknowledgements and a gap that stays open are sent at their timers. Other frames and cores stay. The port of an
answer is the model's choice (assumption 40). -/
def Obligations.FramesRetried : Prop :=
  ∀ (s : State) (k : Fin 8) (f : Frame) (a : BitVec 18) (q : BitVec 24) (own : Bool) (o : OutFrame), s.ready = true → s.trib.remotes = [] →
    let u := s.clearOuts
    let d := f.src.toNat
    let x := s.srcSt a.toNat
    let again (t : State) (d : Nat) : Prop :=
      (t.destSt d).out = [{ o with sends := o.sends + 1, lastSent := s.time.ticks }] ∧ t.outs = s.frameOut o.port (retryFrame o.f) ∧
      t.reg Reg.TRIB_RETRY_CNT = s.reg Reg.TRIB_RETRY_CNT + 1 ∧ t.mem = s.mem ∧ t.cores = s.cores
    let lost (t : State) (d : Nat) : Prop :=
      t.destSt d = { s.destSt d with out := [], unreach := true } ∧ t.reg Reg.TRIB_UNREACH_CNT = s.reg Reg.TRIB_UNREACH_CNT + 1 ∧
      bitOf (t.reg Reg.TRIB_STATUS).toNat Ev.TRIB_UNREACH = true ∧ t.outs = [] ∧ t.mem = s.mem ∧ t.cores = s.cores
    let more := o.sends < bits o.cfg.toNat 19 16 + 1
    (s.accepts k.val 4 f = true → (∀ g ∈ (s.destSt d).out, 0 < g.sends) → ∃ t, exec (.ack k f) s = .next t ∧
      (t.destSt d).out = (s.destSt d).out.filter (fun g => !seqBelow g.f.seq.toNat f.seq.toNat) ∧ t.outs = [] ∧ t.mem = s.mem ∧
      t.cores = s.cores) ∧
    (s.accepts k.val 5 f = true → (s.destSt d).out = [o] → 0 < o.sends → o.f.seq = f.seq →
      (more → s.portUsable o.port = true → ∃ t, exec (.nack k f) s = .next t ∧ again t d) ∧
      (¬more → ∃ t, exec (.nack k f) s = .next t ∧ lost t d)) ∧
    ((s.destSt a.toNat).out = [o] → 0 < o.sends → o.f.seq = q →
      let due := passed10 (max 1 (bits o.cfg.toNat 15 0)) o.lastSent s.time.ticks
      (due = false → exec (.retryTimeout a q) s = .next u) ∧
      (due = true → more → s.portUsable o.port = true → ∃ t, exec (.retryTimeout a q) s = .next t ∧ again t a.toNat) ∧
      (due = true → ¬more → ∃ t, exec (.retryTimeout a q) s = .next t ∧ lost t a.toNat)) ∧
    (x.ackOwed = false → exec (.ackTimer a) s = .next u) ∧
    (x.ackOwed = true → x.held = [] → ∃ t, exec (.ackTimer a) s = .next t ∧
      t.srcSt a.toNat = { x with ackOwed := false, errs := [] } ∧ t.mem = s.mem ∧ t.cores = s.cores ∧
      t.outs = (if x.errs.isEmpty then s.frameOut x.port (mkFrame 4 0 a.toNat s.srcAddr x.c 0 0 0 [])
        else x.errs.flatMap fun e => s.frameOut x.port (mkFrame 4 8 a.toNat s.srcAddr x.c 0 e 0 []))) ∧
    (x.gapAt = none → exec (.nackDelayExpiry a) s = .next u) ∧
    (∀ g, x.gapAt = some g → passed10 (bits (s.reg Reg.TRIB_RETRY_CFG).toNat 31 24) g s.time.ticks = true → ∃ t,
      exec (.nackDelayExpiry a) s = .next t ∧ t.srcSt a.toNat = { x with gapAt := some s.time.ticks } ∧
      t.outs = s.frameOut x.port (mkFrame 5 0 a.toNat s.srcAddr x.c 0 0 0 []) ∧ t.reg Reg.TRIB_NACK_CNT = s.reg Reg.TRIB_NACK_CNT + 1 ∧
      t.mem = s.mem) ∧
    ((x.held.all fun h => h.seq.toNat != q.toNat) = true → exec (.heldFrameLanding a q own) s = .next u) ∧
    (∀ (h : Frame) (b : Nat), x.held = [h] → h.seq = q → h.src.toNat = a.toNat → h.typ = 1 → seqBelow q.toNat x.c = true →
      s.landsAt h.addr.toNat h.payload.length b → s.labelsLate h.addr.toNat h.payload = false → ∃ t, exec (.heldFrameLanding a q own) s = .next t ∧ (t.srcSt a.toNat).held = [] ∧
      readBytes t.mem b h.payload.length = h.payload ∧
      (∀ i, i < b ∨ b + h.payload.length ≤ i → tget zeroByte t.mem i = tget zeroByte s.mem i))

/-- Leases (11 R429 to R433): a device without one asks on every port that carries fabric traffic, collects the offers of 2
ms, requests the lowest leaser's, and its grant becomes TRIB.ADDR; a lease service offers and grants from its pool, and an
offer falls after 4 ms; at half the lease time the lease is renewed, and at its end it is lost. What each command does
outside its time is nothing. Which steps count as choices is the model's reading (assumption 41). -/
def Obligations.LeasesTaken : Prop :=
  ∀ (s : State) (k : Fin 8) (f : Frame) (mac : BitVec 48) (uid : BitVec 128), s.ready = true →
    let u := s.clearOuts
    let rx := u.count (Reg.CP_RX_FRAMES k.val) 1
    let key := BitVec.ofNat 128 (discUid f)
    let me := s.fuses.uid.toNat
    let told (p : Nat) (typ : Nat) (who leaser a ms : Nat) (to_ : BitVec 48) : List Out :=
      s.leaves p to_.toNat (.offer p (mkFrame typ 1 0x3FFFF s.srcAddr 0 0 0 0 (discPayload who leaser a ms)) to_)
    (s.accepts k.val 6 f = true → s.trib.service = false ∨ s.offerAddr (discUid f) = none → exec (.discover k f mac) s = .next rx) ∧
    (∀ a, s.accepts k.val 6 f = true → s.trib.service = true → s.offerAddr (discUid f) = some a → ∃ t,
      exec (.discover k f mac) s = .next t ∧
      t.trib = { s.trib with open_ := (s.trib.open_.filter fun e => e.1 ≠ key) ++ [(key, a, s.time.ticks)] } ∧
      t.outs = told k.val 7 (discUid f) me a s.trib.poolMs mac ∧ t.mem = s.mem) ∧
    (s.accepts k.val 7 f = true → s.fabric.isSome = true ∨ discUid f ≠ me →
      exec (.offer k f) s = .next rx) ∧
    (s.accepts k.val 7 f = true → s.fabric = none → discUid f = me → exec (.offer k f) s = .next { rx with
      trib := { s.trib with
        offers := s.trib.offers ++ [⟨BitVec.ofNat 128 (discLeaser f), discAddr f, discMs f, k.val⟩]
        firstOffer := some (s.trib.firstOffer.getD s.time.ticks) } }) ∧
    (s.accepts k.val 8 f = true → s.trib.service = false ∨ discLeaser f ≠ me → exec (.request k f mac) s = .next rx) ∧
    (s.accepts k.val 8 f = true → s.trib.open_.find? (fun e => e.1 == key) = none → s.trib.table.find? (fun e => e.1 == key) = none →
      exec (.request k f mac) s = .next rx) ∧
    (∀ a, s.accepts k.val 8 f = true → s.trib.service = true → discLeaser f = me →
      (∃ t0, s.trib.open_.find? (fun e => e.1 == key) = some (key, a, t0)) ∨
        (s.trib.open_.find? (fun e => e.1 == key) = none ∧ s.trib.table.find? (fun e => e.1 == key) = some (key, a)) → ∃ t, exec (.request k f mac) s = .next t ∧
      t.trib = { s.trib with
        open_ := s.trib.open_.filter fun e => e.1 ≠ key
        table := (s.trib.table.filter fun e => e.1 ≠ key) ++ [(key, a)] } ∧
      t.outs = told k.val 9 key.toNat me a s.trib.poolMs mac ∧ t.mem = s.mem) ∧
    (s.accepts k.val 9 f = true → discUid f ≠ me ∨ discAddr f = 0x3FFFF → exec (.grant k f) s = .next rx) ∧
    (∀ l, s.accepts k.val 9 f = true → l = BitVec.ofNat 128 (discLeaser f) → s.trib.requested ≠ some l →
      s.fabric = none ∨ s.trib.leaser ≠ l → exec (.grant k f) s = .next rx) ∧
    (∀ l, s.accepts k.val 9 f = true → discUid f = me → discAddr f ≠ 0x3FFFF → l = BitVec.ofNat 128 (discLeaser f) →
      s.trib.requested = some l ∨ (s.fabric.isSome = true ∧ s.trib.leaser = l) → ∃ t, exec (.grant k f) s = .next t ∧
      t.fabric = some (discAddr f) ∧ bitOf (t.reg Reg.TRIB_STATUS).toNat Ev.TRIB_LEASED = true ∧
      t.trib.leaser = l ∧ t.trib.leaseMs = discMs f ∧ t.trib.leasedAt = s.time.ticks ∧ t.trib.leasePort = k.val ∧ t.trib.requested = none ∧
      t.trib.offers = [] ∧ t.trib.firstOffer = none ∧ t.sched.choices = (s.sched.choices + 1) % 2 ^ 64) ∧
    (s.fabric.isSome = true → exec .discoverTimer s = .next u) ∧
    (s.fabric = none → ∃ t, exec .discoverTimer s = .next t ∧ t.trib = s.trib ∧ t.mem = s.mem ∧
      t.outs = (List.range 8).flatMap fun p => if s.portUsable p then told p 6 me 0 0 0 State.discGroup else []) ∧
    (s.trib.firstOffer = none → exec .offerCollectEnd s = .next u) ∧
    (∀ t0 o, s.trib.firstOffer = some t0 → t0 + 491520 ≤ s.time.ticks → s.trib.offers = [o] → ∃ t,
      exec .offerCollectEnd s = .next t ∧ t.trib = { s.trib with offers := [], firstOffer := none, requested := some o.leaser } ∧
      t.outs = told o.port 8 me o.leaser.toNat o.addr 0 State.discGroup ∧ t.sched.choices = (s.sched.choices + 1) % 2 ^ 64) ∧
    (exec (.offerWithdraw uid) s = .next { u with trib := { s.trib with
      open_ := s.trib.open_.filter fun e => !(e.1 == uid && decide (e.2.2 + 983040 ≤ s.time.ticks)) } }) ∧
    (s.fabric = none ∨ s.time.ticks < s.trib.leasedAt + s.trib.leaseMs * 245760 / 2 → exec .leaseRenew s = .next u) ∧
    (∀ a, s.fabric = some a → s.trib.leasedAt + s.trib.leaseMs * 245760 / 2 ≤ s.time.ticks → ∃ t, exec .leaseRenew s = .next t ∧
      t.trib = s.trib ∧ t.outs = told s.trib.leasePort 8 me s.trib.leaser.toNat a 0 State.discGroup ∧
      t.sched.choices = (s.sched.choices + 1) % 2 ^ 64) ∧
    (s.fabric = none ∨ s.time.ticks < s.trib.leasedAt + s.trib.leaseMs * 245760 → exec .leaseLost s = .next u) ∧
    (s.fabric.isSome = true → s.trib.leasedAt + s.trib.leaseMs * 245760 ≤ s.time.ticks → ∃ t,
      exec .leaseLost s = .next t ∧ t.fabric = none ∧ bitOf (t.reg Reg.TRIB_STATUS).toNat Ev.TRIB_LEASE_LOST = true ∧
      (∀ d ∈ s.trib.dest.map (·.1), (t.destSt d).out = []))

/-! ## Ports and fronthaul (11 R401, R402, R435 to R446; 12 R464, R465, R470; 10 R387) -/

/-- Uplink fronthaul (11 R435 to R441): a message on a port that is not up brings nothing; one of an unknown type or eAxC, or
outside the subset, is counted and discarded; a section outside the reception window or the carrier is counted; one inside
delivers its PRBs into the grid. A gap in the sequence counts. At the window's close what is missing is written as zero and counted, and
the padding of the blocks is zero. Delay requests are answered to the MAC address that they came from, responses kept. A message on a port
that forwards, with the multicast frame that carried it, is forwarded too (R444). The order of the checks and the end of the window are
assumptions (45 and 61). -/
def Obligations.UplinkDelivered : Prop :=
  ∀ (s : State) (k : Fin 8) (m : UMsg) (src : BitVec 48) (id : Byte) (delay : Word) (fr : Option EthFrame), s.ready = true →
    let u := s.clearOuts
    let rx := u.count (Reg.CP_RX_FRAMES k.val) 1
    let bad (cnt b : Nat) : State := (rx.count cnt 1).event Reg.FH_STATUS b
    let entry := s.eaxcFind 0 fun e => bits e 15 0 == m.pcid.toNat
    let base (y : SymId) (x : Nat × Nat × RxPlace) : Nat := gridAddr x.2.2.cluster.val x.2.2.block.val y
    let plain (r : CarrierRec) (y : SymId) : Prop := s.gridAnts r ≤ 16 ∧ ((State.rxSpots r).map (base y)).Nodup ∧
      ∀ x ∈ State.rxSpots r, s.fence 5 x.2.2.cluster.val = 0 ∧ s.mirrorOn x.2.2.cluster.val r.mu.val y = false
    let only (t : State) (r : CarrierRec) (y : SymId) : Prop :=
      ∀ a, (∀ x ∈ State.rxSpots r, a < base y x ∨ base y x + 0x4000 ≤ a) → tget zeroByte t.mem a = tget zeroByte s.mem a
    let word (t : State) (y : SymId) (n : Nat) (q : Nat × Nat × Nat) (a : Nat) : Nat :=
      leNat (readBytes t.mem (gridAddr q.1 q.2.1 y + (q.2.2 * n + a) * 4) 4)
    (s.fhUp k.val = false → (exec (.uPlaneMessage k m fr) s = .next u) ∧ (exec (.oneWayDelayRequest k src id true fr) s = .next u) ∧
      exec (.oneWayDelayResponse k delay true fr) s = .next u) ∧
    (s.fhUp k.val = true → fr = none ∨ s.cpCfg k.val 5 5 = 0 →
      (m.known = false → exec (.uPlaneMessage k m fr) s = .next (bad Reg.FH_UNKNOWN_CNT Ev.FH_UNKNOWN)) ∧
      (m.known = true → m.inSubset = false → exec (.uPlaneMessage k m fr) s = .next (bad Reg.FH_MALFORMED_CNT Ev.FH_MALFORMED)) ∧
      (m.known = true → m.inSubset = true → entry = none →
        exec (.uPlaneMessage k m fr) s = .next (bad Reg.FH_UNKNOWN_CNT Ev.FH_UNKNOWN)) ∧
      (∀ i x, m.known = true → m.inSubset = true → entry = some i → m.sections = [x] →
        let e := (s.ctl.arr bankEaxcEff i).toNat
        let c := bits e 20 17
        let ant := bits e 25 21
        let want := tget (fun _ => 0) s.fh.seqRx i
        let early := s.sinceTime (symStart (s.muOfCarrier c) m.symId) < (s.reg Reg.FH_RX_WIN_OPEN).toInt * 2 ^ 40
        let late := ((s.reg Reg.FH_RX_WIN_CLOSE).toNat : Int) * 2 ^ 40 < s.sinceTime (symEnd (s.muOfCarrier c) m.symId)
        let outside := s.gridRbs c < x.startPrb + x.prbs.length
        let key := (c, m.symId, ant, x.startPrb)
        ∃ t, exec (.uPlaneMessage k m fr) s = .next t ∧
          tget (fun _ => 0) t.fh.seqRx i = (m.seqid.toNat + 1) % 256 + 1 ∧
          (t.reg Reg.FH_SEQ_GAP_CNT = if want ≠ 0 ∧ want ≠ m.seqid.toNat + 1 then s.reg Reg.FH_SEQ_GAP_CNT + 1 else s.reg Reg.FH_SEQ_GAP_CNT) ∧
          (early → t.reg Reg.FH_EARLY_CNT = s.reg Reg.FH_EARLY_CNT + 1 ∧ t.mem = s.mem ∧ t.fh.prbs = s.fh.prbs) ∧
          (¬early → late → t.reg Reg.FH_LATE_CNT = s.reg Reg.FH_LATE_CNT + 1 ∧ t.mem = s.mem ∧ t.fh.prbs = s.fh.prbs) ∧
          (¬early → ¬late → outside → t.reg Reg.FH_MALFORMED_CNT = s.reg Reg.FH_MALFORMED_CNT + 1 ∧ t.mem = s.mem) ∧
          (∀ b, ¬early → ¬late → ¬outside → x.prbs = [b] →
            (key ∉ s.fh.prbs → t.fh.prbs = s.fh.prbs ++ [key]) ∧
            (key ∈ s.fh.prbs → t.fh.prbs = s.fh.prbs ∧ t.reg Reg.FH_DUP_PRB_CNT = s.reg Reg.FH_DUP_PRB_CNT + 1) ∧
            ∀ r, s.carrierOf c = some r → ant < s.gridAnts r → plain r m.symId →
              (∀ j q, j < 12 → State.gridPlace r (12 * x.startPrb + j) = some q →
                word t m.symId (s.gridAnts r) q ant = ((State.decodePrb (bits (s.ctl.inForce Reg.FH_CFG).toNat 12 8) b).getD j 0).toNat) ∧
              only t r m.symId ∧ t.cores = s.cores)) ∧
      (∃ t, exec (.oneWayDelayRequest k src id true fr) s = .next t ∧ t.mem = s.mem ∧ t.fh = s.fh ∧
        t.outs = s.leaves k.val src.toNat (.owd k.val id.toNat)) ∧
      exec (.oneWayDelayResponse k delay true fr) s = .next (rx.setReg Reg.FH_OWD_LAST delay) ∧
      (exec (.oneWayDelayRequest k src id false fr) s = .next (bad Reg.FH_MALFORMED_CNT Ev.FH_MALFORMED)) ∧
      exec (.oneWayDelayResponse k delay false fr) s = .next (bad Reg.FH_MALFORMED_CNT Ev.FH_MALFORMED)) ∧
    (∀ f d, fr = some f → s.fhUp k.val = true → s.cpCfg k.val 5 5 = 1 → d = s.cpCfg k.val 8 6 → d ≠ k.val → s.portOn d = true →
      s.portFh d = true → (((s.port d).fwd.filter fun x => x.from_ == k.val).map (·.size)).sum + f.size ≤ 262144 →
      ∃ t, exec (.oneWayDelayResponse k delay true fr) s = .next t ∧ t.reg Reg.FH_OWD_LAST = delay ∧ (t.port d).fwd = (s.port d).fwd ++
        [⟨k.val, f.size, if f.tags = 0 then 0 else f.pcp.val, s.stamp, f.ptpEvent, f.bytes⟩]) ∧
    ∀ (c : Fin 16) (y : SymId),
      let left := s.fh.prbs.filter fun e => !(e.1 == c.val && e.2.1 == y)
      let due := s.isFronthaul c.val = true ∧ s.windowDue c.val y = true
      (¬due → exec (.rxWindowClose c y) s = .next u) ∧
      (due → ∃ t, exec (.rxWindowClose c y) s = .next t ∧ t.fh = { s.fh with prbs := left } ∧
        ∀ r, s.carrierOf c.val = some r →
          let gone := ((List.range (s.gridAnts r)).map fun a =>
            ((List.range r.nrb).filter fun p => !s.fh.prbs.contains (c.val, y, a, p)).length).sum
          t.reg Reg.FH_MISSING_CNT = s.reg Reg.FH_MISSING_CNT + BitVec.ofNat 32 gone ∧
          (gone ≠ 0 → bitOf (t.reg Reg.FH_STATUS).toNat Ev.FH_MISSING = true) ∧
          (plain r y → only t r y ∧ t.cores = s.cores ∧
            (∀ a p j q, a < s.gridAnts r → p < r.nrb → (c.val, y, a, p) ∉ s.fh.prbs → j < 12 →
              State.gridPlace r (12 * p + j) = some q → word t y (s.gridAnts r) q a = 0) ∧
            ∀ a i, ∀ x ∈ State.rxSpots r, a < s.gridAnts r → i < 256 → (posSpan r.group (12 * r.nrb) x.1 x.2.1).2 ≤ i →
              word t y (s.gridAnts r) (x.2.2.cluster.val, x.2.2.block.val, i) a = 0))

/-- First samples and C-plane (10 R387; 11 R439, R442, R443; 01 R38): at its start a symbol's first sample leaves, from the front end or as its
messages of compressed PRBs, one that is late as zeros, and its record is dropped; nothing leaves while the downlink is off the air; a
C-plane message leaves with the next sequence value. -/
def Claims.SymbolsLeave : Prop :=
  ∀ s : State, s.ready = true →
    let u := s.clearOuts
    (∀ (c : Fin 16) (y : SymId),
      let rid (x : TxSym) : TxSym := if x.sym = y then { x with carriers := x.carriers.filter (· ≠ c.val) } else x
      let drop (t : Tx) : Tx := { t with
        lateSyms := t.lateSyms.filter fun x => x ≠ (c.val, y)
        syms := (t.syms.map rid).filter fun x => !(x.sym == y && x.carriers.isEmpty) }
      let due := s.leadDue (symStart (s.muOfCarrier c.val) y) 0
      (due = false → exec (.firstSampleOut c y) s = .next u) ∧
      (due = true → s.downOn 0 = false → exec (.firstSampleOut c y) s = .next { u with tx := drop s.tx }) ∧
      (due = true → s.downOn 0 = true → s.isFronthaul c.val = false → exec (.firstSampleOut c y) s = .next { u with
        tx := drop s.tx
        outs := if s.dfe.tx.on then [.symbol c.val y (s.tx.lateSyms.contains (c.val, y))] else [] }) ∧
      (due = true → s.downOn 0 = true → s.isFronthaul c.val = true → ∃ t, exec (.firstSampleOut c y) s = .next t ∧ t.tx = drop s.tx ∧
        t.mem = s.mem ∧ t.cores = s.cores ∧
        (s.symHanded c.val y = false → t.reg Reg.TXP_SYM_LATE_CNT = s.reg Reg.TXP_SYM_LATE_CNT + 1) ∧
        ∀ r i mac p, s.carrierOf c.val = some r → r.txStreams = 1 →
          s.eaxcFind 512 (fun e => bits e 20 17 == c.val && bits e 25 21 == 0) = some i →
          let e := (s.ctl.arr bankEaxcEff i).toNat
          let bfp := bits (s.ctl.inForce Reg.FH_CFG).toNat 7 4 == 1
          s.peerOf (bits e 29 26) = some (mac, p) → 0 < r.nrb → r.nrb ≤ 9000 / (24 * s.iqWidth / 8 + if bfp then 1 else 0) →
          t.outs = s.leaves p mac (.uplane p mac (bits e 15 0) (tget (fun _ => 0) s.fh.seqTx i) y 0 0
            ((List.range r.nrb).map fun prb =>
              let b := compressPrb bfp s.iqWidth (if s.symHanded c.val y then s.prbOf r y 0 prb else List.replicate 24 0)
              (b.1, b.2.1))))) ∧
    (∀ (n : Fin 512) (sections : List Byte),
      let e := (s.ctl.arr bankEaxcEff (512 + n.val)).toNat
      let seq := tget (fun _ => 0) s.fh.seqTx (512 + n.val)
      (s.peerOf (bits e 29 26) = none ∨ bitOf e 16 = false → exec (.cPlaneSend n sections) s = .next u) ∧
      (∀ mac p, s.peerOf (bits e 29 26) = some (mac, p) → bitOf e 16 = true → ∃ t, exec (.cPlaneSend n sections) s = .next t ∧
        t.outs = s.leaves p mac (.cplane p mac (bits e 15 0) seq sections) ∧
        tget (fun _ => 0) t.fh.seqTx (512 + n.val) = (seq + 1) % 256 ∧ t.mem = s.mem))

/-- Frames and links (11 R401, R402, R444 to R446, CP.STATUS; 12 R464, R465, R470; 15 R559): frames that no unit takes are counted and
dropped or forwarded, the first to leave with its residence time; FEC and buffer errors count; a link's loss is counted and shown, a
port's failure puts it out of service, and a link's return holds the lanes in lock. Which port's counters advance is an assumption
(45). -/
def Claims.FramesForwarded : Prop :=
  ∀ (s : State) (k : Fin 8), s.ready = true →
    let u := s.clearOuts
    let on := s.portOn k.val = true ∧ (s.port k.val).link = true ∧ s.fence 4 k.val = 0
    (∀ f : EthFrame,
      let rx := (u.count (Reg.CP_RX_FRAMES k.val) 1).count (Reg.CP_FEC_CORR_CNT k.val) f.fecCorr
      let rx := if f.fecUncorr = 0 then rx
        else (rx.count (Reg.CP_FEC_UNCORR_CNT k.val) f.fecUncorr).event (Reg.CP_STATUS k.val) Ev.CP_FEC_UNCORR
      let rx := rx.bufEvent k.val Ev.PGRPFW_RX_UNCORR f.buf
      let whole := f.fcsOk = true ∧ 64 ≤ f.size ∧ f.size ≤ 9216 ∧ f.tags ≤ 1
      let data := f.pfc = none ∨ s.cpCfg k.val 9 9 = 0
      let away := f.dstMac.toNat ≠ s.portMac k.val ∨ bitOf f.dstMac.toNat 40 = true
      let d := s.cpCfg k.val 8 6
      let used := (((s.port d).fwd.filter fun x => x.from_ == k.val).map (·.size)).sum
      (¬on → exec (.ethernetFrame k f) s = .next u) ∧
      (on → f.buf = .uncorrectable → exec (.ethernetFrame k f) s = .next rx.sortLog) ∧
      (on → f.buf ≠ .uncorrectable →
        (f.fcsOk = false → exec (.ethernetFrame k f) s = .next (rx.count (Reg.CP_FCS_ERR_CNT k.val) 1).sortLog) ∧
        (f.fcsOk = true → f.size < 64 ∨ 9216 < f.size ∨ 1 < f.tags →
          exec (.ethernetFrame k f) s = .next (rx.count (Reg.CP_DROP_CNT k.val) 1).sortLog) ∧
        (whole → data → s.etypeTaken k.val f.etype = false →
          exec (.ethernetFrame k f) s = .next (rx.count (Reg.CP_DROP_CNT k.val) 1).sortLog) ∧
        (whole → data → s.etypeTaken k.val f.etype = true → s.portFh k.val = false ∨ ¬away ∨ s.cpCfg k.val 5 5 = 0 →
          exec (.ethernetFrame k f) s = .next rx.sortLog) ∧
        (∀ prio b, whole → f.pfc = some (prio, b) → s.cpCfg k.val 9 9 = 1 → ∃ t, exec (.ethernetFrame k f) s = .next t ∧
          (t.port k.val).paused = (if prio.val = s.cpCfg k.val 12 10 then b else (s.port k.val).paused) ∧ t.mem = s.mem) ∧
        (whole → data → s.etypeTaken k.val f.etype = true → s.portFh k.val = true → away → s.cpCfg k.val 5 5 = 1 → d ≠ k.val →
          s.portOn d = true → s.portFh d = true → ∃ t, exec (.ethernetFrame k f) s = .next t ∧ t.mem = s.mem ∧
          (used + f.size ≤ 262144 → (t.port d).fwd = (s.port d).fwd ++
            [⟨k.val, f.size, if f.tags = 0 then 0 else f.pcp.val, s.stamp, f.ptpEvent, f.bytes⟩]) ∧
          (262144 < used + f.size → t.port d = s.port d ∧ t.reg (Reg.CP_FWD_DROP_CNT k.val) = s.reg (Reg.CP_FWD_DROP_CNT k.val) + 1)))) ∧
    (∀ buf, s.fhUp k.val = false ∨ s.txStopped k.val = true ∨ (s.port k.val).fwd = [] → exec (.forwardEgress k buf) s = .next u) ∧
    (∀ f buf, f.from_ < 8 → s.fhUp k.val = true → s.txStopped k.val = false → (s.port k.val).fwd = [f] → (s.port k.val).paused = false → ∃ t,
      exec (.forwardEgress k buf) s = .next t ∧ (t.port k.val).fwd = [] ∧ t.mem = s.mem ∧
      (buf = .uncorrectable → t.outs = [] ∧ t.reg (Reg.CP_FWD_DROP_CNT f.from_) = s.reg (Reg.CP_FWD_DROP_CNT f.from_) + 1) ∧
      (buf ≠ .uncorrectable → t.reg (Reg.CP_FWD_CNT f.from_) = s.reg (Reg.CP_FWD_CNT f.from_) + 1 ∧
        t.outs = [.fwd k.val (s.vlanTag k.val) (if f.event then ((s.stamp + 2 ^ 40 - f.stamp) % 2 ^ 40 * 256 : Nat) else 0) f.bytes])) ∧
    (∀ fails, (s.port k.val).link = false → fails = false ∨ s.portOn k.val = false → exec (.portLinkLoss k fails) s = .next u) ∧
    (∀ fails, (s.port k.val).link = true → fails = false ∨ s.portOn k.val = false → ∃ t, exec (.portLinkLoss k fails) s = .next t ∧
      t.port k.val = { s.port k.val with link := false, an := false, fec := 0, paused := false } ∧
      t.reg (Reg.CP_LINK_DROP_CNT k.val) = s.reg (Reg.CP_LINK_DROP_CNT k.val) + 1 ∧
      bitOf (t.reg (Reg.CP_STATUS k.val)).toNat Ev.CP_LINK_DOWN = true ∧ (∀ i, i ≠ k.val → t.port i = s.port i) ∧
      t.time.synceLow = (s.time.synceLow || s.synceOf k.val) ∧
      (s.ptpPort k.val = true → s.time.clock = 1 ∨ s.time.clock = 2 → t.time.clock = 3) ∧
      (s.ptpPort k.val = false → t.time.clock = s.time.clock) ∧ t.mem = s.mem) ∧
    (s.portOn k.val = true → s.fence 4 k.val = 0 → ∃ t, exec (.portLinkLoss k true) s = .next t ∧ t.fence 4 k.val ≠ 0 ∧
      (t.port k.val).link = false ∧ bitOf (t.reg (Reg.PGRP_FAULTWORD (k.val / 4))).toNat (Ev.PGRPFW_PORT_FAIL + k.val % 4) = true) ∧
    ∀ fec : BitVec 4,
      (s.portOn k.val = false ∨ s.fence 4 k.val ≠ 0 → exec (.portLinkUp k fec) s = .next u) ∧
      (s.portOn k.val = true → s.fence 4 k.val = 0 → ∃ t, exec (.portLinkUp k fec) s = .next t ∧
        t.port k.val = { s.port k.val with link := true, an := s.cpCfg k.val 4 4 == 1, fec := fec.toNat } ∧
        (∀ i, i ≠ k.val → t.port i = s.port i) ∧ t.ctl = s.ctl ∧ t.mem = s.mem ∧
        t.time.synceLow = (s.time.synceLow && !(s.synceOf k.val && fec == 15)))

/-- What the Confluence ports send, forward and lose (10 R387; 11 R401 to R446; 12 R464 to R470). -/
def Obligations.PortsCarryTraffic : Prop := Claims.SymbolsLeave ∧ Claims.FramesForwarded


/-! ## Transmit codewords (03 R82 to R87; 08 R309 to R311) -/

/-- Downlink codewords: a descriptor outside the rules completes with its result, one that the host posted after its slot's encode launch
as late, and counts; any other is posted, or taken at once where its launch has come; at TXP.LEAD before the slot the encode launch
takes the slot's codewords, those of another rank without blocks here, the others with payload, CRC and code blocks, the k-th block to
encoder k mod 8, one whose payload faults as zero symbols; an encoder delivers its queue's first block coded; one with an uncorrectable
error goes out of service. How far back a slot counts as launched, and ENC_RANK outside a group, are the model's (assumptions 78 and
85). -/
def Obligations.CodewordsEncoded : Prop :=
  ∀ (s : State) (b e : Fin 8) (mu : Fin 4) (slot : SlotId) (alloc : DlAlloc), s.ready = true →
    let u := s.clearOuts
    let x := s.basin b.val
    let sf := State.slotField slot
    let launched : List TxLaunch := (⟨mu.val, sf, (List.range 8).map fun i => (s.basin i).sq0.prod⟩
      :: s.tx.launched.filter fun l => !(l.mu == mu.val && l.slot == sf)).take 160
    (x.f0 = [] → exec (.dlCodewordDescriptor b alloc) s = .next u) ∧
    (∀ w rest, x.f0 = w :: rest →
      let d := dlDescOf w
      let v := u.setBasin b.val { x with f0 := rest }
      let done (r : Nat) : List Byte := State.completionBytes 1 r d.tag d.slot [] 0 b.val
      let cw (st : CwSt) (zero : Option Nat) (posted : Bool) : TxCw :=
        { id := s.tx.nextId, basin := b.val, d := d, alloc := alloc, st := st, blocks := [], bits := [], zeroFrom := zero, late := []
          posted := posted }
      let grown (c : TxCw) : State := { v with tx := { s.tx with cws := s.tx.cws ++ [c], nextId := s.tx.nextId + 1 } }
      let index := (x.sq0.cons + 65536 - x.f0.length % 65536) % 65536
      let before (l : TxLaunch) : Prop := (l.prods.getD b.val 0 + 65535 - index) % 65536 < 32768
      (d.bad = true → exec (.dlCodewordDescriptor b alloc) s = .next (v.complete b.val (done 3)).settle) ∧
      (d.bad = false → s.launchOf d.carrier d.slot = none →
        exec (.dlCodewordDescriptor b alloc) s = .next (grown (cw .posted none false))) ∧
      (∀ l, d.bad = false → s.launchOf d.carrier d.slot = some l →
        (¬before l → exec (.dlCodewordDescriptor b alloc) s = .next ((((grown (cw .taken (some 0) true)).count Reg.TXP_TB_LATE_CNT 1).event
          Reg.TXP_STATUS Ev.TXP_TB_LATE).complete b.val (done 1)).settle) ∧
        (before l → d.encRank ≠ s.groupRank → (∀ k ∈ s.tx.cws, k.id ≠ s.tx.nextId) →
          exec (.dlCodewordDescriptor b alloc) s = .next (grown (cw .taken none false))))) ∧
    (s.encodeDue mu.val slot = false → exec (.encodeLaunch mu slot) s = .next u) ∧
    (s.encodeDue mu.val slot = true → (∀ c ∈ s.tx.cws, c.d.slot = sf → s.muOf c.d.carrier = mu.val → c.st ≠ .posted) →
      exec (.encodeLaunch mu slot) s = .next { u with tx := { s.tx with launched := launched } }) ∧
    (∀ c, s.encodeDue mu.val slot = true → s.tx.cws = [c] → c.d.slot = sf → s.muOf c.d.carrier = mu.val → c.st = .posted → c.blocks = [] →
      let n := (c.d.tbs + 7) / 8
      (c.d.encRank ≠ s.groupRank → exec (.encodeLaunch mu slot) s =
        .next { u with tx := { s.tx with launched := launched, cws := [{ c with st := .taken }] } }) ∧
      (∀ a, c.d.encRank = s.groupRank → (s.place c.d.source).1 = .mem a → n ≤ (s.place c.d.source).2 → s.poisoned a n = [] → ∃ t c',
        exec (.encodeLaunch mu slot) s = .next t ∧ t.tx.cws = [c'] ∧ t.tx.launched = launched ∧
        c' = { c with st := .taken, bits := c'.bits, blocks := txBlocks c.d c.alloc } ∧
        (let pl := unpackMsb c.d.tbs (readBytes s.mem a n)
         c'.bits = pl ++ if 3824 < c.d.tbs then bitsOf 24 (crc24a pl) else bitsOf 16 (crc16 pl)) ∧
        ((∀ j, j < 8 → s.encoderOn j = true) → c'.blocks.Pairwise (fun y z => y.first ≤ z.first) → ∀ j, j < 8 →
          t.encQueue j = s.encQueue j ++ ((List.range c'.blocks.length).filter (· % 8 == j)).map fun i => (c.id, i)) ∧ t.mem = s.mem) ∧
      (∀ a, c.d.encRank = s.groupRank → 0 < n → (s.place c.d.source).1 = .mem a → n ≤ (s.place c.d.source).2 → s.poisoned a n ≠ [] → ∃ t c',
        exec (.encodeLaunch mu slot) s = .next t ∧ t.tx.cws = [c'] ∧ c'.st = .taken ∧ c'.posted = true ∧ c'.blocks = [] ∧
        c'.zeroFrom = some (s.builtSym c.d.carrier c.d.slot) ∧ bitOf (t.reg Reg.TXP_STATUS).toNat Ev.TXP_TX_FAULT = true)) ∧
    (s.encQueue e.val = [] → exec (.encoderCodeBlockDone e false) s = .next u) ∧
    (∀ id i rest, s.encQueue e.val = (id, i) :: rest →
      let queues := tset s.tx.queues e.val rest
      ((∀ c, s.cwOf id = some c → c.blocks[i]? = none) →
        exec (.encoderCodeBlockDone e false) s = .next { u with tx := { s.tx with queues := queues } }) ∧
      (∀ c blk, s.cwOf id = some c → c.blocks[i]? = some blk →
        let off := (c.blocks.take i).foldl (fun n y => n + y.e) 0
        let out := encodeBlk c.d.segm c.d.rv c.d.qm blk.e (c.d.rnti * 2 ^ 15 + c.d.q * 2 ^ 14 + c.d.nid) (fun y => off + y)
          ((cutBlocks c.d.segm c.bits).getD i [])
        let c' : TxCw := { c with blocks := c.blocks.set i { blk with coded := some out } }
        exec (.encoderCodeBlockDone e false) s = .next { u with tx := { s.tx with
          queues := queues, cws := s.tx.cws.map fun y => if y.id = c.id then c' else y } })) ∧
    ∃ t, exec (.encoderCodeBlockDone e true) s = .next t ∧ t.fence 2 e.val ≠ 0 ∧
      bitOf (t.reg (Reg.WEIR_FAULTWORD (e.val / 2))).toNat (Ev.WEIRFW_ENC_UNCORR + e.val % 2) = true

/-! ## Weir (08 R274 to R314; 09 R323) -/

/-- Decode descriptors (08 R274 to R278, R286): a bad one is refused with DESC_BAD, one whose HARQ buffer is in use refused, new data become a
transport block with its code blocks, waiting for LLRs; a retransmission whose HARQ record does not agree is counted. -/
def Claims.DescriptorsDecoded : Prop :=
  ∀ (s : State) (b : Fin 8) (sh : AllocShape), s.ready = true →
    let u := s.clearOuts
    let x := s.basin b.val
    (x.f1 = [] → exec (.decodeDescriptor b sh) s = .next u) ∧
    ∀ w rest, x.f1 = w :: rest →
      let d := decDescOf w
      let v := u.setBasin b.val { x with f1 := rest }
      let q := d.quad
      let k := s.quad q
      let done (r : Nat) : List Byte := State.completionBytes 2 r d.tag d.slot [] 0 b.val
      let blocks := mkBlocks d d.segm sh
      let tb : DecTb :=
        { id := k.nextId, basin := b.val, d := d, sh := sh, g := d.segm, newData := true, mism := false, rounds := 0,
          got := [], blocks := blocks, uciDone := false, table := s.tableFor q d, deadline := false, entry := none }
      let taken := v.setQuad q { k with
        nextId := k.nextId + 1, tbs := k.tbs ++ [tb]
        numbered := k.numbered.filter s.recent ++ [(d.slot, d.alloc, blocks.length, s.time.ticks)] }
      (d.bad s.dramTop = true → exec (.decodeDescriptor b sh) s =
        .next ((v.event (Reg.WEIR_STATUS q) Ev.WEIR_DESC_BAD).complete b.val (done 2)).settle) ∧
      (d.bad s.dramTop = false → (k.tbs.any fun t => t.d.hbuf == d.hbuf) = true →
        exec (.decodeDescriptor b sh) s = .next (v.complete b.val (done 3)).settle) ∧
      (d.bad s.dramTop = false → (∀ t ∈ k.tbs, t.d.hbuf ≠ d.hbuf ∧ t.id ≠ k.nextId) →
        (d.ndi = true → s.readyBlks q = [] → blocks ≠ [] → (∀ y ∈ blocks, ((ulPositions d sh).drop y.off).take y.e ≠ []) →
          exec (.decodeDescriptor b sh) s = .next taken) ∧
        (d.ndi = false → d.hbuf * 64 + 64 ≤ s.dramTop → s.poisoned (d.hbuf * 64) 64 = [] →
          State.harqAgrees d d.segm (readBytes s.mem (d.hbuf * 64) 64) = false → ∃ t, exec (.decodeDescriptor b sh) s = .next t ∧
          t.reg (Reg.WEIR_HARQ_MISM_CNT q) = s.reg (Reg.WEIR_HARQ_MISM_CNT q) + 1 ∧
          bitOf (t.reg (Reg.WEIR_STATUS q)).toNat Ev.WEIR_HARQ_MISMATCH = true))

/-- LLRs (08 R276 to R283, R302): a segment of no transport block is an orphan, any other is descrambled into its
block's LLRs; at the wait's expiry the blocks that wait go on without the missing LLRs; at the deadline the ones in decoding
are marked to stop, and ready ones fail. The slot of a segment is the model's reading (assumption 15). -/
def Claims.SegmentsTaken : Prop :=
  ∀ (s : State) (q : Fin 4) (part : Fin 16) (off : Nat) (slot : SlotId) (carrier : Fin 16), s.ready = true →
    let u := s.clearOuts
    let bytes := readBytes s.mem (llrRing q.val + off) 16
    let at_ := llrRing q.val + fieldAt bytes 0 4
    let n := fieldAt bytes 4 3
    let first := fieldAt bytes 8 3
    let whole := s.poisoned (llrRing q.val + off) 16 = [] ∧ s.poisoned at_ (llrBytes n) = []
    let plain (t : DecTb) : Prop := t.newData = true ∧ t.d.gAck = 0 ∧ t.d.gCsi1 = 0 ∧ t.d.gCsi2 = 0
    let due (wait : Nat) : Bool := s.afterData carrier.val (State.slotField slot) (s.ctl.inForce wait).toNat
    (whole → s.segTb q.val (fieldAt bytes 11 1) (fieldAt bytes 12 1) = none → ∃ t, exec (.llrSegmentArrival q part off) s = .next t ∧
      t.reg (Reg.WEIR_ORPHAN_CNT q.val) = s.reg (Reg.WEIR_ORPHAN_CNT q.val) + 1 ∧ (t.quad q.val).tbs = (s.quad q.val).tbs ∧
      tget (fun _ => 0) (t.quad q.val).seqs part.val = (fieldAt bytes 14 2 + 1) % 65536 ∧
      (tget (fun _ => 0) (s.quad q.val).seqs part.val ≠ fieldAt bytes 14 2 →
        bitOf (t.reg (Reg.WEIR_STATUS q.val)).toNat Ev.WEIR_LLR_GAP = true) ∧ t.mem = s.mem) ∧
    (∀ t, whole → s.segTb q.val (fieldAt bytes 11 1) (fieldAt bytes 12 1) = some t → s.tbOf q.val t.id = some t → plain t →
      (∀ y ∈ t.blocks, y.st = .waiting) → ∃ t1 t2, exec (.llrSegmentArrival q part off) s = .next t1 ∧ t1.tbOf q.val t.id = some t2 ∧
      ∀ i, i < (unpackLlr n (readBytes s.mem at_ (llrBytes n))).length → tget (fun _ => 0) t2.got (first + i) =
        (let l := (unpackLlr n (readBytes s.mem at_ (llrBytes n))).getD i 0
         if Config.goldBit (t.d.rnti * 2 ^ 15 + t.d.nid) (first + i) then -l else l)) ∧
    (due (Reg.WEIR_LLR_WAIT q.val) = false ∨ (s.slotTbs q.val slot carrier.val = [] ∧ s.readyBlks q.val = []) →
      exec (.llrWaitExpiry q slot carrier) s = .next u) ∧
    (∀ id t, due (Reg.WEIR_LLR_WAIT q.val) = true → s.slotTbs q.val slot carrier.val = [id] → s.tbOf q.val id = some t → plain t → ∃ t1 t2,
      exec (.llrWaitExpiry q slot carrier) s = .next t1 ∧ t1.tbOf q.val id = some t2 ∧
      ∀ (i : Nat) (y : CBlk), t.blocks[i]? = some y → y.st = .waiting → (∃ y2 : CBlk, t2.blocks[i]? = some y2 ∧ y2.lost = true ∧ y2.st ≠ .waiting) ∧
        bitOf (t1.reg (Reg.WEIR_STATUS q.val)).toNat Ev.WEIR_LLR_LOST = true) ∧
    (due (Reg.WEIR_DEADLINE q.val) = false ∨ s.slotTbs q.val slot carrier.val = [] → exec (.decodeDeadline q slot carrier) s = .next u) ∧
    (∀ id t y, due (Reg.WEIR_DEADLINE q.val) = true → s.slotTbs q.val slot carrier.val = [id] → s.tbOf q.val id = some t → t.blocks = [y] →
      let cnt (t1 : State) (r : Nat) : Prop := t1.reg r = s.reg r + 1
      (y.st = .decoding → y.dead = true → exec (.decodeDeadline q slot carrier) s = .next u) ∧
      (y.st = .decoding → y.dead = false → ∃ t1, exec (.decodeDeadline q slot carrier) s = .next t1 ∧
        t1.tbOf q.val id = some { t with deadline := true, blocks := [{ y with dead := true }] } ∧ cnt t1 (Reg.WEIR_DEADLINE_CNT q.val)) ∧
      (y.st = .ready → ∃ t1, exec (.decodeDeadline q slot carrier) s = .next t1 ∧ cnt t1 (Reg.WEIR_DEADLINE_CNT q.val) ∧
        cnt t1 (Reg.WEIR_CB_FAIL_CNT q.val)))

/-- Iterations (08 R291 to R298, R302, R311; 15, table "WEIR.FAULTWORD fields"): an iteration goes on with the next messages, and the last one,
or one that early termination abandons, counts the block and its iterations. An engine with an uncorrectable error goes out of service,
one of the input buffer fails the block; corrected errors and parity only show. The numbering of iterations is the model's reading
(assumption 36). -/
def Claims.IterationsEnd : Prop :=
  ∀ (s : State) (q : Fin 4) (e : Fin 6), s.ready = true →
    let u := s.clearOuts
    let fw (t : State) (b : Nat) : Prop := bitOf (t.reg (Reg.WEIR_FAULTWORD q.val)).toNat b = true
    (tfind (s.quad q.val).eng e.val = none → exec (.decodeIterationEnd q e .none) s = .next u ∧
      exec (.decodeIterationEnd q e .corrected) s = .next (u.event (Reg.WEIR_FAULTWORD q.val) Ev.WEIRFW_CORR).sortLog ∧
      exec (.decodeIterationEnd q e .paramStore) s = .next (u.event (Reg.WEIR_FAULTWORD q.val) Ev.WEIRFW_PARAM_PARITY).sortLog ∧
      (s.readyBlks q.val = [] →
        exec (.decodeIterationEnd q e .inputBuffer) s = .next (u.event (Reg.WEIR_FAULTWORD q.val) Ev.WEIRFW_INBUF_UNCORR).sortLog)) ∧
    (∀ k t y, tfind (s.quad q.val).eng e.val = some k → s.tbOf q.val (k / 256) = some t → t.blocks[k % 256]? = some y →
      let table := t.table.getD (s.quad q.val).table
      let l := layersOf t.g y.soft
      let it := iterate t.g table l y.iters (y.app, y.msg)
      let unsat := unsatisfied t.g l it.1
      let z : CBlk := { y with app := it.1, msg := it.2, iters := y.iters + 1 }
      let abandon := !s.eff && unsat != 0 && bitOf (s.ctl.inForce (Reg.WEIR_CFG q.val)).toNat 24
        && decide (min (s.weirCfg q.val 12 8) (s.weirCfg q.val 4 0) ≤ y.iters) && earlyStop t.g table l y.iters unsat y.app it.1
      let stop := y.dead = true ∨ abandon = true ∨
        if s.eff then s.weirCfg q.val 20 16 ≤ y.iters + 1 else unsat = 0 ∨ s.weirCfg q.val 12 8 ≤ y.iters + 1
      let ok := !abandon && blockCrcOk t.g t.d.tbs (hardBits t.g it.1) && (t.g.c != 1 || unsat == 0)
      (¬stop → exec (.decodeIterationEnd q e .none) s = .next (u.setBlk q.val t (k % 256) z)) ∧
      (stop → ∃ t1, exec (.decodeIterationEnd q e .none) s = .next t1 ∧
        t1.reg (Reg.WEIR_ITER_SUM q.val) = s.reg (Reg.WEIR_ITER_SUM q.val) + BitVec.ofNat 32 (y.iters + 1) ∧
        (let cnt := if ok then Reg.WEIR_CB_OK_CNT q.val else Reg.WEIR_CB_FAIL_CNT q.val
         t1.reg cnt = s.reg cnt + 1) ∧
        t1.reg (Reg.WEIR_ABANDON_CNT q.val) = (if abandon then s.reg (Reg.WEIR_ABANDON_CNT q.val) + 1 else s.reg (Reg.WEIR_ABANDON_CNT q.val))) ∧
      ∃ t1, exec (.decodeIterationEnd q e .inputBuffer) s = .next t1 ∧ fw t1 Ev.WEIRFW_INBUF_UNCORR ∧
        t1.reg (Reg.WEIR_CB_FAIL_CNT q.val) = s.reg (Reg.WEIR_CB_FAIL_CNT q.val) + 1) ∧
    ∃ t, exec (.decodeIterationEnd q e .engine) s = .next t ∧ t.fence 1 (q.val * 6 + e.val) ≠ 0 ∧ fw t (Ev.WEIRFW_ENGINE_UNCORR + e.val)

/-- LLRs and iterations of the Weir quads (08 R276 to R302). -/
def Obligations.BlocksIterate : Prop := Claims.SegmentsTaken ∧ Claims.IterationsEnd

/-- Polar requests (08 R307, R308, R311; 17 R643): a request enters the window and the queue of sixteen, or its write waits; one in a fenced
decoder completes at once; the oldest is decoded, its status and payload written, and counted; a decoder that is not enabled decodes
none, and one with an uncorrectable error goes out of service. What a decoder finds is open (assumption 7). -/
def Claims.PolarServed : Prop :=
  ∀ (s : State) (q : Fin 4) (place : Fin 32) (req : BitVec 256) (basin : Option (Fin 8)), s.ready = true →
    let u := s.clearOuts
    let w := s.quad q.val
    let tag := match basin with
      | some b => b.val + 8
      | none => 0
    let counted (t : State) : Prop := t.reg (Reg.WEIR_POLAR_CNT q.val) = s.reg (Reg.WEIR_POLAR_CNT q.val) + 1
    (16 ≤ w.polar.length → exec (.polarRequest q place req basin) s =
      .next (u.setQuad q.val { w with polarWait := w.polarWait ++ [(place.val, req.toNat, tag)] })) ∧
    (w.polar.length < 16 → s.fence 3 q.val = 0 → ∃ t, exec (.polarRequest q place req basin) s = .next t ∧
      t.quad q.val = { w with polar := w.polar ++ [(req.toNat, tag)] } ∧
      (let a := 0x100000000000 + q.val * 0x1000000 + 0xBFFC00 + place.val * 32
       readBytes t.mem a 32 = leBytes 32 req.toNat ∧ ∀ j, j < a ∨ a + 32 ≤ j → tget zeroByte t.mem j = tget zeroByte s.mem j)) ∧
    (w.polar.length < 16 → s.fence 3 q.val ≠ 0 → ∃ t, exec (.polarRequest q place req basin) s = .next t ∧
      (t.quad q.val).polar = w.polar ∧ counted t) ∧
    (w.polar = [] ∨ bitOf (s.reg (Reg.WEIR_ENGINE_EN q.val)).toNat 8 = false → exec (.polarDone q false) s = .next u) ∧
    (∀ r rest, w.polar = r :: rest → w.polarWait = [] → bitOf (s.reg (Reg.WEIR_ENGINE_EN q.val)).toNat 8 = true → ∃ t,
      exec (.polarDone q false) s = .next t ∧ (t.quad q.val).polar = rest ∧ counted t ∧
      let src := bits r.1 63 0
      let dest := bits r.1 127 64
      let e := bits r.1 151 128
      let k := bits r.1 175 160
      let crc := bits r.1 183 176
      ∀ a b, (s.place src).1 = .mem a → llrBytes e ≤ (s.place src).2 → s.poisoned a (llrBytes e) = [] →
        let d := Config.polarDecode k crc (bits r.1 159 152) (bitOf r.1 184) (unpackLlr e (readBytes s.mem a (llrBytes e)))
        let n := (k - (if crc = 0 then 6 else 11) + 7) / 8
        let status := (if d.1 then 1 else 0) + d.2.1 % 256 * 256 + min d.2.2.1 65535 * 65536
        let out := leBytes 8 status ++ padTo n (packMsb n d.2.2.2)
        (s.place dest).1 = .mem b → out.length ≤ (s.place dest).2 → readBytes t.mem b out.length = out) ∧
    (∃ t, exec (.polarDone q true) s = .next t ∧ t.fence 3 q.val ≠ 0 ∧ (s.fence 3 q.val = 0 → (t.quad q.val).polar = []) ∧
      bitOf (t.reg (Reg.WEIR_FAULTWORD q.val)).toNat Ev.WEIRFW_POLAR_UNCORR = true)

/-- Re-encoding (08 R309; 09 R323, R324, R326; 01 R36): an offered block is re-encoded where an encoder of its quad is free, at the cost of its
cycles to that encoder's Backwater budget, and the constellation indices of its resource elements stand in the label staging; with the
budget spent it is skipped. Without a block, or without a free encoder, nothing happens. The form of a label is the model's
(assumption 81). -/
def Claims.LabelsWritten : Prop :=
  ∀ (s : State) (q : Fin 4) (i : Nat), s.ready = true →
    let u := s.clearOuts
    let w := s.quad q.val
    let free (e : Nat) : Bool := s.encoderOn e && (s.encQueue e).isEmpty
    (w.offered[i]? = none ∨ [2 * q.val, 2 * q.val + 1].find? free = none → exec (.reEncode q i) s = .next u) ∧
    (∀ o e, w.offered[i]? = some o → [2 * q.val, 2 * q.val + 1].find? free = some e →
      let n := 32 + max (if o.g.bg = 1 then 316 else 197) ((o.e + 511) / 512)
      let left := u.setQuad q.val { w with offered := w.offered.eraseIdx i }
      let ul := (ulPositions o.d o.sh).drop o.off
      let labels := State.blockLabels o (encodeBlk o.g o.d.rv o.d.qm o.e (o.d.rnti * 2 ^ 15 + o.d.nid) (fun x => ul.getD x 0) o.hard)
      let base := s.fileArea (·.staging)
      (s.maxOf 4 1 < s.used 4 e 1 + n → exec (.reEncode q i) s = .next left.capSkip) ∧
      (s.used 4 e 1 + n ≤ s.maxOf 4 1 → ∃ t, exec (.reEncode q i) s = .next t ∧ (t.quad q.val).offered = w.offered.eraseIdx i ∧
        t.used 4 e 1 = s.used 4 e 1 + n ∧
        ∀ r, s.carrierOf o.carrier = some r → r.group = false → tfind s.bkw.gridSlot r.mu.val = none →
          (∀ a, base ≤ a → a < base + 0x5400000 → s.landsAt a 1 a) →
          ((State.rxSpots r).map fun x => (x.2.2.cluster, x.2.2.block)).Nodup →
          (labels.map fun l => (l.1, l.2.1, l.2.2.1)).Nodup → (∀ l ∈ labels, l.2.2.1 < 16) →
          ∀ l ∈ labels, ∀ x y, x ∈ State.rxSpots r → (symsOf o.slot)[l.1]? = some y →
            let sp := posSpan false (12 * r.nrb) x.1 x.2.1
            sp.1 ≤ l.2.1 → l.2.1 < sp.1 + sp.2 →
            readBytes t.mem (base + State.labelAddr x.2.2.cluster.val x.2.2.block.val y + ((l.2.1 - sp.1) * 16 + l.2.2.1) * 4) 4 =
              leBytes 1 l.2.2.2 ++ leBytes 3 (State.labelTag r.mu.val (State.slotOfSym r.mu.val y))))

/-- Descriptors, polar requests and labels of the Weir quads (08). -/
def Obligations.QuadsServe : Prop := Claims.DescriptorsDecoded ∧ Claims.PolarServed ∧ Claims.LabelsWritten


/-! ## Backwater (09) and carriers (13 R504) -/

/-- MODEL_UPDATE, the rows TRAIN, LOAD and SWAP (09 R317 to R321, R344, R354): a bad record, an undeclared region and TRAIN
with TRAIN_EN clear are refused; with an update running, the next one waits and a third is answered MODEL_BUSY; in an idle
region TRAIN and LOAD run from their first step on, and SWAP of a valid inactive slot is pending, of a bad one completes
with MODEL_INVALID. A TRAIN whose training state belongs to another version begins it anew from the active slot. That a bad
region or TRAIN_EN clear answers STATE is the model's reading (assumption 60). -/
def Claims.UpdatesTaken : Prop :=
  ∀ (s : State) (m : Fin 9) (c : Instr) (kind : Nat), s.serves m.val 0x40 = true →
    (c, kind) ∈ [(Instr.train m, 1), (Instr.load m, 2), (Instr.swap m, 3)] → s.updKind m.val = kind →
    let u := s.clearOuts
    let latched := (s.mailbox m.val).latched
    let rec_ := updRecOf ((latched.drop 4).take 48)
    let i := rec_.region
    let r := s.region i
    let x : Upd := ⟨rec_, m.val, fieldAt latched 2 2, false⟩
    (updOk rec_ = false → exec c s = .next (u.reply m.val rcUpdBad [])) ∧
    (updOk rec_ = true → s.regionDecl i = none ∨ (kind = 1 ∧ s.bkwCtl 1 = false) →
      exec c s = .next (u.reply m.val rcState [])) ∧
    (∀ d, updOk rec_ = true → s.regionDecl i = some d → (kind = 1 → s.bkwCtl 1 = true) →
      (∀ v, r.run = some v → r.queue = none →
        exec c s = .next ((u.setRegion i { r with queue := some x }).reply m.val rcAccepted [])) ∧
      (∀ v w, r.run = some v → r.queue = some w → exec c s = .next (u.reply m.val rcModelBusy [])) ∧
      (r.run = none → kind = 1 →
        let v := s.slotVersion d r.active
        let same := r.stateVer = some v
        let r' : Region := { r with
          st := 1, run := some x, epochs := 0, step := 0, n := 0, runs := [], window := none, counted := false, discards := 0
          lastShift := if same then r.lastShift else none, stateVer := some v, abort := false }
        exec c s = .next (((if same then u else u.initState d r.active).setRegion i r').reply m.val rcAccepted []).settle) ∧
      (r.run = none → kind = 2 →
        exec c s = .next ((u.setRegion i { r with st := 2, run := some x, staged := [], abort := false }).reply m.val rcAccepted [])) ∧
      (r.run = none → kind = 3 → s.slotGood d (1 - r.active) = true → r.pend = none →
        exec c s = .next ((u.setRegion i { r with pend := some (x, 1 - r.active) }).reply m.val rcAccepted [])) ∧
      (r.run = none → kind = 3 → s.slotGood d (1 - r.active) = false →
        exec c s = .next ((u.updDone i rcModelInvalid x).reply m.val rcAccepted []).settle))

/-- CARRIER_CONFIG (13 R504): a carrier index above 15, a record that cannot be read and one out of format are answered so; a
readable record is checked among all records: refused with its code, and then it stands in the way of starts, or staged. -/
def Claims.CarriersStaged : Prop :=
  ∀ (s : State) (rec_ : Option CarrierRec), s.serves 0 0x18 = true →
    let u := s.clearOuts
    let k := s.par 0 4 1
    let n := s.par 0 13 4
    let b := State.readG reqWellhead 0 n u (s.par 0 5 8) n
    let kept := s.func.refused.filter fun j => decide (j ≠ k)
    (16 ≤ k → exec (.carrierConfig 0 rec_) s = .next (u.reply 0 rcBadParam [])) ∧
    (k < 16 →
      (b.2.2 = false → exec (.carrierConfig 0 rec_) s = .next (b.1.reply 0 rcHostFault []).settle) ∧
      (b.2.2 = true → (∀ r, rec_ = some r → r.wellFormed = false) →
        exec (.carrierConfig 0 rec_) s = .next (b.1.reply 0 rcBadParam []).settle) ∧
      (∀ r, b.2.2 = true → rec_ = some r → r.wellFormed = true →
        let rs := (tset s.records k r).map (·.2)
        (∀ c, b.1.recordRefusal rs s.flt.checkNext r = some c → exec (.carrierConfig 0 rec_) s =
          .next ({ b.1 with func := { s.func with refused := kept ++ [k] } }.reply 0 c []).settle) ∧
        (b.1.recordRefusal rs s.flt.checkNext r = none → exec (.carrierConfig 0 rec_) s =
          .next ({ b.1 with func := { s.func with staged := tset s.func.staged k r, refused := kept } }.reply 0 rcOk []).settle)))

/-- Commands that read or write memory for the host (13 R503, R504). -/
def Obligations.HostRecordsMoved : Prop := Claims.MemoryCommands ∧ Claims.CarriersStaged

/-- CAPTURE of a reach (09 R322 to R335): a reach that is not eligible leaves nothing; one with too few labels, or with no
occasion to name, is counted as skipped; else its record, after its occasion's where that has none in this epoch, takes the
next granules and the next tag, and is held out as R336 says. A pinned epoch in the way keeps the record out. -/
def Claims.ReachesCaptured : Prop :=
  ∀ (s : State) (carrier : Fin 16) (y : SymId) (position : Fin 64), s.ready = true →
    let c := Instr.capture (.reach carrier y position)
    let u := s.clearOuts
    let found := s.bkw.caps.find? fun r => r.carrier == carrier.val && r.sym == y && r.position == position.val
    let cfg := (s.ctl.inForce Reg.BKW_CAPCFG).toNat
    let size := bits (s.reg Reg.BKW_CACHE_SIZE).toNat 21 0
    let wp := s.bkw.wp
    let tag := (s.reg Reg.BKW_NEXT_TAG).toNat
    let epoch := (s.reg Reg.BKW_EPOCH).toNat
    let put (k g n kind : Nat) : CacheRec :=
      ⟨wp + k, g, (tag + n) % 2 ^ 32, epoch, kind, heldOut (bits cfg 15 8) ((tag + n) % 2 ^ 32), s.bkw.config⟩
    let inWay (g : Nat) (x : CacheRec) : Prop := x ∈ s.bkw.recs ∧ x.granule < wp + g ∧ wp < x.granule + x.len
    let room (g : Nat) : Prop := wp + g ≤ size ∧ (∀ x, ¬inWay g x) ∧ ∃ b, s.landsAt (s.granuleAddr wp) (g * 8192) b
    let paid (k g : Nat) (w : State) : Option State := w.chargeDram (s.granuleAddr (wp + k)) (g * 8192) 1
    let magic (t : State) (k n : Nat) : Prop := ∀ b, s.landsAt (s.granuleAddr (wp + k)) 8192 b →
      readBytes t.mem b 4 = leBytes 4 0x4F484F58 ∧ readBytes t.mem (b + 8) 8 = leBytes 4 ((tag + n) % 2 ^ 32) ++ leBytes 4 epoch
    (found = none → exec c s = .next u) ∧
    (∀ r, found = some r →
      let d := u.dropCap r
      let skipped := ((d.count Reg.BKW_CAP_SKIP_CNT 1).event Reg.BKW_STATUS Ev.BKW_CAP_SKIP).settle
      let places := s.allocPlaces r
      let labelled := (places.filter fun p => (s.labelAt r.cluster r.block r.mu y (p.1 * 16 + p.2.1)).isSome).length
      let enough := bits cfg 23 16 * places.length ≤ labelled * 256
      (s.eligible r = false → exec c s = .next d) ∧
      (s.eligible r = true → ¬enough ∨ r.occ = none → exec c s = .next skipped) ∧
      (∀ o oy, s.eligible r = true → enough → r.occ = some (o, oy) →
        let mine (x : OccRec) : Bool := x.cluster == r.cluster && x.carrier == r.carrier && x.slot == State.slotField ⟨y.sfn, y.slot⟩
          && x.position == r.position && x.occasion == o && x.epoch == epoch
        (∀ x w, s.bkw.occasions.find? mine = some x → room 5 → paid 0 5 u = some w → ∃ t, exec c s = .next t ∧
          t.bkw = { d.bkw with recs := s.bkw.recs ++ [put 0 5 0 2], wp := (wp + 5) % size } ∧ magic t 0 0 ∧
          (t.reg Reg.BKW_NEXT_TAG).toNat = (tag + 1) % 2 ^ 32 ∧ t.reg Reg.BKW_CAP_CNT = s.reg Reg.BKW_CAP_CNT + 1) ∧
        (∀ x e, s.bkw.occasions.find? mine = some x → wp + 5 ≤ size → inWay 5 e → s.pinned e.epoch = true → exec c s =
          .next ((d.count Reg.BKW_FULL_SKIP_CNT 1).event Reg.BKW_STATUS Ev.BKW_CACHE_FULL).settle) ∧
        (∀ x, s.bkw.occasions.find? mine = some x → room 5 → paid 0 5 u = none → exec c s = .next skipped) ∧
        (∀ w v, s.bkw.occasions.find? mine = none → room 12 → paid 0 7 u = some w → paid 7 5 w = some v → ∃ t, exec c s = .next t ∧
          t.bkw.recs = s.bkw.recs ++ [put 0 7 0 1, put 7 5 1 2] ∧ t.bkw.wp = (wp + 12) % size ∧ magic t 0 0 ∧ magic t 7 1 ∧
          t.bkw.occasions = s.bkw.occasions ++ [⟨r.cluster, r.carrier, State.slotField ⟨y.sfn, y.slot⟩, r.position, o, epoch, tag⟩] ∧
          (t.reg Reg.BKW_NEXT_TAG).toNat = (tag + 2) % 2 ^ 32 ∧ t.reg Reg.BKW_CAP_CNT = s.reg Reg.BKW_CAP_CNT + 2)))

/-- CAPTURE of an occasion of a privileged stream (09 R329, R330): with the stream off nothing happens; an occasion with no reach
of its port, with fewer than 64 pilots, or whose grids have left the ring is skipped and its window begins again; any other joins
the window, and the sixteenth completes it: seventeen granules, outside which no memory changes. Beginning again is the model's
choice (assumption 82). -/
def Claims.ImagesCaptured : Prop :=
  ∀ (s : State) (stream : Fin 4) (y : SymId) (pilots : List (Nat × Word)), s.ready = true →
    let c := Instr.capture (.image stream y pilots)
    let u := s.clearOuts
    let cfg := (s.ctl.inForce (Reg.BKW_REFSIG0 + 4 * stream.val)).toNat
    let carrier := bits cfg 27 24
    let port := bits cfg 23 20
    let on := bitOf cfg 31 && s.bkwCtl 0
    let size := bits (s.reg Reg.BKW_CACHE_SIZE).toNat 21 0
    let wp := s.bkw.wp
    let tag := (s.reg Reg.BKW_NEXT_TAG).toNat
    let epoch := (s.reg Reg.BKW_EPOCH).toNat
    let put : CacheRec := ⟨wp, 17, tag, epoch, 3, heldOut (bits (s.ctl.inForce Reg.BKW_CAPCFG).toNat 15 8) tag, s.bkw.config⟩
    let ps := (pilots.drop (bits cfg 19 8)).take 64
    let reach := s.bkw.caps.find? fun r => r.carrier == carrier && r.sym.sfn == y.sfn && r.sym.slot == y.slot
      && r.allocs.any fun a => a.layerBase.val == port
    let e := { u with bkw := { s.bkw with wins := tdel s.bkw.wins stream.val } }
    (on = false ∨ s.carrierOf carrier = none → exec c s = .next u) ∧
    (∀ k, on = true → s.carrierOf carrier = some k →
      (reach = none ∨ (∃ r, reach = some r ∧ (ps.length < 64 ∨ s.capLate k.mu.val (State.slotOfSym k.mu.val y) = true ∨
          s.mirrorOn r.cluster k.mu.val y = false)) →
        exec c s = .next ((e.count Reg.BKW_CAP_SKIP_CNT 1).event Reg.BKW_STATUS Ev.BKW_CAP_SKIP).settle) ∧
      (∀ r, reach = some r → 64 ≤ ps.length → s.capLate k.mu.val (State.slotOfSym k.mu.val y) = false →
        s.mirrorOn r.cluster k.mu.val y = true →
        let row := s.imgRow carrier port k y ps
        (∀ w, tfind s.bkw.wins stream.val = some w → w.rows.length < 15 →
          exec c s = .next { u with bkw := { s.bkw with wins := tset s.bkw.wins stream.val { w with rows := w.rows ++ [row] } } }) ∧
        (tfind s.bkw.wins stream.val = none → ∃ t w, exec c s = .next t ∧ tfind t.bkw.wins stream.val = some w ∧ w.rows = [row] ∧
          w.sym = y ∧ w.carrier = carrier ∧ w.ants = r.ants ∧ t.mem = s.mem) ∧
        (∀ w v b, tfind s.bkw.wins stream.val = some w → w.rows.length = 15 → wp + 17 ≤ size →
          (∀ x ∈ s.bkw.recs, ¬(x.granule < wp + 17 ∧ wp < x.granule + x.len)) →
          s.landsAt (s.granuleAddr wp) (17 * 8192) b → s.chargeDram (s.granuleAddr wp) (17 * 8192) 1 = some v →
          ∃ t, exec c s = .next t ∧
            t.bkw = { e.bkw with wp := (wp + 17) % size, recs := s.bkw.recs ++ [put] } ∧
            (t.reg Reg.BKW_NEXT_TAG).toNat = (tag + 1) % 2 ^ 32 ∧ t.reg Reg.BKW_CAP_CNT = s.reg Reg.BKW_CAP_CNT + 1 ∧
            readBytes t.mem b 4 = leBytes 4 0x4F484F58 ∧ readBytes t.mem (b + 8) 8 = leBytes 4 tag ++ leBytes 4 epoch ∧
            ∀ j, j < b ∨ b + 17 * 8192 ≤ j → tget zeroByte t.mem j = tget zeroByte s.mem j)))

/-- CAPTURE (09 R322 to R336). -/
def Obligations.RecordsCaptured : Prop := Claims.ReachesCaptured ∧ Claims.ImagesCaptured

/-- STEP_END (09 R343, R347 to R351): with no run in progress nothing happens; a run on a core of an earlier run of its step is no
replay, and is done again; a run that is not suspect commits: its gradient and then every element are written, and the update goes on
to its next step or, after the last one, to validation; a suspect run is repeated; a repetition that agrees commits the first run, one
that does not calls for a third; the third agrees with one of the two, which commits, and the cores of the other are suspects, or the
step is discarded. -/
def Claims.StepsCommitted : Prop :=
  ∀ (s : State) (i : Fin 16) (y : StepRun), s.ready = true →
    let u := s.clearOuts
    let r := s.region i.val
    let closed : Region := { r with window := none }
    (r.run = none ∨ s.regionDecl i.val = none ∨ r.st ≠ 1 ∨ r.window = none → exec (.stepEnd i y) s = .next u) ∧
    (∀ v d p, r.run = some v → s.regionDecl i.val = some d → r.st = 1 → r.window = some p →
      let o := u.setRegion i.val closed
      ((r.runs.all fun a => otherCores a y.cores) = false → exec (.stepEnd i y) s = .next o) ∧
      (r.runs = [] → v.rec_.kind = 1 → r.abort = true → r.queue = none → (o.runResult i.val v d y).1.suspectStep r d (o.runResult i.val v d y).2 = false →
        r.step + 1 < updSteps v.rec_ → ∃ t, exec (.stepEnd i y) s = .next t ∧ (t.region i.val).run = none ∧ (t.region i.val).st = 0 ∧
          t.reg Reg.BKW_STEP_CNT = s.reg Reg.BKW_STEP_CNT + 1) ∧
      ((r.runs.all fun a => otherCores a y.cores) = true → r.abort = false →
        let w := (o.runResult i.val v d y).1
        let x := (o.runResult i.val v d y).2
        let wr := w.region i.val
        let last := updSteps v.rec_ ≤ r.step + 1
        let epochs := if last then r.epochs + 1 else r.epochs
        let ends := last ∧ v.rec_.epochs ≤ epochs
        let onward (q : Region) : Region := { q with
          step := if last then 0 else r.step + 1, n := r.n + 1, epochs := epochs, runs := [], counted := false
          st := if ends then 3 else 1, vals := if ends then w.valSet i.val v else q.vals }
        let kept (a : StepRes) : State := (((w.putGrad d a.grad).applyStep d v.rec_).count Reg.BKW_STEP_CNT 1).setRegion i.val
          (onward { closed with lastShift := some (State.gradShift d a.grad) })
        let out (a : StepRes) : State := a.cores.foldl (fun (q : State) p => q.suspect p.val)
          ((w.count Reg.BKW_DISAGREE_CNT 1).event Reg.BKW_STATUS Ev.BKW_DISAGREE)
        let again : State := (w.setRegion i.val { closed with runs := r.runs ++ [x] }).count Reg.BKW_REPLAY_CNT 1
        wr = closed ∧
        (r.runs = [] → w.suspectStep r d x = false → exec (.stepEnd i y) s = .next (kept x).settle) ∧
        (r.runs = [] → w.suspectStep r d x = true → exec (.stepEnd i y) s = .next again.settle) ∧
        (∀ a, r.runs = [a] → runsAgree a x = true → exec (.stepEnd i y) s = .next (kept a).settle) ∧
        (∀ a, r.runs = [a] → runsAgree a x = false → exec (.stepEnd i y) s = .next again.settle) ∧
        (∀ a b c l, r.runs = a :: b :: l → c = (if runsAgree a x then a else b) → runsAgree c x = true →
          let bad := if runsAgree a x then b else a
          ∃ t, exec (.stepEnd i y) s = .next t ∧
            t.region i.val = onward { closed with lastShift := some (State.gradShift d c.grad) } ∧
            t.reg Reg.BKW_STEP_CNT = s.reg Reg.BKW_STEP_CNT + 1 ∧ t.reg Reg.BKW_DISAGREE_CNT = s.reg Reg.BKW_DISAGREE_CNT + 1 ∧
            bitOf (t.reg Reg.BKW_STATUS).toNat Ev.BKW_DISAGREE = true ∧ t.flt.queue = (out bad).flt.queue) ∧
        (∀ a b l, r.runs = a :: b :: l → runsAgree a x = false → runsAgree b x = false → r.discards = 0 →
          exec (.stepEnd i y) s = .next ((w.event Reg.BKW_STATUS Ev.BKW_STEP_DISCARD).setRegion i.val
            (onward { closed with discards := 1 })).settle) ∧
        (∀ a b l, r.runs = a :: b :: l → runsAgree a x = false → runsAgree b x = false → r.discards = 1 → r.queue = none →
          ∃ t, exec (.stepEnd i y) s = .next t ∧ (t.region i.val).run = none ∧ (t.region i.val).st = 0 ∧
            (t.region i.val).active = r.active ∧ t.reg Reg.BKW_STEP_CNT = s.reg Reg.BKW_STEP_CNT)))

/-- Staging and validation (09 R345, R352 to R354): a LOAD whose image cannot be read ends, one whose image passes its checks goes on
to validation or commit, with the image in its state area; a candidate whose errors are within the margin of the active image's and
whose loss is no greater goes on to commit, one outside it, or with fewer than sixteen held-out records, ends. Outside their states
the commands do nothing. -/
def Claims.CandidatesChecked : Prop :=
  ∀ (s : State) (i : Fin 16), s.ready = true →
    let u := s.clearOuts
    let r := s.region i.val
    (∀ readOk, r.run = none ∨ s.regionDecl i.val = none ∨ r.st ≠ 2 → exec (.stagingDone i readOk) s = .next u) ∧
    (∀ v d, r.run = some v → s.regionDecl i.val = some d → r.st = 2 →
      let h := State.readG reqWellhead 0 0x100 u v.rec_.source.toNat 0x100
      let n := if d.kind2 then 2240 else min 0x100000 (max 0x100 (fieldAt h.2.1 0x10 4))
      let b := State.readG reqWellhead 0 n h.1 v.rec_.source.toNat n
      let ok := (if d.kind2 then tableOk b.2.1 else State.slotOk b.1.flowTag (some d.modelId.toNat) b.2.1)
      let staged : Region := { r with staged := b.2.1, st := if bitOf v.rec_.flags 1 then 3 else 4, stateVer := none
                                      vals := if bitOf v.rec_.flags 1 then b.1.valSet i.val v else r.vals }
      (∀ readOk, readOk = false ∨ h.2.2 = false ∨ b.2.2 = false ∨ ok = false → r.queue = none →
        ∃ t, exec (.stagingDone i readOk) s = .next t ∧
          (t.region i.val).st = 0 ∧ (t.region i.val).run = none ∧ (t.region i.val).active = r.active) ∧
      (h.2.2 = true → b.2.2 = true → ok = true →
        exec (.stagingDone i true) s = .next ((b.1.writeMem d.stateArea b.2.1).setRegion i.val staged).settle)) ∧
    (r.run = none ∨ s.regionDecl i.val = none ∨ r.st ≠ 3 ∨ s.bkwCtl 3 = true → exec (.validationDone i) s = .next u) ∧
    (∀ v d, r.run = some v → s.regionDecl i.val = some d → r.st = 3 → s.bkwCtl 3 = false →
      let w := (u.valSamples i.val).1
      let set := (u.valSamples i.val).2
      let new := w.newImage i.val d
      let old := w.slotImage d r.active
      let good := (Config.valErrors w.flowTag i.val new set).toNat * 256
          ≤ (Config.valErrors w.flowTag i.val old set).toNat * (256 - v.rec_.margin)
        ∧ (Config.valLoss w.flowTag i.val new set).toNat ≤ (Config.valLoss w.flowTag i.val old set).toNat
      (16 ≤ set.length → good → exec (.validationDone i) s = .next (w.setRegion i.val { r with st := 4 }).settle) ∧
      (set.length < 16 → r.queue = none → ∃ t, exec (.validationDone i) s = .next t ∧ (t.region i.val).run = none ∧
        (t.region i.val).st = 0 ∧ (t.region i.val).active = r.active ∧ t.reg Reg.BKW_REJECT_CNT = s.reg Reg.BKW_REJECT_CNT) ∧
      (16 ≤ set.length → ¬good → r.queue = none → ∃ t, exec (.validationDone i) s = .next t ∧ (t.region i.val).run = none ∧
        (t.region i.val).st = 0 ∧ (t.region i.val).active = r.active ∧ t.reg Reg.BKW_REJECT_CNT = s.reg Reg.BKW_REJECT_CNT + 1 ∧
        bitOf (t.reg Reg.BKW_STATUS).toNat Ev.BKW_REJECTED = true))

/-- Steps, staging and validation (09). -/
def Obligations.TrainingStepsEnd : Prop := Claims.StepsCommitted ∧ Claims.CandidatesChecked

/-- Commits and swaps (09 R355 to R359): a commit begins once no swap of its region is latched; as it ends the inactive slot holds
the staged image or the candidate and a swap of it is pending, unless its SWAP_AT boundary has passed; at the latch point, and at no
other time, the pending swap is latched for the next slot boundary, at which the slot becomes the active one and the swap is counted;
a pending swap whose SWAP_AT boundary passes is gone. -/
def Claims.SwapsTaken : Prop :=
  ∀ (s : State) (i : Fin 16) (mu : Fin 4), s.ready = true →
    let u := s.clearOuts
    let r := s.region i.val
    (r.st ≠ 4 ∨ r.writing = true ∨ r.latch.isSome = true ∨ s.bkwCtl 3 = true → exec (.commit i) s = .next u) ∧
    (r.st = 4 → r.writing = false → r.latch = none → s.bkwCtl 3 = false → r.pend = none →
      exec (.commit i) s = .next (u.setRegion i.val { r with writing := true })) ∧
    (∀ v k, r.st = 4 → r.writing = false → r.latch = none → s.bkwCtl 3 = false → r.pend = some (v, k) →
      ∃ t, exec (.commit i) s = .next t ∧ t.region i.val = { r with pend := none, writing := true } ∧
        t.reg Reg.BKW_SUPERSEDE_CNT = s.reg Reg.BKW_SUPERSEDE_CNT + 1) ∧
    (r.run = none ∨ s.regionDecl i.val = none ∨ r.st ≠ 4 ∨ r.writing = false ∨ s.bkwCtl 3 = true →
      exec (.commitDone i) s = .next u) ∧
    (∀ v d a, r.run = some v → s.regionDecl i.val = some d → r.st = 4 → r.writing = true → s.bkwCtl 3 = false → r.pend = none →
      r.queue = none → s.slotAddrs d (1 - r.active) = [a] →
      let im := s.newImage i.val d
      ∃ t, exec (.commitDone i) s = .next t ∧ (t.region i.val).run = none ∧ (t.region i.val).st = 0 ∧ (t.region i.val).active = r.active ∧
        (t.region i.val).pend = (if v.missed then none else some (v, 1 - r.active)) ∧ readBytes t.mem a im.length = im ∧
        (v.missed = true → bitOf (t.reg Reg.BKW_STATUS).toNat Ev.BKW_SWAP_MISSED = true) ∧
        (v.rec_.kind = 1 → 16 ≤ im.length → (t.region i.val).stateVer = some (fieldAt im 8 8)) ∧
        ∀ j, v.missed = false → j < a ∨ a + im.length ≤ j → tget zeroByte t.mem j = tget zeroByte s.mem j) ∧
    (s.latchDue mu.val = false ∨ (∀ x ∈ s.regionsOf mu.val, (s.region x.1).pend = none) → exec (.swapLatch mu) s = .next u) ∧
    (∀ d v slot, s.latchDue mu.val = true → s.regionsOf mu.val = [(i.val, d)] → r.pend = some (v, slot) → r.writing = false →
      r.latch = none → (bitOf v.rec_.flags 0 = true → v.rec_.swapAt = s.nextSlotField mu.val) → ∃ t ok,
      exec (.swapLatch mu) s = .next t ∧
      t.region i.val = { r with pend := none, latch := some (v, slot, s.nextSlotField mu.val, ok) } ∧
      (d.kind2 = true → ok = s.slotGood d slot ∧ ∀ q ∈ d.quads, (t.reg (Reg.WEIR_PARAM_SEL q.val)).toNat = slot % 2 ^ 32)) ∧
    (∀ d v slot, s.regionsOf mu.val = [(i.val, d)] → r.pend = none → r.run = none → r.queue = none →
      (r.latch = some (v, slot, s.slotField' mu.val, true) → ((s.takeSwaps mu.val).region i.val).active = slot ∧
        ((s.takeSwaps mu.val).region i.val).latch = none ∧
        (s.takeSwaps mu.val).reg Reg.BKW_SWAP_CNT = s.reg Reg.BKW_SWAP_CNT + 1) ∧
      (∀ b ok, r.latch = some (v, slot, b, ok) → b ≠ s.slotField' mu.val → s.takeSwaps mu.val = s)) ∧
    (∀ d v slot, s.regionsOf mu.val = [(i.val, d)] → r.pend = some (v, slot) → r.run = none → r.queue = none → r.latch = none →
      bitOf v.rec_.flags 0 = true → v.rec_.swapAt = s.slotField' mu.val → ((s.takeSwaps mu.val).region i.val).pend = none ∧
        bitOf ((s.takeSwaps mu.val).reg Reg.BKW_STATUS).toNat Ev.BKW_SWAP_MISSED = true)

/-- Model updates from their command to the swap (09). -/
def Obligations.UpdatesAndSwaps : Prop := Claims.UpdatesTaken ∧ Claims.SwapsTaken


/-! ## Jobs (14 R524 to R546) and tests (15 R573 to R577) -/

/-- JOB_RECORD (14 R524, R525): the next fetched record takes the basin's next number; one that the rules refuse completes at
once with JOB_FAULT, any other becomes a fetched job with its LAUNCH. The ranges that make a record completed with JOB_FAULT
are read from its table (assumption 28). -/
def Claims.RecordsTaken : Prop :=
  ∀ (s : State) (b : Fin 8), s.ready = true →
    let u := s.clearOuts
    let x := s.basin b.val
    (x.f2 = [] ∨ x.st = 2 → exec (.jobRecord b) s = .next u) ∧
    (∀ e rest, x.f2 = e :: rest → x.st ≠ 2 →
      let y : Basin := { x with f2 := rest, nextJob := (x.nextJob + 1) % 2 ^ 48, submitted := (x.submitted + 1) % 2 ^ 48 }
      (s.jobBad b.val e = true → ∃ t, exec (.jobRecord b) s = .next t ∧
        (t.basin b.val).f2 = rest ∧ (t.basin b.val).nextJob = y.nextJob ∧ (t.basin b.val).submitted = y.submitted ∧
        (t.basin b.val).completed = (x.completed + 1) % 2 ^ 48 ∧ t.sched = s.sched) ∧
      (s.jobBad b.val e = false → ∃ t r, exec (.jobRecord b) s = .next t ∧ t.basin b.val = y ∧
        t.sched.jobs = s.sched.jobs ++ [⟨b.val, x.nextJob, s.sched.nextRec, 0, fieldAt e 4 4, .fetched, [], false⟩] ∧
        t.jobRec s.sched.nextRec = some r ∧ r.catch_ = fieldAt e 0 1 ∧ r.entry = fieldAt e 2 2 ∧ r.arg = fieldAt e 8 8 ∧
        r.batch = fieldAt e 16 2 ∧ r.period = fieldAt e 20 4 ∧ r.count = fieldAt e 24 4 ∧
        r.repeat_ = bitOf (fieldAt e 1 1) 0 ∧ r.preempt = bitOf (fieldAt e 1 1) 1 ∧ r.taken = 1 ∧
        t.cores = s.cores ∧ t.mem = s.mem))

/-- JOB_READY (14 R526 to R528, R542, R545; 12 R478): without such a job, for an armed one, more than 20 µs ahead of its
launch, and while its function may not be armed, nothing happens; less than 2 µs ahead the launch is missed; else the leaf's
registers take ARG, BATCH, the number, the rank and the basin, and its gate the launch time and ENTRY. With PREEMPT the
leaf's holder is asked to stop first; a spilled job's leaf is restored and its gate armed at the cheap point. Arming at the
boundaries of a procedure is the model's reading (assumption 28). -/
def Claims.JobsArmed : Prop :=
  ∀ (s : State) (b : Fin 8) (num : BitVec 48) (resume : Word), s.ready = true →
    let u := s.clearOuts
    let go := exec (.jobReady b num resume) s
    (s.jobOf b.val num.toNat = none → go = .next u) ∧
    (∀ j, s.jobOf b.val num.toNat = some j →
      let others (f : Job → Prop) : Prop := ∀ k ∈ s.sched.jobs, ¬(k.basin = b.val ∧ k.num = num.toNat) → f k
      let put (j' : Job) : List Job := s.sched.jobs.map fun k => if k.basin = b.val ∧ k.num = num.toNat then j' else k
      let ahead := s.nsAhead j.launch
      (j.st = .armed → go = .next u) ∧
      (∀ r c p l, j.st = .fetched → s.jobRec j.rec_ = some r →
        s.catchment r.catch_ = some c → s.localLeaves c = [(p, l)] → p < 52 →
        let may : Prop := ∀ f, c.func = some f → s.mayArm f.val j.launch = true
        (20000 < ahead → go = .next u) ∧
        (2000 ≤ ahead → ahead ≤ 20000 → ¬may → go = .next u) ∧
        (ahead < 2000 → r.repeat_ = false → ∃ t, go = .next t ∧
          t.sched.jobs = s.sched.jobs.filter (fun k => !(k.basin == b.val && k.num == num.toNat)) ∧
          bitOf (t.ctl.arr bankCatch r.catch_).toNat Ev.CATCHFW_LAUNCH_MISSED = true ∧
          ((s.basin b.val).st ≠ 2 → (t.basin b.val).completed = ((s.basin b.val).completed + 1) % 2 ^ 48)) ∧
        (2000 ≤ ahead → ahead ≤ 20000 → may →
          (∀ k ∈ s.sched.jobs, ∀ q ∈ k.leaves, q.1 ≠ p) → r.basin = b.val → ∃ t, go = .next t ∧
          t.sched.jobs = put { j with st := .armed, leaves := [(p, 0)] } ∧
          tget (fun _ => 0) (t.core p).g 0 = BitVec.ofNat 32 r.arg ∧
          tget (fun _ => 0) (t.core p).g 1 = BitVec.ofNat 32 (r.arg / 2 ^ 32) ∧
          tget (fun _ => 0) (t.core p).g 2 = BitVec.ofNat 32 r.batch ∧ tget (fun _ => 0) (t.core p).g 3 = BitVec.ofNat 32 num.toNat ∧
          (∀ n, 4 ≤ n → tget (fun _ => 0) (t.core p).g n = tget (fun _ => 0) (s.core p).g n) ∧
          (t.core p).rank = l ∧ (t.core p).reg cBASIN = BitVec.ofNat 32 (b.val + 8) ∧
          (t.core p).gate = ⟨BitVec.ofNat 32 j.launch, r.entry % 4096, false, true, true, false, false, false⟩ ∧
          ((s.core p).run = .halted .ended → (t.core p).run = .waiting ∧ (t.core p).pc = r.entry % 4096) ∧
          (∀ q, q ≠ p → t.core q = s.core q) ∧ t.mem = s.mem) ∧
        (∀ k, 2000 ≤ ahead → ahead ≤ 20000 → may → r.preempt = true → k ∈ s.sched.jobs → ¬(k.basin = b.val ∧ k.num = num.toNat) →
          k.st = .running → k.preempted = false → (p, 1) ∈ k.leaves → ∃ t, go = .next t ∧
          t.sched.jobs = put { j with st := .ready } ∧ (∀ q, (q, 1) ∈ k.leaves → (t.core q).preempt = true) ∧ t.mem = s.mem)) ∧
      (∀ p x, j.st = .running → j.leaves = [(p, 1)] → tfind s.sched.spills p = some x → 2000 ≤ s.nsAhead resume.toNat →
        s.coreFenced p = false → others (fun k => k.preempted = true ∨ ∀ q ∈ k.leaves, q.1 ≠ p) →
        ∃ t, go = .next t ∧
        t.sched.jobs = put { j with preempted := false, leaves := [(p, 0)] } ∧ tfind t.sched.spills p = none ∧
        (t.core p).g = x.g ∧ (t.core p).a = x.a ∧ (t.core p).flags = x.flags ∧ (t.core p).lmask = x.lmask ∧
        (t.core p).reg cBASIN = x.basin ∧ (t.core p).gate = ⟨resume, x.cp % 4096, false, true, true, false, false, false⟩ ∧
        (t.core p).run = .waiting ∧ (t.core p).pc = x.cp % 4096 ∧ (∀ q, q ≠ p → t.core q = s.core q) ∧ t.mem = s.mem))

/-- Jobs from their record to their armed gates (14 R524 to R528). -/
def Obligations.JobsStart : Prop := Claims.RecordsTaken ∧ Claims.JobsArmed

/-- JOB_CANCEL (14 R530 to R532) acts as its doorbell is accepted: a job that is not running is gone, counted and its gates taken back, a
running one stays; its answer, in its turn, is what it did. -/
def Claims.JobsCancelled : Prop :=
  ∀ (s : State) (f : PFunc) (m : Fin 9) (v : BitVec 16) (j : Job),
    let x := s.mailbox m.val
    let w : State := s.clearOuts.setMailbox m.val
      { x with latched := x.cmd, accepted := v.toNat, st := 1, overrun := false, reject := false, pre := none }
    let a := w.cancelArgs m.val
    (s.serves m.val 0x31 = true →
      exec (.jobCancel m) s = .next (s.clearOuts.reply m.val (x.pre.getD rcState) [])) ∧
    (s.ready = true → s.fnServes f m.val = true → x.st ≠ 1 → v.toNat = fieldAt x.cmd 2 2 → v.toNat = (x.accepted + 1) % 65536 → fieldAt x.cmd 0 1 = 0x31 →
      w.refusal m.val = none → (∀ k ∈ s.wq, k ≠ m.val ∧ (cmdInfo (s.par k 0 1)).isSome = true) →
      a.1 < 8 → s.jobOf a.1 a.2 = some j →
      (j.st = .running → ∃ t, exec (.doorbell f m v) s = .next t ∧ (t.mailbox m.val).pre = some rcState ∧
        (t.mailbox m.val).st = 1 ∧ t.wq = s.wq ++ [m.val] ∧ t.sched = s.sched ∧ t.cores = s.cores) ∧
      (j.st ≠ .running → ∃ t, exec (.doorbell f m v) s = .next t ∧
        (t.mailbox m.val).pre = some rcOk ∧ (t.mailbox m.val).st = 1 ∧ t.wq = s.wq ++ [m.val] ∧
        t.sched.jobs = s.sched.jobs.filter (fun k => !(k.basin == a.1 && k.num == a.2)) ∧
        ((s.basin a.1).st ≠ 2 → (t.basin a.1).cancelled = ((s.basin a.1).cancelled + 1) % 2 ^ 48) ∧
        ∀ p, (p, 0) ∈ j.leaves → (s.core p).gate.wh = true → (t.core p).gate.armed = false))

/-- Pre-emption (14 R542 to R544, R546): a request that has found no cheap point within SCHED.PREEMPT_WAIT is withdrawn and counted;
a leaf that has taken one and whose units are idle leaves its contents in its spill slot, the ranges that the image lists for its
cheap point among them, and its job, with no other leaf, counts as pre-empted; a leaf that has not stopped spills nothing. -/
def Claims.LeavesSpilled : Prop :=
  ∀ (s : State) (p : Fin 52), s.ready = true →
    let u := s.clearOuts
    let c := s.core p.val
    let waited := (s.ns32.toNat + 2 ^ 32 - tget (fun _ => 0) s.sched.asked p.val) % 2 ^ 32
    let wait := bits (s.reg Reg.SCHED_PREEMPT_WAIT).toNat 19 0
    let live := (((s.logOf p.val).bind fun k => s.cheapAt k c.pc).map (·.live)).getD []
    (c.preempt = false ∨ waited < wait → exec (.preemptWaitExpiry p) s = .next u) ∧
    (c.preempt = true → wait ≤ waited → ∃ t, exec (.preemptWaitExpiry p) s = .next t ∧ t.core p.val = { c with preempt := false } ∧
      (∀ q, q ≠ p.val → t.core q = s.core q) ∧ t.reg Reg.SCHED_PREEMPT_DROP_CNT = s.reg Reg.SCHED_PREEMPT_DROP_CNT + 1 ∧
      bitOf (t.reg Reg.SCHED_STATUS).toNat Ev.SCHED_PREEMPT_DROP = true ∧ t.mem = s.mem ∧ t.sched = s.sched) ∧
    ((∀ j ∈ s.sched.jobs, j.st = .running → j.preempted = false → (p.val, 1) ∉ j.leaves) → exec (.spill p) s = .next u) ∧
    (c.run ≠ .halted .preempted → exec (.spill p) s = .next u) ∧
    (∀ j, s.sched.jobs = [j] → j.st = .running → j.preempted = false → j.leaves = [(p.val, 1)] → c.run = .halted .preempted →
      c.pass = none → c.eddy = none → c.ldprog = [] → c.si = [] → c.so = [] → c.flight = [] → tfind s.sched.spills p.val = none →
      ∃ t x, exec (.spill p) s = .next t ∧ tfind t.sched.spills p.val = some x ∧
        x.g = c.g ∧ x.a = c.a ∧ x.amode = c.amode ∧ x.flags = c.flags ∧ x.dec = c.dec ∧ x.lmask = c.lmask ∧ x.gate = c.gate ∧
        x.basin = c.reg cBASIN ∧ x.cp = c.pc ∧ x.live = (live.take 32).map (liveOf c) ∧
        t.sched.jobs = [{ j with preempted := true }] ∧
        t.reg Reg.SCHED_PREEMPT_CNT = s.reg Reg.SCHED_PREEMPT_CNT + 1 ∧
        bitOf (t.reg Reg.SCHED_STATUS).toNat Ev.SCHED_PREEMPTED = true ∧ (∀ q, t.core q = s.core q) ∧ t.mem = s.mem)

/-- Jobs that are cancelled or pre-empted (14 R530 to R546). -/
def Obligations.JobsStop : Prop := Claims.JobsCancelled ∧ Claims.LeavesSpilled

/-- TEST_SEGMENT_END (15 R575 to R577): a signature that matches is counted and the test moves on; a first mismatch queues the segment
again; a second one in a row puts the core out of service, and a Weir unit's second wrong answer in a row that unit. What the
segment may write on its core holds free values after it. No block ends while tests are off, on a fenced unit, or on one whose
allowance is spent. -/
def Obligations.TestsEnd : Prop :=
  ∀ s : State, s.ready = true →
    let u := s.clearOuts
    (∀ (p : Fin 52) (sig want : BitVec 64), (∀ seg, s.flt.test ≠ some (p.val, seg)) →
      exec (.testSegmentEnd (.core p sig want)) s = .next u) ∧
    (∀ (p : Fin 52) (sig : BitVec 64) (seg : Nat), s.flt.test = some (p.val, seg) → ∃ t,
      exec (.testSegmentEnd (.core p sig sig)) s = .next t ∧ t.flt.test = none ∧
      t.flt.mism = s.flt.mism.filter (fun x => decide (x ≠ (p.val, seg))) ∧
      t.reg Reg.FAULT_TEST_PASS_CNT = s.reg Reg.FAULT_TEST_PASS_CNT + 1 ∧ t.reg Reg.FAULT_TEST_POS = BitVec.ofNat 32 (p.val + seg * 256) ∧
      (s.flt.queue.head? ≠ some p.val → t.flt.queue = s.flt.queue ∧
        t.flt.next = if 3 ≤ seg then ((p.val + 1) % 52, 0) else (p.val, seg + 1)) ∧
      (∀ rest, s.flt.queue = p.val :: rest → t.flt.next = s.flt.next ∧
        t.flt.queue = (if 3 ≤ seg then rest else s.flt.queue) ∧ t.flt.qseg = (if 3 ≤ seg then 0 else seg + 1)) ∧
      t.cores = (u.soil p.val).cores ∧ (∀ q, q ≠ p.val → t.core q = s.core q) ∧ t.mem = s.mem) ∧
    (∀ (p : Fin 52) (sig want : BitVec 64) (seg : Nat), s.flt.test = some (p.val, seg) → sig ≠ want →
      ((p.val, seg) ∉ s.flt.mism → ∃ t,
        exec (.testSegmentEnd (.core p sig want)) s = .next t ∧ t.flt.test = none ∧ (p.val, seg) ∈ t.flt.mism ∧
        t.reg Reg.FAULT_TEST_FAIL_CNT = s.reg Reg.FAULT_TEST_FAIL_CNT + 1) ∧
      ((p.val, seg) ∈ s.flt.mism → ∃ t, exec (.testSegmentEnd (.core p sig want)) s = .next t ∧ t.coreFenced p.val = true ∧
        bitOf (t.reg Reg.FAULT_STATUS).toNat Ev.FAULT_TEST_FAIL = true ∧
        t.reg Reg.FAULT_TEST_FAIL_CNT = s.reg Reg.FAULT_TEST_FAIL_CNT + 1)) ∧
    (∀ (q : Fin 4) (unit : Fin 8) (k : Nat), k = q.val * 16 + unit.val →
      let on := bitOf (s.ctl.inForce Reg.FAULT_TEST_CFG).toNat 0 &&
        (if unit.val < 6 then s.fence 1 (6 * q.val + unit.val) == 0 && s.allowed 3 (6 * q.val + unit.val) 2 1
        else s.fence 2 (2 * q.val + unit.val - 6) == 0 && s.allowed 4 (2 * q.val + unit.val - 6) 2 1)
      (on = false → ∀ ok, exec (.testSegmentEnd (.weir q unit ok)) s = .next u) ∧
      (on = true →
        exec (.testSegmentEnd (.weir q unit true)) s =
          .next { u with flt := { s.flt with kat := s.flt.kat.filter fun i => decide (i ≠ k) } } ∧
        (k ∉ s.flt.kat → exec (.testSegmentEnd (.weir q unit false)) s =
          .next { u with flt := { s.flt with kat := s.flt.kat ++ [k] } }) ∧
        (k ∈ s.flt.kat → ∃ t, exec (.testSegmentEnd (.weir q unit false)) s = .next t ∧ k ∉ t.flt.kat ∧
          (unit.val < 6 → t.fence 1 (q.val * 6 + unit.val) ≠ 0) ∧ (6 ≤ unit.val → t.fence 2 (q.val * 2 + (unit.val - 6)) ≠ 0))))
end

