-- ==== Sys2Proof/Laws/Settle.lean ====
section
/-! SUPPORT. What a command leaves behind (15 R557 to R563, 14 R547): a state with nothing left undone is left as it is. -/
namespace Sys2Proof.Machine

/-- A fold whose every step leaves the start state stays there. -/
theorem foldl_fixed {α β : Type} (f : α → β → α) (a : α) (l : List β) (h : ∀ x ∈ l, f a x = a) : l.foldl f a = a := by
  induction l with
  | nil => rfl
  | cons x xs ih =>
    rw [List.foldl_cons, h x (List.mem_cons_self ..)]
    exact ih fun y hy => h y (List.mem_cons_of_mem _ hy)

namespace State

/-- A unit out of service is not fenced again. -/
theorem fenceUnit_done {s : State} {kind num how : Nat} (h : s.fence kind num ≠ 0) : s.fenceUnit kind num how = s := by
  unfold fenceUnit
  rw [if_pos h]

theorem settleCores_quiet {s : State} (h : s.coresQuiet = true) : s.settleCores = s := by
  unfold settleCores
  refine foldl_fixed _ s _ fun p hp => ?_
  have := List.all_eq_true.1 h p hp
  simp only [this, if_true]

theorem unitsFenced_iff {s : State} : s.unitsFenced = true ↔
    ∀ x ∈ fencingBits, bitOf (s.reg x.1).toNat x.2.1 = true → s.fence x.2.2.1 x.2.2.2 ≠ 0 := by
  simp only [unitsFenced, List.all_eq_true, Bool.or_eq_true, Bool.not_eq_true', bne_iff_ne, ne_eq]
  constructor
  · intro h x hx hb
    rcases h x hx with h1 | h1
    · simp [hb] at h1
    · exact h1
  · intro h x hx
    cases hb : bitOf (s.reg x.1).toNat x.2.1
    · exact .inl rfl
    · exact .inr (h x hx hb)

/-- A field of `n` bits that is not zero has a bit that is set. -/
theorem bits_ne_zero {v hi lo : Nat} (h : bits v hi lo ≠ 0) : ∃ b, b < hi + 1 - lo ∧ bitOf v (lo + b) = true := by
  by_cases hn : ∃ b, b < hi + 1 - lo ∧ bitOf v (lo + b) = true
  · exact hn
  · refine absurd ?_ h
    apply Nat.eq_of_testBit_eq
    intro i
    rw [Nat.zero_testBit, bits, Nat.testBit_mod_two_pow, Nat.testBit_div_two_pow, Bool.and_eq_false_iff]
    by_cases hi' : i < hi + 1 - lo
    · refine .inr ?_
      have := fun hb => hn ⟨i, hi', hb⟩
      rw [bitOf, beq_iff_eq] at this
      rw [Nat.testBit_eq_decide_div_mod_eq, decide_eq_false_iff_not, Nat.add_comm i lo]
      exact this
    · exact .inl (by simpa using hi')

theorem settleUnits_fenced {s : State} (h : s.unitsFenced = true) : s.settleUnits = s := by
  have hx := unitsFenced_iff.1 h
  have hw (q : Nat) (hq : q < 4) : (Reg.WEIR_FAULTWORD q, 5, 3, q) ∈ fencingBits := by
    simp only [fencingBits, List.mem_append, List.mem_flatMap]
    exact .inl ⟨q, List.mem_range.2 hq, .inl (.inl (.inl (.inr (List.mem_singleton.2 rfl))))⟩
  have he (q e : Nat) (hq : q < 4) (he : e < 6) : (Reg.WEIR_FAULTWORD q, 6 + e, 1, q * 6 + e) ∈ fencingBits := by
    simp only [fencingBits, List.mem_append, List.mem_flatMap]
    exact .inl ⟨q, List.mem_range.2 hq, .inl (.inl (.inl (.inl (List.mem_map.2 ⟨e, List.mem_range.2 he, rfl⟩))))⟩
  have hd (q e : Nat) (hq : q < 4) (he : e < 2) : (Reg.WEIR_FAULTWORD q, 3 + e, 2, q * 2 + e) ∈ fencingBits := by
    simp only [fencingBits, List.mem_append, List.mem_flatMap]
    exact .inl ⟨q, List.mem_range.2 hq, .inl (.inl (.inr (List.mem_map.2 ⟨e, List.mem_range.2 he, rfl⟩)))⟩
  have hb (q b : Nat) (hq : q < 4) (hb : b < 16) : (Reg.POOL_FAULTWORD q, 8 + b, 5, q) ∈ fencingBits := by
    simp only [fencingBits, List.mem_append, List.mem_flatMap]
    exact .inl ⟨q, List.mem_range.2 hq, .inl (.inr (List.mem_map.2 ⟨b, List.mem_range.2 hb, rfl⟩))⟩
  have hc (q b : Nat) (hq : q < 4) (hb : b < 2) : (Reg.POOL_FAULTWORD q, 2 + b, 5, q) ∈ fencingBits := by
    simp only [fencingBits, List.mem_append, List.mem_flatMap]
    refine .inl ⟨q, List.mem_range.2 hq, .inr ?_⟩
    rcases (by omega : b = 0 ∨ b = 1) with rfl | rfl <;> simp
  have hp (g i : Nat) (hg : g < 2) (hi : i < 4) : (Reg.PGRP_FAULTWORD g, 8 + i, 4, g * 4 + i) ∈ fencingBits := by
    simp only [fencingBits, List.mem_append, List.mem_flatMap]
    exact .inr ⟨g, List.mem_range.2 hg, List.mem_map.2 ⟨i, List.mem_range.2 hi, rfl⟩⟩
  unfold settleUnits
  have first : (List.range 4).foldl (fun (s : State) q =>
      let w := (s.reg (Reg.WEIR_FAULTWORD q)).toNat
      let s := (List.range 6).foldl (fun (s : State) e => if bitOf w (6 + e) then s.fenceUnit 1 (q * 6 + e) 1 else s) s
      let s := if bitOf w 5 then s.fenceUnit 3 q 1 else s
      let s := (List.range 2).foldl (fun (s : State) e => if bitOf w (3 + e) then s.fenceUnit 2 (q * 2 + e) 1 else s) s
      let p := (s.reg (Reg.POOL_FAULTWORD q)).toNat
      if bits p 23 8 ≠ 0 ∨ bits p 3 2 ≠ 0 then s.fenceUnit 5 q 1 else s) s = s := by
    refine foldl_fixed _ s _ fun q hq => ?_
    have hq := List.mem_range.1 hq
    have a1 : (List.range 6).foldl (fun (t : State) e =>
        if bitOf (s.reg (Reg.WEIR_FAULTWORD q)).toNat (6 + e) then t.fenceUnit 1 (q * 6 + e) 1 else t) s = s := by
      refine foldl_fixed _ s _ fun e h6 => ?_
      split
      · exact fenceUnit_done (hx _ (he q e hq (List.mem_range.1 h6)) ‹_›)
      · rfl
    have a2 : (if bitOf (s.reg (Reg.WEIR_FAULTWORD q)).toNat 5 then s.fenceUnit 3 q 1 else s) = s := by
      split
      · exact fenceUnit_done (hx _ (hw q hq) ‹_›)
      · rfl
    have a3 : (List.range 2).foldl (fun (t : State) e =>
        if bitOf (s.reg (Reg.WEIR_FAULTWORD q)).toNat (3 + e) then t.fenceUnit 2 (q * 2 + e) 1 else t) s = s := by
      refine foldl_fixed _ s _ fun e h2 => ?_
      split
      · exact fenceUnit_done (hx _ (hd q e hq (List.mem_range.1 h2)) ‹_›)
      · rfl
    have a4 : (if bits (s.reg (Reg.POOL_FAULTWORD q)).toNat 23 8 ≠ 0 ∨ bits (s.reg (Reg.POOL_FAULTWORD q)).toNat 3 2 ≠ 0 then
        s.fenceUnit 5 q 1 else s) = s := by
      split
      · rename_i hor
        rcases hor with h1 | h1
        · obtain ⟨b, hlt, hbit⟩ := bits_ne_zero h1
          exact fenceUnit_done (hx _ (hb q b hq hlt) hbit)
        · obtain ⟨b, hlt, hbit⟩ := bits_ne_zero h1
          exact fenceUnit_done (hx _ (hc q b hq hlt) hbit)
      · rfl
    simp only [a1, a2, a3]
    exact a4
  simp only [first]
  refine foldl_fixed _ s _ fun g hg => ?_
  have hg := List.mem_range.1 hg
  refine foldl_fixed _ s _ fun i hi => ?_
  split
  · exact fenceUnit_done (hx _ (hp g i hg (List.mem_range.1 hi)) ‹_›)
  · rfl

theorem putWords_eq (c : Ctl) (i : Nat) (ws : List Word) : ∃ l, c.putWords i ws = { c with log := l } := by
  induction ws generalizing c i with
  | nil => exact ⟨c.log, rfl⟩
  | cons w ws ih =>
    obtain ⟨l, hl⟩ := ih { c with log := tput (fun _ => 0) c.log i w } (i + 1)
    exact ⟨l, hl⟩

/-- Bringing the log into order changes the log's slots alone, and leaves no entry to be ordered. -/
theorem sortLog_eq (s : State) : ∃ l, s.sortLog = { s with ctl := { s.ctl with log := l, logKeys := [] } } := by
  unfold State.sortLog Ctl.sortLog
  split
  · rename_i h
    have hk := List.isEmpty_iff.1 h
    refine ⟨s.ctl.log, ?_⟩
    rw [← hk]
  · dsimp only
    generalize List.zipIdx (List.foldl _ _ _) = es
    generalize (s.ctl.reg Reg.FAULT_LOG_HEAD).toNat + 2 ^ 32 - _ = first
    have fold : ∀ (es : List ((Nat × List Word) × Nat)) (c : Ctl), ∃ l, es.foldl (fun (c : Ctl) e =>
        let seq := BitVec.ofNat 32 (first + e.2)
        c.putWords ((first + e.2) % 256 * 8) (e.1.2.set (if bits ((e.1.2.headD 0).toNat) 7 0 = 1 then 8 else 4) seq)) c
          = { c with log := l } := by
      intro es
      induction es with
      | nil => exact fun c => ⟨c.log, rfl⟩
      | cons e es ih =>
        intro c
        rw [List.foldl_cons]
        obtain ⟨l, hl⟩ := putWords_eq c ((first + e.2) % 256 * 8)
          (e.1.2.set (if bits ((e.1.2.headD 0).toNat) 7 0 = 1 then 8 else 4) (BitVec.ofNat 32 (first + e.2)))
        obtain ⟨l', hl'⟩ := ih { c with log := l }
        exact ⟨l', by dsimp only; rw [hl, hl']⟩
    obtain ⟨l, hl⟩ := fold es s.ctl
    exact ⟨l, by rw [hl]⟩

/-- With nothing logged there is nothing to order. -/
theorem sortLog_ordered {s : State} (h : s.logOrdered = true) : s.sortLog = s := by
  have h : s.ctl.logKeys.isEmpty = true := h
  unfold State.sortLog Ctl.sortLog
  rw [if_pos h]

/-- After the log is in order nothing is left to order. -/
theorem sortLog_logOrdered (s : State) : s.sortLog.logOrdered = true := by
  obtain ⟨l, h⟩ := sortLog_eq s
  rw [h]; rfl

theorem sortLog_reg (s : State) (a : Nat) : s.sortLog.reg a = s.reg a := by
  obtain ⟨l, h⟩ := sortLog_eq s
  rw [h]; rfl

theorem sortLog_strictEff (s : State) : s.sortLog.strictEff = s.strictEff := by
  obtain ⟨l, h⟩ := sortLog_eq s
  rw [h]; rfl

/-- Where every event is handled and every broken unit out of service, DET.STRICT alone is brought up to date and the log put
into order. -/
theorem settle_handled {s : State} (h : s.handled = true) :
    s.settle = if bitOf (s.reg Reg.DET_STRICT).toNat 8 = s.strictEff then s.sortLog
      else s.sortLog.setReg Reg.DET_STRICT (setBits (s.reg Reg.DET_STRICT) 8 8 (if s.strictEff then 1 else 0)) := by
  simp only [handled, Bool.and_eq_true] at h
  unfold settle
  simp only [settleCores_quiet h.1, settleUnits_fenced h.2, sortLog_reg, sortLog_strictEff]

/-- A state with nothing left undone keeps everything but the order of what its command has logged. -/
theorem settle_sorted {s : State} (h : s.settled = true) : s.settle = s.sortLog := by
  simp only [settled, Bool.and_eq_true] at h
  rw [settle_handled h.1, if_pos (beq_iff_eq.1 h.2)]

/-- A state with nothing left undone is left as it is. -/
theorem settle_settled {s : State} (h : s.settled = true) (hl : s.logOrdered = true) : s.settle = s := by
  rw [settle_sorted h, sortLog_ordered hl]

/-- Whether something is left undone depends on the cores, the fences, the collectors, DET.STRICT, the functions, the remaps
and the basins alone. -/
theorem settled_congr {s t : State} (hc : t.cores = s.cores) (hf : t.fences = s.fences)
    (hr : ∀ a, a ∈ fencingBits.map (·.1) ++ [Reg.DET_STRICT] → t.reg a = s.reg a) (hfn : t.func = s.func)
    (hm : t.flt.remaps = s.flt.remaps) (hb : t.basins = s.basins) : t.settled = s.settled := by
  have h1 : t.coresQuiet = s.coresQuiet := by simp only [coresQuiet, core, hc]
  have h2 : t.unitsFenced = s.unitsFenced := by
    simp only [unitsFenced]
    rw [Bool.eq_iff_iff, List.all_eq_true, List.all_eq_true]
    refine forall_congr' fun x => ?_
    refine imp_congr_right fun hx => ?_
    rw [hr _ (List.mem_append_left _ (List.mem_map_of_mem hx))]
    simp only [fence, hf]
  have h3 : t.strictShown = s.strictShown := by
    have := hr Reg.DET_STRICT (List.mem_append_right _ (List.mem_singleton.2 rfl))
    simp only [strictShown, strictEff, this, hfn, hm, hb]
  simp only [settled, handled, h1, h2, h3]

/-- The same where the registers of CSR space are those of before. -/
theorem settled_of_regs {s t : State} (hc : t.cores = s.cores) (hf : t.fences = s.fences) (hr : t.ctl.regs = s.ctl.regs)
    (hfn : t.func = s.func) (hm : t.flt.remaps = s.flt.remaps) (hb : t.basins = s.basins) : t.settled = s.settled :=
  settled_congr hc hf (fun a _ => by simp only [reg, Ctl.reg, hr]) hfn hm hb

theorem sortLog_settled (s : State) : s.sortLog.settled = s.settled := by
  obtain ⟨l, h⟩ := sortLog_eq s
  rw [h]
  exact settled_of_regs rfl rfl rfl rfl rfl rfl

/-- A command that ends with nothing left undone answers the state its effect gives, with its log entries in order. -/
theorem run_sorted {s : State} {f : State → State} (h : s.clearOuts.awake = true) (hs : (f s.clearOuts).settled = true) :
    s.run f = .next ((f s.clearOuts).sortLog.withPending s.pending) := by
  rw [run, if_pos h, settle_sorted hs]

/-- A command that ends with nothing left undone, and has logged nothing, answers the state its effect gives. -/
theorem run_ready {s : State} {f : State → State} (h : s.clearOuts.awake = true) (hs : (f s.clearOuts).settled = true)
    (hl : (f s.clearOuts).logOrdered = true) : s.run f = .next ((f s.clearOuts).withPending s.pending) := by
  rw [run_sorted h hs, sortLog_ordered hl]

end State
end Sys2Proof.Machine
end

