-- ==== Sys2Proof/Laws/Tab.lean ====
section
/-! SUPPORT. The sparse tables: a read after a write, other places, and the canonical form that every write keeps. -/
namespace Sys2Proof.Machine

variable {α : Type}

theorem tget_tset_self (d : Nat → α) (t : Tab α) (k : Nat) (v : α) : tget d (tset t k v) k = v := by
  induction t with
  | nil => simp [tset, tget]
  | cons e t ih =>
    obtain ⟨j, a⟩ := e
    simp only [tset]
    split
    · simp [tget]
    · split
      · simp [tget]
      · rename_i h; simp [tget, Ne.symm h, ih]

theorem tget_tset_ne (d : Nat → α) (t : Tab α) {k i : Nat} (v : α) (h : i ≠ k) : tget d (tset t k v) i = tget d t i := by
  induction t with
  | nil => simp [tset, tget, Ne.symm h]
  | cons e t ih =>
    obtain ⟨j, a⟩ := e
    simp only [tset]
    split
    · simp [tget, Ne.symm h]
    · split
      · rename_i h2; subst h2; simp [tget, Ne.symm h]
      · simp only [tget, ih]

theorem tfind_tset_self (t : Tab α) (k : Nat) (v : α) : tfind (tset t k v) k = some v := by
  induction t with
  | nil => simp [tset, tfind]
  | cons e t ih =>
    obtain ⟨j, a⟩ := e
    simp only [tset]
    split
    · simp [tfind]
    · split
      · simp [tfind]
      · rename_i h; simp [tfind, Ne.symm h, ih]

theorem tfind_tset_ne (t : Tab α) {k i : Nat} (v : α) (h : i ≠ k) : tfind (tset t k v) i = tfind t i := by
  induction t with
  | nil => simp [tset, tfind, Ne.symm h]
  | cons e t ih =>
    obtain ⟨j, a⟩ := e
    simp only [tset]
    split
    · simp [tfind, Ne.symm h]
    · split
      · rename_i h2; subst h2; simp [tfind, Ne.symm h]
      · simp only [tfind, ih]

theorem tsorted_none {b : Nat} {t : Tab α} (h : tsorted (some b) t = true) : tsorted none t = true := by
  cases t with
  | nil => rfl
  | cons e t => obtain ⟨j, a⟩ := e; simp only [tsorted, Bool.and_eq_true] at h ⊢; exact h.2

theorem tsorted_mono {b c : Nat} (hc : c ≤ b) {t : Tab α} (h : tsorted (some b) t = true) : tsorted (some c) t = true := by
  cases t with
  | nil => rfl
  | cons e t =>
    obtain ⟨j, a⟩ := e
    simp only [tsorted, Bool.and_eq_true, decide_eq_true_eq] at h ⊢
    exact ⟨by omega, h.2⟩

theorem tsorted_cons {b : Option Nat} {j : Nat} {a : α} {t : Tab α} (h : tsorted b ((j, a) :: t) = true) : tsorted (some j) t = true := by
  cases b <;> simp only [tsorted, Bool.and_eq_true] at h
  · exact h
  · exact h.2

theorem tget_tdel (d : Nat → α) (t : Tab α) (k i : Nat) : tget d (tdel t k) i = if i = k then d k else tget d t i := by
  induction t with
  | nil => simp only [tdel, List.filter_nil, tget]; split <;> simp_all
  | cons e t ih =>
    obtain ⟨j, a⟩ := e
    simp only [tdel] at ih
    by_cases hj : j = k
    · subst hj
      rw [tdel, List.filter_cons_of_neg (by simp), ih]
      by_cases hi : i = j
      · rw [if_pos hi, if_pos hi]
      · rw [if_neg hi, if_neg hi, tget, if_neg (Ne.symm hi)]
    · rw [tdel, List.filter_cons_of_pos (by simpa using hj), tget, tget, ih]
      by_cases hi : j = i
      · subst hi; rw [if_pos rfl, if_neg hj, if_pos rfl]
      · rw [if_neg hi, if_neg hi]

theorem tfind_tdel (t : Tab α) (k i : Nat) : tfind (tdel t k) i = if i = k then none else tfind t i := by
  induction t with
  | nil => simp [tdel, tfind]
  | cons e t ih =>
    obtain ⟨j, a⟩ := e
    simp only [tdel] at ih
    by_cases hj : j = k
    · subst hj
      rw [tdel, List.filter_cons_of_neg (by simp), ih]
      by_cases hi : i = j
      · rw [if_pos hi, if_pos hi]
      · rw [if_neg hi, if_neg hi, tfind, if_neg (Ne.symm hi)]
    · rw [tdel, List.filter_cons_of_pos (by simpa using hj), tfind, tfind, ih]
      by_cases hi : j = i
      · subst hi; rw [if_pos rfl, if_neg hj, if_pos rfl]
      · rw [if_neg hi, if_neg hi]

theorem tsorted_filter {b : Option Nat} {t : Tab α} (p : Nat × α → Bool) (h : tsorted b t = true) : tsorted b (t.filter p) = true := by
  induction t generalizing b with
  | nil => simpa using h
  | cons e t ih =>
    obtain ⟨j, a⟩ := e
    have ht := ih (tsorted_cons h)
    by_cases hp : p (j, a) = true
    · rw [List.filter_cons_of_pos hp]
      cases b
      · exact ht
      · simp only [tsorted, Bool.and_eq_true] at h ⊢; exact ⟨h.1, ht⟩
    · rw [List.filter_cons_of_neg hp]
      cases b
      · exact tsorted_none ht
      · simp only [tsorted, Bool.and_eq_true, decide_eq_true_eq] at h; exact tsorted_mono (Nat.le_of_lt h.1) ht

variable [DecidableEq α]

theorem tsorted_tput (d : Nat → α) (k : Nat) (v : α) {b : Option Nat} {t : Tab α} (h : tsorted b t = true)
    (hk : ∀ c, b = some c → c < k) : tsorted b (tput d t k v) = true := by
  induction t generalizing b with
  | nil =>
    simp only [tput]
    split
    · cases b <;> rfl
    · cases b
      · rfl
      · simpa [tsorted] using hk _ rfl
  | cons e t ih =>
    obtain ⟨j, a⟩ := e
    have ht := tsorted_cons h
    simp only [tput]
    split
    · rename_i hlt
      split
      · have h2 := tsorted_filter (fun e => decide (e.1 ≠ k)) ht
        cases b
        · exact h2
        · simp only [tsorted, Bool.and_eq_true] at h ⊢
          exact ⟨h.1, h2⟩
      · cases b <;> simp [tsorted, hlt, ht]
        exact hk _ rfl
    · split
      · rename_i hnlt heq
        subst heq
        have h2 := tsorted_filter (fun e => decide (e.1 ≠ k)) ht
        split
        · cases b
          · exact tsorted_none h2
          · exact tsorted_mono (Nat.le_of_lt (hk _ rfl)) h2
        · cases b <;> simp [tsorted, ht]
          exact hk _ rfl
      · have h2 := ih ht (fun c hc => by cases hc; omega)
        cases b
        · simpa [tsorted] using h2
        · simp only [tsorted, Bool.and_eq_true] at h ⊢
          exact ⟨h.1, h2⟩

theorem all_tput (d : Nat → α) (k : Nat) (v : α) {t : Tab α} (h : t.all (fun e => decide (e.2 ≠ d e.1)) = true) :
    (tput d t k v).all (fun e => decide (e.2 ≠ d e.1)) = true := by
  induction t with
  | nil => simp only [tput]; split <;> simp_all
  | cons e t ih =>
    obtain ⟨j, a⟩ := e
    have h2 : t.all (fun e => decide (e.2 ≠ d e.1)) = true := by simp only [List.all_cons, Bool.and_eq_true] at h; exact h.2
    have h1 : decide (a ≠ d j) = true := by simp only [List.all_cons, Bool.and_eq_true] at h; exact h.1
    have h3 : (tdel t k).all (fun e => decide (e.2 ≠ d e.1)) = true :=
      List.all_eq_true.2 fun x hx => List.all_eq_true.1 h2 x (List.mem_filter.1 hx).1
    simp only [tput]
    split
    · split
      · simp only [List.all_cons, h1, Bool.true_and]; exact h3
      · rename_i hv; simp only [List.all_cons, h1, h2, Bool.and_true, decide_eq_true_eq, ne_eq]; exact hv
    · split
      · rename_i heq
        split
        · exact h3
        · rename_i hv
          simp only [List.all_cons, h2, Bool.and_true, decide_eq_true_eq, ne_eq]; exact hv
      · simp only [List.all_cons, h1, Bool.true_and]; exact ih h2

/-- A write keeps the canonical form. -/
theorem twf_tput (d : Nat → α) {t : Tab α} (h : twf d t = true) (k : Nat) (v : α) : twf d (tput d t k v) = true := by
  simp only [twf, Bool.and_eq_true] at h ⊢
  exact ⟨tsorted_tput d k v h.1 (fun c hc => by cases hc), all_tput d k v h.2⟩

/-- A read after a write: the value written, or what was there before. -/
theorem tget_tput (d : Nat → α) (t : Tab α) (k : Nat) (v : α) (i : Nat) :
    tget d (tput d t k v) i = if i = k then v else tget d t i := by
  induction t with
  | nil =>
    simp only [tput]
    split
    · rename_i hv; simp only [tget]; split
      · rename_i hi; subst hi; exact hv.symm
      · rfl
    · simp only [tget]; by_cases hi : i = k
      · simp [hi]
      · simp [hi, Ne.symm hi]
  | cons e t ih =>
    obtain ⟨j, a⟩ := e
    simp only [tput]
    split
    · rename_i hlt
      split
      · rename_i hv
        rw [tget, tget_tdel]
        by_cases hi : i = k
        · subst hi
          rw [if_neg (by omega), if_pos rfl, if_pos rfl, hv]
        · rw [if_neg hi, if_neg hi, tget]
      · simp only [tget]; by_cases hi : i = k
        · simp [hi]
        · simp [hi, Ne.symm hi]
    · split
      · rename_i hnlt heq
        subst heq
        split
        · rename_i hv
          rw [tget_tdel]
          by_cases hi : i = k
          · subst hi; rw [if_pos rfl, if_pos rfl, hv]
          · rw [if_neg hi, if_neg hi, tget, if_neg (Ne.symm hi)]
        · simp only [tget]; by_cases hi : i = k
          · simp [hi]
          · simp [hi, Ne.symm hi]
      · rename_i hnlt hne
        simp only [tget]
        by_cases hj : j = i
        · subst hj; rw [if_pos rfl, if_neg (Ne.symm hne), if_pos rfl]
        · rw [if_neg hj, if_neg hj]; exact ih

/-- Dropping entries keeps the canonical form. -/
theorem twf_filter (d : Nat → α) {t : Tab α} (p : Nat × α → Bool) (h : twf d t = true) : twf d (t.filter p) = true := by
  simp only [twf, Bool.and_eq_true] at h ⊢
  refine ⟨tsorted_filter p h.1, List.all_eq_true.2 fun x hx => ?_⟩
  exact List.all_eq_true.1 h.2 x (List.mem_filter.1 hx).1

/-- A span of keys that is dropped reads as unlisted, and every other key as before. -/
theorem twf_tclear (d : Nat → α) {t : Tab α} (h : twf d t = true) (a b : Nat) : twf d (tclear t a b) = true := twf_filter d _ h

/-! ## Byte memories -/

theorem wf_writeBytes {m : Tab Byte} (h : Memory.wf m = true) (a : Nat) (bs : List Byte) : Memory.wf (writeBytes m a bs) = true := by
  induction bs generalizing m a with
  | nil => exact h
  | cons b bs ih => exact ih (twf_tput zeroByte h a b) (a + 1)

theorem wf_zeroBytes {m : Tab Byte} (h : Memory.wf m = true) (a n : Nat) : Memory.wf (zeroBytes m a n) = true := wf_writeBytes h a _

/-- What a byte reads as after a write of bytes: the byte written there, or what it read as before. -/
theorem tget_writeBytes (m : Tab Byte) (a : Nat) (bs : List Byte) (i : Nat) :
    tget zeroByte (writeBytes m a bs) i = if a ≤ i ∧ i < a + bs.length then bs.getD (i - a) 0 else tget zeroByte m i := by
  induction bs generalizing m a with
  | nil => simp only [writeBytes, List.length_nil]; rw [if_neg (by omega)]
  | cons b bs ih =>
    rw [writeBytes, ih, tget_tput, List.length_cons]
    by_cases hi : i = a
    · subst hi
      rw [if_neg (by omega), if_pos rfl, if_pos (by omega)]
      simp
    · by_cases h2 : a + 1 ≤ i ∧ i < a + 1 + bs.length
      · rw [if_pos h2, if_pos (by omega), show i - a = (i - (a + 1)) + 1 by omega, List.getD_cons_succ]
      · rw [if_neg h2, if_neg hi, if_neg (by omega)]

theorem readBytes_length (m : Tab Byte) (a n : Nat) : (readBytes m a n).length = n := by
  induction n generalizing a with
  | zero => rfl
  | succ n ih => simp [readBytes, ih]

theorem readBytes_getD (m : Tab Byte) (a n i : Nat) (h : i < n) : (readBytes m a n).getD i 0 = tget zeroByte m (a + i) := by
  induction n generalizing a i with
  | zero => omega
  | succ n ih =>
    cases i with
    | zero => simp [readBytes]
    | succ i =>
      rw [readBytes, List.getD_cons_succ, ih (a + 1) i (by omega)]
      congr 1; omega

end Sys2Proof.Machine
end

