-- ==== Sys2Proof/Laws/Event.lean ====
section
/-! SUPPORT. Events of status registers (17 R646, 15 R560): which registers an event can change. -/
namespace Sys2Proof.Machine

namespace Ctl

theorem reg_setReg (c : Ctl) (a i : Nat) (v : Word) : (c.setReg a v).reg i = if i = a then v else c.reg i := tget_tput _ _ _ _ _

theorem reg_vec2 (c : Ctl) (a b i : Nat) : (c.vec2 a b).reg i = c.reg i := by
  unfold vec2
  split
  · unfold want; split <;> rfl
  · rfl

theorem reg_rawEvent (c : Ctl) (a b i : Nat) : (c.rawEvent a b).reg i = if i = a then evSet (c.reg a) b else c.reg i := by
  rw [rawEvent, reg_vec2, reg_setReg]

theorem reg_count (c : Ctl) (a n i : Nat) : (c.count a n).reg i = if i = a then c.reg a + BitVec.ofNat 32 n else c.reg i := by
  rw [count, reg_setReg]

theorem reg_putWords (c : Ctl) (i a : Nat) (ws : List Word) : (c.putWords i ws).reg a = c.reg a := by
  induction ws generalizing c i with
  | nil => rfl
  | cons w ws ih => rw [putWords, ih]; rfl

/-- A log entry changes FAULT.LOG_HEAD, FAULT.LOG_OVF and FAULT.STATUS alone. -/
theorem reg_logEntry (c : Ctl) (ws : Word → List Word) {i : Nat}
    (h : i ∉ [Reg.FAULT_LOG_HEAD, Reg.FAULT_LOG_OVF, Reg.FAULT_STATUS]) : (c.logEntry ws).reg i = c.reg i := by
  simp only [List.mem_cons, List.not_mem_nil, or_false, not_or] at h
  unfold logEntry
  dsimp only
  rw [reg_count, if_neg h.1, reg_putWords]
  split
  · show ((c.count _ _).rawEvent _ _).reg i = _
    rw [reg_rawEvent, if_neg h.2.2, reg_count, if_neg h.2.1]
  · rfl

/-- An event changes its status register, and with its log entry those of the log. -/
theorem reg_event (ns : Word) (c : Ctl) (a b : Nat) {i : Nat} (ha : i ≠ a)
    (h : i ∉ [Reg.FAULT_LOG_HEAD, Reg.FAULT_LOG_OVF, Reg.FAULT_STATUS]) : (Ctl.event ns c a b).reg i = c.reg i := by
  have h0 : (c.rawEvent a b).reg i = c.reg i := by rw [reg_rawEvent, if_neg ha]
  unfold event
  dsimp only
  split
  · exact h0
  · rename_i r _
    generalize (if bitOf r.fen b = true then 2 else if bitOf r.recov b = true then 1 else 0) = cls
    by_cases h1 : cls = 2 ∨ (c.rawEvent a b).enabledAt a b = true
    · rw [if_pos h1]
      by_cases h2 : cls = 0
      · rw [if_pos h2]; exact h0
      · rw [if_neg h2]
        show (Ctl.logEntry _ _).reg i = _
        rw [reg_logEntry _ _ h]; exact h0
    · rw [if_neg h1]; exact h0

end Ctl

namespace State

theorem reg_event (s : State) (a b : Nat) {i : Nat} (ha : i ≠ a) (h : i ∉ [Reg.FAULT_LOG_HEAD, Reg.FAULT_LOG_OVF, Reg.FAULT_STATUS]) :
    (s.event a b).reg i = s.reg i := Ctl.reg_event _ _ _ _ ha h

theorem reg_setReg (s : State) (a i : Nat) (v : Word) : (s.setReg a v).reg i = if i = a then v else s.reg i := Ctl.reg_setReg ..

theorem reg_count (s : State) (a n i : Nat) : (s.count a n).reg i = if i = a then s.reg a + BitVec.ofNat 32 n else s.reg i :=
  Ctl.reg_count ..

/-- The collectors and DET.STRICT. -/
def watched : List Nat := fencingBits.map (·.1) ++ [Reg.DET_STRICT]

theorem watched_not_log {i : Nat} (h : i ∈ watched) : i ∉ [Reg.FAULT_LOG_HEAD, Reg.FAULT_LOG_OVF, Reg.FAULT_STATUS] := by
  revert i; decide

theorem ne_watched {a i : Nat} (ha : a ∉ watched) (hi : i ∈ watched) : i ≠ a := by
  rintro rfl; exact ha hi

/-- An event of another register leaves nothing undone. -/
theorem event_settled (s : State) {a b : Nat} (ha : a ∉ watched) : (s.event a b).settled = s.settled :=
  settled_congr rfl rfl (fun _ hi => reg_event s a b (ne_watched ha hi) (watched_not_log hi)) rfl rfl rfl

theorem setReg_settled (s : State) {a : Nat} {v : Word} (ha : a ∉ watched) : (s.setReg a v).settled = s.settled :=
  settled_congr rfl rfl (fun _ hi => by rw [reg_setReg, if_neg (ne_watched ha hi)]) rfl rfl rfl

theorem count_settled (s : State) {a n : Nat} (ha : a ∉ watched) : (s.count a n).settled = s.settled :=
  settled_congr rfl rfl (fun _ hi => by rw [reg_count, if_neg (ne_watched ha hi)]) rfl rfl rfl

end State
end Sys2Proof.Machine
end

