-- ==== Sys2Proof/Laws/Capture.lean ====
section
/-! SUPPORT. What a write into plain memory and a captured record leave (09 R331 to R335). -/
namespace Sys2Proof.Machine
namespace State

/-- A write that lies whole in memory without poison changes that memory alone. -/
theorem writeG_plain {s : State} {req basin n addr a : Nat} {bs : List Byte} (hp : s.poison = []) (ha : (s.place addr).1 = .mem a)
    (hl : bs.length ≤ (s.place addr).2) (hn : 0 < n) :
    writeG req basin n s addr bs = ({ s with mem := writeBytes s.mem a bs }, true) := by
  obtain ⟨k, rfl⟩ : ∃ k, n = k + 1 := ⟨n - 1, by omega⟩
  rw [writeG]
  by_cases hb : bs = []
  · subst hb; rfl
  · have hw : s.writeMem a bs = { s with mem := writeBytes s.mem a bs } := by simp [State.writeMem, State.poisoned, hp, State.uncorrRead]
    have he : bs.isEmpty = false := by simp [hb]
    simp only [he, Bool.false_eq_true, if_false, ha, Nat.min_eq_left hl, List.take_length, List.drop_length, hw]
    cases k <;> rfl

/-- Charging changes the schedule's counts alone. -/
theorem charge_fold (s : State) (f : State → Nat → Nat) (k a : Nat) (ps : List Nat) :
    ∃ x, ps.foldl (fun (s : State) p => s.charge k p a (f s p)) s = { s with sched := x } := by
  induction ps generalizing s with
  | nil => exact ⟨s.sched, rfl⟩
  | cons p ps ih =>
    obtain ⟨x, hx⟩ := ih (s.charge k p a (f s p))
    exact ⟨x, by rw [List.foldl_cons, hx]; rfl⟩

theorem chargeDram_eq {s t : State} {a n k : Nat} (h : s.chargeDram a n k = some t) : ∃ x, t = { s with sched := x } := by
  unfold chargeDram at h
  split at h
  · obtain ⟨x, hx⟩ := charge_fold s (fun s p => s.pairCycles p a n) 2 k s.dramPairs
    exact ⟨x, by rw [← hx]; exact (Option.some.inj h).symm⟩
  · cases h

/-- What a record that fits without eviction leaves, for some memory and some counts of the schedule. -/
def recorded (s : State) (kind g : Nat) (m : Tab Byte) (x : Sched) : State :=
  let tag := (s.reg Reg.BKW_NEXT_TAG).toNat
  let c : CacheRec := ⟨s.bkw.wp, g, tag, (s.reg Reg.BKW_EPOCH).toNat, kind,
    heldOut (bits (s.ctl.inForce Reg.BKW_CAPCFG).toNat 15 8) tag, s.bkw.config⟩
  (((({ s with mem := m, sched := x } : State).onBkw fun b => { b with
    recs := b.recs ++ [c], wp := (s.bkw.wp + g) % bits (s.reg Reg.BKW_CACHE_SIZE).toNat 21 0 }).count
    Reg.BKW_NEXT_TAG 1).count Reg.BKW_CAP_CNT 1)

theorem recorded_settled (s : State) (kind g : Nat) (m : Tab Byte) (x : Sched) : (recorded s kind g m x).settled = s.settled := by
  rw [recorded, State.count_settled _ (by decide +kernel), State.count_settled _ (by decide +kernel)]
  exact State.settled_of_regs rfl rfl rfl rfl rfl rfl

/-- A record that fits without eviction, inside the Backwater budget. -/
theorem putRecord_fits {s t : State} {kind g a : Nat} {head : Nat → Bool → List Byte} {body : List (Nat × List Byte)}
    (hp : s.poison = []) (hg : 0 < g) (hf : s.bkw.wp + g ≤ bits (s.reg Reg.BKW_CACHE_SIZE).toNat 21 0)
    (hr : (s.bkw.recs.filter fun c => decide (c.granule < s.bkw.wp + g ∧ s.bkw.wp < c.granule + c.len)) = [])
    (hc : s.chargeDram (s.granuleAddr s.bkw.wp) (g * 8192) 1 = some t)
    (ha : (s.place (State.selfAddr (s.granuleAddr s.bkw.wp))).1 = .mem a)
    (hl : g * 8192 ≤ (s.place (State.selfAddr (s.granuleAddr s.bkw.wp))).2) :
    ∃ m x, s.putRecord kind g head body = (recorded s kind g m x, true) := by
  obtain ⟨x, rfl⟩ := chargeDram_eq hc
  unfold putRecord
  have hsz : ¬bits (s.reg Reg.BKW_CACHE_SIZE).toNat 21 0 < g := by omega
  simp only [if_pos hf, hr, List.map_nil, List.eraseDups_nil, List.any_nil, Bool.false_eq_true, if_false, if_neg hsz, State.evict,
    List.foldl_nil, hc]
  have hlen : ∀ (h r : List Byte), r.length = g * 8192 - 256 →
      (padTo 256 h ++ r).length ≤ (({ s with sched := x } : State).place (State.selfAddr (s.granuleAddr s.bkw.wp))).2 := by
    intro h r hr
    refine Nat.le_trans ?_ hl
    simp only [padTo, List.length_append, List.length_take, List.length_replicate, hr]
    omega
  rw [writeG_plain (s := { s with sched := x }) hp ha (hlen _ _ (readBytes_length _ _ _)) (by omega)]
  exact ⟨_, x, rfl⟩

/-- The settled state that a record leaves. -/
theorem recorded_handled {s : State} (h : s.settled = true) (kind g : Nat) (m : Tab Byte) (x : Sched) :
    (recorded s kind g m x).handled = true := by
  have := (recorded_settled s kind g m x).trans h
  rw [State.settled, Bool.and_eq_true] at this
  exact this.1

/-- An address of this device below DRAM_TOP lands in its DRAM (07 R239). -/
theorem place_dram (s : State) {a : Nat} (ha : a < 0x001000000000) (ht : a < s.dramTop) :
    s.place (selfAddr a) = (.mem a, s.dramTop - a) := by
  have hd : selfAddr a / 2 ^ 46 = 0x3FFFF := by unfold selfAddr; omega
  have hm : selfAddr a % 2 ^ 46 = a := by unfold selfAddr; omega
  have hs : s.isSelf 0x3FFFF = true := by simp [isSelf]
  unfold place
  simp only [hd, hm, hs, if_true, localPlace, if_pos ha, if_pos ht]

/-- Where an address lands does not depend on memory, on the schedule or on Backwater. -/
theorem place_mem (s : State) (m : Tab Byte) (b : Bkw) (x : Sched) (a : Nat) :
    ({ s with mem := m, bkw := b, sched := x } : State).place a = s.place a := rfl

end State
end Sys2Proof.Machine
end

