-- ==== Sys2Proof/Laws/Memory.lean ====
section
/-! SUPPORT. The operations over device and host memory: which bytes they change, and that they keep the canonical form. -/
namespace Sys2Proof.Machine
namespace State

/-- Both memories of two states are the same. -/
def SameMem (s t : State) : Prop := t.mem = s.mem ∧ t.host = s.host

theorem SameMem.trans {a b c : State} (h : SameMem a b) (k : SameMem b c) : SameMem a c := ⟨k.1.trans h.1, k.2.trans h.2⟩

theorem SameMem.memWf {s t : State} (h : SameMem s t) : t.memWf = s.memWf := by unfold State.memWf; rw [h.1, h.2]

theorem latchIf_same (s : State) (c : Bool) (a : Nat) (v : Word) : SameMem s (s.latchIf c a v) := by
  unfold latchIf; split <;> exact ⟨rfl, rfl⟩

theorem event_same (s : State) (a b : Nat) : SameMem s (s.event a b) := ⟨rfl, rfl⟩

theorem count_same (s : State) (a n : Nat) : SameMem s (s.count a n) := ⟨rfl, rfl⟩

theorem hole_same (s : State) (h : HoleAt) : SameMem s (s.hole h) := by
  cases h with
  | pool c off => exact (latchIf_same ..).trans (event_same ..)
  | dram a => exact ((latchIf_same ..).trans (latchIf_same ..)).trans (event_same ..)
  | trib => exact (event_same ..).trans (count_same ..)
  | fault a => exact ((latchIf_same ..).trans (latchIf_same ..)).trans (event_same ..)
  | none => exact ⟨rfl, rfl⟩

theorem uncorrRead_same (s : State) (a : Nat) (ks : List Nat) : SameMem s (s.uncorrRead a ks) := by
  unfold uncorrRead
  dsimp only
  by_cases h : ks.isEmpty = true
  · rw [if_pos h]; exact ⟨rfl, rfl⟩
  · rw [if_neg h]
    by_cases k : a < 0x001000000000
    · rw [if_pos k]
      exact (((latchIf_same ..).trans (latchIf_same ..)).trans (count_same ..)).trans (event_same ..)
    · rw [if_neg k]
      exact ((latchIf_same ..).trans (count_same ..)).trans (event_same ..)

/-- A read changes no byte. -/
theorem readMem_same (s : State) (a n : Nat) : SameMem s (s.readMem a n).1 := uncorrRead_same s a _

/-- A write changes the bytes that it writes. -/
theorem writeMem_mem (s : State) (a : Nat) (bs : List Byte) : (s.writeMem a bs).mem = writeBytes s.mem a bs := by
  show writeBytes (s.uncorrRead a _).mem a bs = _
  rw [(uncorrRead_same s a _).1]

theorem writeMem_host (s : State) (a : Nat) (bs : List Byte) : (s.writeMem a bs).host = s.host := (uncorrRead_same s a _).2

/-- What a byte reads as after a write: the byte written there, or what it read as before. -/
theorem writeMem_get (s : State) (a : Nat) (bs : List Byte) (i : Nat) :
    tget zeroByte (s.writeMem a bs).mem i = if a ≤ i ∧ i < a + bs.length then bs.getD (i - a) 0 else tget zeroByte s.mem i := by
  rw [writeMem_mem, tget_writeBytes]

theorem writeMem_memWf {s : State} (h : s.memWf = true) (a : Nat) (bs : List Byte) : (s.writeMem a bs).memWf = true := by
  simp only [State.memWf, Bool.and_eq_true] at h ⊢
  rw [writeMem_mem, writeMem_host]
  exact ⟨wf_writeBytes h.1 a bs, h.2⟩

theorem hostWrite_memWf {s : State} (h : s.memWf = true) (a : Nat) (bs : List Byte) :
    ({ s with host := writeBytes s.host a bs } : State).memWf = true := by
  simp only [State.memWf, Bool.and_eq_true] at h ⊢
  exact ⟨h.1, wf_writeBytes h.2 a bs⟩

theorem clear_memWf {s : State} (h : s.memWf = true) (a b : Nat) : ({ s with mem := tclear s.mem a b } : State).memWf = true := by
  simp only [State.memWf, Bool.and_eq_true] at h ⊢
  exact ⟨twf_tclear _ h.1 a b, h.2⟩

theorem atuFault_same (s : State) (c l i a r e b : Nat) : SameMem s (s.atuFault c l i a r e b) := by
  unfold atuFault
  split <;> exact ⟨rfl, rfl⟩

/-- A translation changes no byte. -/
theorem translate_same (s : State) (off : Nat) (w : Bool) (req basin : Nat) : SameMem s (s.translate off w req basin).1 := by
  unfold translate
  dsimp only
  split
  · exact atuFault_same ..
  · split
    · split
      · exact atuFault_same ..
      · split
        · exact SameMem.trans ⟨rfl, rfl⟩ (atuFault_same ..)
        · exact ⟨rfl, rfl⟩
    · split
      · exact atuFault_same (s.count Reg.HOST_WALK_CNT 1) ..
      · split
        · exact ⟨rfl, rfl⟩
        · exact atuFault_same (s.count Reg.HOST_WALK_CNT 1) ..

theorem translate_fst {s t : State} {off req basin : Nat} {w : Bool} {x : Option Nat}
    (h : s.translate off w req basin = (t, x)) : SameMem s t := by
  have := translate_same s off w req basin
  rwa [h] at this

/-- A read at a global address changes no byte of this device or of the host. -/
theorem readG_same (req basin fuel : Nat) (s : State) (addr n : Nat) : SameMem s (readG req basin fuel s addr n).1 := by
  induction fuel generalizing s addr n with
  | zero => exact ⟨rfl, rfl⟩
  | succ k ih =>
    rw [readG]
    split
    · exact ⟨rfl, rfl⟩
    · dsimp only
      split
      · split
        · exact (readMem_same ..).trans (ih ..)
        · exact readMem_same ..
      · exact SameMem.trans ⟨rfl, rfl⟩ (ih (s.setCore _ _) _ _)
      · exact ⟨rfl, rfl⟩
      · split
        · next h =>
          exact (translate_fst h).trans (ih ..)
        · next h =>
          exact translate_fst h
      · split
        · exact SameMem.trans ⟨rfl, rfl⟩ (ih s.free.2 _ _)
        · exact ⟨rfl, rfl⟩
      · exact hole_same ..

theorem emits_same (os : List Out) (s : State) : SameMem s (os.foldl (fun (s : State) o => s.emit o) s) := by
  induction os generalizing s with
  | nil => exact ⟨rfl, rfl⟩
  | cons o os ih => exact SameMem.trans (b := s.emit o) ⟨rfl, rfl⟩ (ih _)

theorem portSend_same (k : Nat) (os : List Out) (s : State) : SameMem s (s.portSend k os) := by
  unfold portSend
  split
  · exact ⟨rfl, rfl⟩
  · exact (emits_same os s).trans ⟨rfl, rfl⟩

theorem sendSeq_same (d k : Nat) (mk : Nat → Nat → Frame) (s : State) : SameMem s (s.sendSeq d k mk) := by
  unfold sendSeq sendFrame
  dsimp only
  by_cases h : (s.port k).replay + frameSize (if (s.destSt d).unreach then mk 0 4 else mk (s.destSt d).next 0) ≤ 2 * 1024 * 1024
  · rw [if_pos h]
    refine SameMem.trans ?_ (portSend_same ..)
    exact ⟨rfl, rfl⟩
  · rw [if_neg h]
    exact ⟨rfl, rfl⟩

theorem sendPieces_same (d k typ flags basin xfer : Nat) (ps : List (Nat × List Byte)) (s : State) :
    SameMem s (s.sendPieces d k typ flags basin xfer ps) := by
  induction ps generalizing s with
  | nil => exact ⟨rfl, rfl⟩
  | cons x ps ih => exact (sendSeq_same ..).trans (ih _)

theorem issueWrite_same (x d a : Nat) (bs : List Byte) (basin who : Nat) (wh : Bool) (s : State) :
    SameMem s (s.issueWrite x d a bs basin who wh) := by
  unfold issueWrite
  split
  · exact hole_same ..
  · exact SameMem.trans ⟨rfl, rfl⟩ (sendPieces_same ..)

/-- A write at a global address keeps the canonical form of both memories. -/
theorem writeG_memWf (req basin fuel : Nat) {s : State} (h : s.memWf = true) (addr : Nat) (bs : List Byte) :
    (writeG req basin fuel s addr bs).1.memWf = true := by
  induction fuel generalizing s addr bs with
  | zero => exact h
  | succ k ih =>
    rw [writeG]
    split
    · exact h
    · dsimp only
      split
      · exact ih (writeMem_memWf h ..) ..
      · exact ih (s := s.writeLm ..) h ..
      · exact h
      · split
        · next e =>
          refine ih ?_ _ _
          exact hostWrite_memWf ((translate_fst e).memWf.trans h) ..
        · next e => exact (translate_fst e).memWf.trans h
      · split
        · exact ih ((issueWrite_same _ _ _ _ _ _ _ s.free.2.newXfer.2).memWf.trans h) ..
        · exact (issueWrite_same _ _ _ _ _ _ _ s.free.2.newXfer.2).memWf.trans h
      · exact (hole_same ..).memWf.trans h

end State
end Sys2Proof.Machine
end

