-- ==== Sys2Proof/Laws/Serve.lean ====
section
/-! SUPPORT. The mailbox server (13 R497 to R503): what the service of a command does around the command's own body. -/
namespace Sys2Proof.Machine
namespace State

theorem clearOuts_settled (s : State) : s.clearOuts.settled = s.settled := settled_of_regs rfl rfl rfl rfl rfl rfl

theorem want_settled (f v : Nat) (s : State) : (s.want f v).settled = s.settled := by
  refine settled_of_regs rfl rfl ?_ rfl rfl rfl
  simp only [want, Ctl.want]
  split <;> rfl

/-- An answer changes the mailbox, the messages that wait and the server's queue; what is left undone stays so. -/
theorem reply_settled (m code : Nat) (rs : List Byte) (s : State) : (s.reply m code rs).settled = s.settled := by
  have h : ∀ (u : State), ({ u with wq := u.wq.filter (· ≠ m) } : State).settled = u.settled :=
    fun u => settled_of_regs rfl rfl rfl rfl rfl rfl
  rw [reply, h, answer]
  split
  · rw [want_settled]; exact settled_of_regs rfl rfl rfl rfl rfl rfl
  · rw [want_settled]; exact settled_of_regs rfl rfl rfl rfl rfl rfl

theorem reply_logOrdered (m code : Nat) (rs : List Byte) (s : State) : (s.reply m code rs).logOrdered = s.logOrdered := by
  have h : ∀ (f v : Nat) (u : State), (u.want f v).logOrdered = u.logOrdered := by
    intro f v u
    simp only [logOrdered, want, Ctl.want]
    split <;> rfl
  have h' : ∀ (u : State), ({ u with wq := u.wq.filter (· ≠ m) } : State).logOrdered = u.logOrdered := fun _ => rfl
  rw [reply, h', answer]
  split <;> (rw [h]; rfl)

theorem refusal_known {s : State} {m : Nat} (h : (cmdInfo (s.par m 0 1)).isSome = true) : s.refusal m ≠ some rcBadOpcode := by
  unfold refusal
  simp only [par] at h
  obtain ⟨x, hx⟩ := Option.isSome_iff_exists.1 h
  simp only [hx]
  obtain ⟨b, p, q⟩ := x
  dsimp only
  split <;> (try split) <;> (try split) <;> (try split) <;> (try split) <;> simp [rcBadOpcode, rcBasinReset, rcState, rcNotAdmin, rcBadParam]

/-- With a known opcode at its front the server answers nothing ahead of its turn. -/
theorem drainBad_known {s : State} {n : Nat} (h : ∀ k ∈ s.wq, (cmdInfo (s.par k 0 1)).isSome = true) : s.drainBad n = s := by
  cases n with
  | zero => rfl
  | succ n =>
    unfold drainBad
    cases hw : s.wq with
    | nil => rfl
    | cons k ks =>
      dsimp only
      rw [if_neg (refusal_known (h k (by rw [hw]; exact List.mem_cons_self ..)))]

theorem reply_par (m code : Nat) (rs : List Byte) (s : State) {k : Nat} (hk : k ≠ m) : (s.reply m code rs).par k 0 1 = s.par k 0 1 := by
  have : (s.reply m code rs).mbx = tset s.mbx m { s.mailbox m with
      resp := padTo 64 ((s.mailbox m).latched.take 1 ++ [BitVec.ofNat 8 code] ++ ((s.mailbox m).latched.drop 2).take 2 ++ rs)
      done := (s.mailbox m).accepted, st := 2 } := by
    simp only [reply, answer]
    split <;> rfl
  simp only [par, mailbox, this]
  rw [tget_tset_ne _ _ _ hk]

theorem reply_wq (m code : Nat) (rs : List Byte) (s : State) : (s.reply m code rs).wq = s.wq.filter (· ≠ m) := by
  simp only [reply, answer]
  split <;> rfl

theorem reply_pending (m code : Nat) (rs : List Byte) (s : State) : (s.reply m code rs).pending = s.pending := by
  simp only [reply, answer]
  split <;> rfl

theorem serves_iff {s : State} {m op : Nat} : s.serves m op = true ↔
    s.mode = .running ∧ (s.settled = true ∧ s.logOrdered = true) ∧ s.wq.head? = some m ∧ (s.mailbox m).st = 1 ∧ s.par m 0 1 = op ∧ s.refusal m = none
      ∧ ∀ k ∈ s.wq, (cmdInfo (s.par k 0 1)).isSome = true := by
  simp only [serves, ready, Bool.and_eq_true, beq_iff_eq, Option.isNone_iff_eq_none, List.all_eq_true]
  constructor
  · rintro ⟨⟨⟨⟨⟨⟨⟨a, b⟩, k⟩, c⟩, d⟩, e⟩, f⟩, g⟩; exact ⟨a, ⟨b, k⟩, c, d, e, f, g⟩
  · rintro ⟨a, ⟨b, k⟩, c, d, e, f, g⟩; exact ⟨⟨⟨⟨⟨⟨⟨a, b⟩, k⟩, c⟩, d⟩, e⟩, f⟩, g⟩

/-- The service of a command whose body leaves the mailboxes and the server's queue alone: the body's state with the body's
answer. -/
theorem serve_run {s u : State} {m op code : Nat} {f : State → State × Option (Nat × List Byte)} {rs : List Byte}
    (h : s.serves m op = true) (hf : f s.clearOuts = (u, some (code, rs))) (hm : u.mbx = s.mbx) (hw : u.wq = s.wq)
    (hs : u.settled = true) (hl : u.logOrdered = true) (hp : u.pending = s.pending) :
    s.run (serve m op f) = .next (u.reply m code rs) := by
  obtain ⟨h1, h2, h3, h4, h5, h6, h7⟩ := serves_iff.1 h
  have hr : serve m op f s.clearOuts = u.reply m code rs := by
    have e1 : s.clearOuts.wq.head? = some m ∧ (s.clearOuts.mailbox m).st = 1 ∧ s.clearOuts.par m 0 1 = op := ⟨h3, h4, h5⟩
    have e2 : s.clearOuts.refusal m = none := h6
    rw [serve, if_pos e1]
    simp only [e2, hf]
    refine drainBad_known fun k hk => ?_
    rw [reply_wq] at hk
    have hk := List.mem_filter.1 hk
    rw [reply_par _ _ _ _ (by simpa using hk.2)]
    simp only [par, mailbox, hm]
    exact h7 k (by rw [hw] at hk; exact hk.1)
  have ha : s.clearOuts.awake = true := by simp [awake, clearOuts, h1]
  rw [run_ready ha (by rw [hr, reply_settled]; exact hs) (by rw [hr, reply_logOrdered]; exact hl), hr]
  congr 1
  show { u.reply m code rs with pending := s.pending } = _
  rw [← hp, ← reply_pending m code rs u]

/-- The service of a command whose answer waits for a later event. -/
theorem serve_waits {s u : State} {m op : Nat} {f : State → State × Option (Nat × List Byte)}
    (h : s.serves m op = true) (hf : f s.clearOuts = (u, none)) (hm : u.mbx = s.mbx) (hw : u.wq = s.wq)
    (hs : u.settled = true) (hl : u.logOrdered = true) (hp : u.pending = s.pending) : s.run (serve m op f) = .next u := by
  obtain ⟨h1, h2, h3, h4, h5, h6, h7⟩ := serves_iff.1 h
  have hr : serve m op f s.clearOuts = u := by
    have e1 : s.clearOuts.wq.head? = some m ∧ (s.clearOuts.mailbox m).st = 1 ∧ s.clearOuts.par m 0 1 = op := ⟨h3, h4, h5⟩
    have e2 : s.clearOuts.refusal m = none := h6
    rw [serve, if_pos e1]
    simp only [e2, hf]
    refine drainBad_known fun k hk => ?_
    simp only [par, mailbox, hm]
    exact h7 k (hw ▸ hk)
  have ha : s.clearOuts.awake = true := by simp [awake, clearOuts, h1]
  rw [run_ready ha (by rw [hr]; exact hs) (by rw [hr]; exact hl), hr]
  congr 1
  show { u with pending := s.pending } = _
  rw [← hp]

end State
end Sys2Proof.Machine
end

