-- ==== Sys2Proof/Laws/State.lean ====
section
/-! SUPPORT. What each named update of the state changes, and that it changes nothing else: one lemma for each field, and
for each table that is read through an operation of its own. -/
namespace Sys2Proof.Machine
namespace State

variable (s : State)

/-! `setReg` -/

@[simp] theorem setReg_pending (a : Nat) (v : Word) : (s.setReg a v).pending = s.pending := rfl
@[simp] theorem setReg_freeCtr (a : Nat) (v : Word) : (s.setReg a v).freeCtr = s.freeCtr := rfl
@[simp] theorem setReg_outs (a : Nat) (v : Word) : (s.setReg a v).outs = s.outs := rfl
@[simp] theorem setReg_mode (a : Nat) (v : Word) : (s.setReg a v).mode = s.mode := rfl
@[simp] theorem setReg_fuses (a : Nat) (v : Word) : (s.setReg a v).fuses = s.fuses := rfl
@[simp] theorem setReg_boot (a : Nat) (v : Word) : (s.setReg a v).boot = s.boot := rfl
@[simp] theorem setReg_ctl (a : Nat) (v : Word) : (s.setReg a v).ctl = s.ctl.setReg a v := rfl
@[simp] theorem setReg_time (a : Nat) (v : Word) : (s.setReg a v).time = s.time := rfl
@[simp] theorem setReg_cores (a : Nat) (v : Word) : (s.setReg a v).cores = s.cores := rfl
@[simp] theorem setReg_l2p (a : Nat) (v : Word) : (s.setReg a v).l2p = s.l2p := rfl
@[simp] theorem setReg_fences (a : Nat) (v : Word) : (s.setReg a v).fences = s.fences := rfl
@[simp] theorem setReg_mem (a : Nat) (v : Word) : (s.setReg a v).mem = s.mem := rfl
@[simp] theorem setReg_poison (a : Nat) (v : Word) : (s.setReg a v).poison = s.poison := rfl
@[simp] theorem setReg_host (a : Nat) (v : Word) : (s.setReg a v).host = s.host := rfl
@[simp] theorem setReg_arbs (a : Nat) (v : Word) : (s.setReg a v).arbs = s.arbs := rfl
@[simp] theorem setReg_scrub (a : Nat) (v : Word) : (s.setReg a v).scrub = s.scrub := rfl
@[simp] theorem setReg_dramOn (a : Nat) (v : Word) : (s.setReg a v).dramOn = s.dramOn := rfl
@[simp] theorem setReg_dramPairs (a : Nat) (v : Word) : (s.setReg a v).dramPairs = s.dramPairs := rfl
@[simp] theorem setReg_refreshX2 (a : Nat) (v : Word) : (s.setReg a v).refreshX2 = s.refreshX2 := rfl
@[simp] theorem setReg_img (a : Nat) (v : Word) : (s.setReg a v).img = s.img := rfl
@[simp] theorem setReg_func (a : Nat) (v : Word) : (s.setReg a v).func = s.func := rfl
@[simp] theorem setReg_mbx (a : Nat) (v : Word) : (s.setReg a v).mbx = s.mbx := rfl
@[simp] theorem setReg_wq (a : Nat) (v : Word) : (s.setReg a v).wq = s.wq := rfl
@[simp] theorem setReg_async (a : Nat) (v : Word) : (s.setReg a v).async = s.async := rfl
@[simp] theorem setReg_basins (a : Nat) (v : Word) : (s.setReg a v).basins = s.basins := rfl
@[simp] theorem setReg_aeq (a : Nat) (v : Word) : (s.setReg a v).aeq = s.aeq := rfl
@[simp] theorem setReg_aeqShadow (a : Nat) (v : Word) : (s.setReg a v).aeqShadow = s.aeqShadow := rfl
@[simp] theorem setReg_aeqDue (a : Nat) (v : Word) : (s.setReg a v).aeqDue = s.aeqDue := rfl
@[simp] theorem setReg_aeqLost (a : Nat) (v : Word) : (s.setReg a v).aeqLost = s.aeqLost := rfl
@[simp] theorem setReg_atu (a : Nat) (v : Word) : (s.setReg a v).atu = s.atu := rfl
@[simp] theorem setReg_smb (a : Nat) (v : Word) : (s.setReg a v).smb = s.smb := rfl
@[simp] theorem setReg_sched (a : Nat) (v : Word) : (s.setReg a v).sched = s.sched := rfl
@[simp] theorem setReg_trib (a : Nat) (v : Word) : (s.setReg a v).trib = s.trib := rfl
@[simp] theorem setReg_ports (a : Nat) (v : Word) : (s.setReg a v).ports = s.ports := rfl
@[simp] theorem setReg_fh (a : Nat) (v : Word) : (s.setReg a v).fh = s.fh := rfl
@[simp] theorem setReg_flt (a : Nat) (v : Word) : (s.setReg a v).flt = s.flt := rfl
@[simp] theorem setReg_pwr (a : Nat) (v : Word) : (s.setReg a v).pwr = s.pwr := rfl
@[simp] theorem setReg_pins (a : Nat) (v : Word) : (s.setReg a v).pins = s.pins := rfl
@[simp] theorem setReg_rx (a : Nat) (v : Word) : (s.setReg a v).rx = s.rx := rfl
@[simp] theorem setReg_tx (a : Nat) (v : Word) : (s.setReg a v).tx = s.tx := rfl
@[simp] theorem setReg_weir (a : Nat) (v : Word) : (s.setReg a v).weir = s.weir := rfl
@[simp] theorem setReg_bkw (a : Nat) (v : Word) : (s.setReg a v).bkw = s.bkw := rfl
@[simp] theorem setReg_dfe (a : Nat) (v : Word) : (s.setReg a v).dfe = s.dfe := rfl
@[simp] theorem setReg_core_eq (a : Nat) (v : Word) (j : Nat) : (s.setReg a v).core j = s.core j := rfl
@[simp] theorem setReg_fence_eq (a : Nat) (v : Word) (k j : Nat) : (s.setReg a v).fence k j = s.fence k j := rfl
@[simp] theorem setReg_mailbox_eq (a : Nat) (v : Word) (j : Nat) : (s.setReg a v).mailbox j = s.mailbox j := rfl
@[simp] theorem setReg_basin_eq (a : Nat) (v : Word) (j : Nat) : (s.setReg a v).basin j = s.basin j := rfl
@[simp] theorem setReg_region_eq (a : Nat) (v : Word) (j : Nat) : (s.setReg a v).region j = s.region j := rfl
@[simp] theorem setReg_quad_eq (a : Nat) (v : Word) (j : Nat) : (s.setReg a v).quad j = s.quad j := rfl
@[simp] theorem setReg_port_eq (a : Nat) (v : Word) (j : Nat) : (s.setReg a v).port j = s.port j := rfl
@[simp] theorem setReg_ns32_eq (a : Nat) (v : Word) : (s.setReg a v).ns32 = s.ns32 := rfl
@[simp] theorem setReg_rxOf_eq (a : Nat) (v : Word) (j : Nat) : (s.setReg a v).rxOf j = s.rxOf j := rfl
@[simp] theorem setReg_awake_eq (a : Nat) (v : Word) : (s.setReg a v).awake = s.awake := rfl
@[simp] theorem setReg_memWf_eq (a : Nat) (v : Word) : (s.setReg a v).memWf = s.memWf := rfl

/-! `count` -/

@[simp] theorem count_pending (a n : Nat) : (s.count a n).pending = s.pending := rfl
@[simp] theorem count_freeCtr (a n : Nat) : (s.count a n).freeCtr = s.freeCtr := rfl
@[simp] theorem count_outs (a n : Nat) : (s.count a n).outs = s.outs := rfl
@[simp] theorem count_mode (a n : Nat) : (s.count a n).mode = s.mode := rfl
@[simp] theorem count_fuses (a n : Nat) : (s.count a n).fuses = s.fuses := rfl
@[simp] theorem count_boot (a n : Nat) : (s.count a n).boot = s.boot := rfl
@[simp] theorem count_ctl (a n : Nat) : (s.count a n).ctl = s.ctl.count a n := rfl
@[simp] theorem count_time (a n : Nat) : (s.count a n).time = s.time := rfl
@[simp] theorem count_cores (a n : Nat) : (s.count a n).cores = s.cores := rfl
@[simp] theorem count_l2p (a n : Nat) : (s.count a n).l2p = s.l2p := rfl
@[simp] theorem count_fences (a n : Nat) : (s.count a n).fences = s.fences := rfl
@[simp] theorem count_mem (a n : Nat) : (s.count a n).mem = s.mem := rfl
@[simp] theorem count_poison (a n : Nat) : (s.count a n).poison = s.poison := rfl
@[simp] theorem count_host (a n : Nat) : (s.count a n).host = s.host := rfl
@[simp] theorem count_arbs (a n : Nat) : (s.count a n).arbs = s.arbs := rfl
@[simp] theorem count_scrub (a n : Nat) : (s.count a n).scrub = s.scrub := rfl
@[simp] theorem count_dramOn (a n : Nat) : (s.count a n).dramOn = s.dramOn := rfl
@[simp] theorem count_dramPairs (a n : Nat) : (s.count a n).dramPairs = s.dramPairs := rfl
@[simp] theorem count_refreshX2 (a n : Nat) : (s.count a n).refreshX2 = s.refreshX2 := rfl
@[simp] theorem count_img (a n : Nat) : (s.count a n).img = s.img := rfl
@[simp] theorem count_func (a n : Nat) : (s.count a n).func = s.func := rfl
@[simp] theorem count_mbx (a n : Nat) : (s.count a n).mbx = s.mbx := rfl
@[simp] theorem count_wq (a n : Nat) : (s.count a n).wq = s.wq := rfl
@[simp] theorem count_async (a n : Nat) : (s.count a n).async = s.async := rfl
@[simp] theorem count_basins (a n : Nat) : (s.count a n).basins = s.basins := rfl
@[simp] theorem count_aeq (a n : Nat) : (s.count a n).aeq = s.aeq := rfl
@[simp] theorem count_aeqShadow (a n : Nat) : (s.count a n).aeqShadow = s.aeqShadow := rfl
@[simp] theorem count_aeqDue (a n : Nat) : (s.count a n).aeqDue = s.aeqDue := rfl
@[simp] theorem count_aeqLost (a n : Nat) : (s.count a n).aeqLost = s.aeqLost := rfl
@[simp] theorem count_atu (a n : Nat) : (s.count a n).atu = s.atu := rfl
@[simp] theorem count_smb (a n : Nat) : (s.count a n).smb = s.smb := rfl
@[simp] theorem count_sched (a n : Nat) : (s.count a n).sched = s.sched := rfl
@[simp] theorem count_trib (a n : Nat) : (s.count a n).trib = s.trib := rfl
@[simp] theorem count_ports (a n : Nat) : (s.count a n).ports = s.ports := rfl
@[simp] theorem count_fh (a n : Nat) : (s.count a n).fh = s.fh := rfl
@[simp] theorem count_flt (a n : Nat) : (s.count a n).flt = s.flt := rfl
@[simp] theorem count_pwr (a n : Nat) : (s.count a n).pwr = s.pwr := rfl
@[simp] theorem count_pins (a n : Nat) : (s.count a n).pins = s.pins := rfl
@[simp] theorem count_rx (a n : Nat) : (s.count a n).rx = s.rx := rfl
@[simp] theorem count_tx (a n : Nat) : (s.count a n).tx = s.tx := rfl
@[simp] theorem count_weir (a n : Nat) : (s.count a n).weir = s.weir := rfl
@[simp] theorem count_bkw (a n : Nat) : (s.count a n).bkw = s.bkw := rfl
@[simp] theorem count_dfe (a n : Nat) : (s.count a n).dfe = s.dfe := rfl
@[simp] theorem count_core_eq (a n : Nat) (j : Nat) : (s.count a n).core j = s.core j := rfl
@[simp] theorem count_fence_eq (a n : Nat) (k j : Nat) : (s.count a n).fence k j = s.fence k j := rfl
@[simp] theorem count_mailbox_eq (a n : Nat) (j : Nat) : (s.count a n).mailbox j = s.mailbox j := rfl
@[simp] theorem count_basin_eq (a n : Nat) (j : Nat) : (s.count a n).basin j = s.basin j := rfl
@[simp] theorem count_region_eq (a n : Nat) (j : Nat) : (s.count a n).region j = s.region j := rfl
@[simp] theorem count_quad_eq (a n : Nat) (j : Nat) : (s.count a n).quad j = s.quad j := rfl
@[simp] theorem count_port_eq (a n : Nat) (j : Nat) : (s.count a n).port j = s.port j := rfl
@[simp] theorem count_ns32_eq (a n : Nat) : (s.count a n).ns32 = s.ns32 := rfl
@[simp] theorem count_rxOf_eq (a n : Nat) (j : Nat) : (s.count a n).rxOf j = s.rxOf j := rfl
@[simp] theorem count_awake_eq (a n : Nat) : (s.count a n).awake = s.awake := rfl
@[simp] theorem count_memWf_eq (a n : Nat) : (s.count a n).memWf = s.memWf := rfl

/-! `event` -/

@[simp] theorem event_pending (a b : Nat) : (s.event a b).pending = s.pending := rfl
@[simp] theorem event_freeCtr (a b : Nat) : (s.event a b).freeCtr = s.freeCtr := rfl
@[simp] theorem event_outs (a b : Nat) : (s.event a b).outs = s.outs := rfl
@[simp] theorem event_mode (a b : Nat) : (s.event a b).mode = s.mode := rfl
@[simp] theorem event_fuses (a b : Nat) : (s.event a b).fuses = s.fuses := rfl
@[simp] theorem event_boot (a b : Nat) : (s.event a b).boot = s.boot := rfl
@[simp] theorem event_ctl (a b : Nat) : (s.event a b).ctl = Ctl.event s.ns32 s.ctl a b := rfl
@[simp] theorem event_time (a b : Nat) : (s.event a b).time = s.time := rfl
@[simp] theorem event_cores (a b : Nat) : (s.event a b).cores = s.cores := rfl
@[simp] theorem event_l2p (a b : Nat) : (s.event a b).l2p = s.l2p := rfl
@[simp] theorem event_fences (a b : Nat) : (s.event a b).fences = s.fences := rfl
@[simp] theorem event_mem (a b : Nat) : (s.event a b).mem = s.mem := rfl
@[simp] theorem event_poison (a b : Nat) : (s.event a b).poison = s.poison := rfl
@[simp] theorem event_host (a b : Nat) : (s.event a b).host = s.host := rfl
@[simp] theorem event_arbs (a b : Nat) : (s.event a b).arbs = s.arbs := rfl
@[simp] theorem event_scrub (a b : Nat) : (s.event a b).scrub = s.scrub := rfl
@[simp] theorem event_dramOn (a b : Nat) : (s.event a b).dramOn = s.dramOn := rfl
@[simp] theorem event_dramPairs (a b : Nat) : (s.event a b).dramPairs = s.dramPairs := rfl
@[simp] theorem event_refreshX2 (a b : Nat) : (s.event a b).refreshX2 = s.refreshX2 := rfl
@[simp] theorem event_img (a b : Nat) : (s.event a b).img = s.img := rfl
@[simp] theorem event_func (a b : Nat) : (s.event a b).func = s.func := rfl
@[simp] theorem event_mbx (a b : Nat) : (s.event a b).mbx = s.mbx := rfl
@[simp] theorem event_wq (a b : Nat) : (s.event a b).wq = s.wq := rfl
@[simp] theorem event_async (a b : Nat) : (s.event a b).async = s.async := rfl
@[simp] theorem event_basins (a b : Nat) : (s.event a b).basins = s.basins := rfl
@[simp] theorem event_aeq (a b : Nat) : (s.event a b).aeq = s.aeq := rfl
@[simp] theorem event_aeqShadow (a b : Nat) : (s.event a b).aeqShadow = s.aeqShadow := rfl
@[simp] theorem event_aeqDue (a b : Nat) : (s.event a b).aeqDue = s.aeqDue := rfl
@[simp] theorem event_aeqLost (a b : Nat) : (s.event a b).aeqLost = s.aeqLost := rfl
@[simp] theorem event_atu (a b : Nat) : (s.event a b).atu = s.atu := rfl
@[simp] theorem event_smb (a b : Nat) : (s.event a b).smb = s.smb := rfl
@[simp] theorem event_sched (a b : Nat) : (s.event a b).sched = s.sched := rfl
@[simp] theorem event_trib (a b : Nat) : (s.event a b).trib = s.trib := rfl
@[simp] theorem event_ports (a b : Nat) : (s.event a b).ports = s.ports := rfl
@[simp] theorem event_fh (a b : Nat) : (s.event a b).fh = s.fh := rfl
@[simp] theorem event_flt (a b : Nat) : (s.event a b).flt = s.flt := rfl
@[simp] theorem event_pwr (a b : Nat) : (s.event a b).pwr = s.pwr := rfl
@[simp] theorem event_pins (a b : Nat) : (s.event a b).pins = s.pins := rfl
@[simp] theorem event_rx (a b : Nat) : (s.event a b).rx = s.rx := rfl
@[simp] theorem event_tx (a b : Nat) : (s.event a b).tx = s.tx := rfl
@[simp] theorem event_weir (a b : Nat) : (s.event a b).weir = s.weir := rfl
@[simp] theorem event_bkw (a b : Nat) : (s.event a b).bkw = s.bkw := rfl
@[simp] theorem event_dfe (a b : Nat) : (s.event a b).dfe = s.dfe := rfl
@[simp] theorem event_core_eq (a b : Nat) (j : Nat) : (s.event a b).core j = s.core j := rfl
@[simp] theorem event_fence_eq (a b : Nat) (k j : Nat) : (s.event a b).fence k j = s.fence k j := rfl
@[simp] theorem event_mailbox_eq (a b : Nat) (j : Nat) : (s.event a b).mailbox j = s.mailbox j := rfl
@[simp] theorem event_basin_eq (a b : Nat) (j : Nat) : (s.event a b).basin j = s.basin j := rfl
@[simp] theorem event_region_eq (a b : Nat) (j : Nat) : (s.event a b).region j = s.region j := rfl
@[simp] theorem event_quad_eq (a b : Nat) (j : Nat) : (s.event a b).quad j = s.quad j := rfl
@[simp] theorem event_port_eq (a b : Nat) (j : Nat) : (s.event a b).port j = s.port j := rfl
@[simp] theorem event_ns32_eq (a b : Nat) : (s.event a b).ns32 = s.ns32 := rfl
@[simp] theorem event_rxOf_eq (a b : Nat) (j : Nat) : (s.event a b).rxOf j = s.rxOf j := rfl
@[simp] theorem event_awake_eq (a b : Nat) : (s.event a b).awake = s.awake := rfl
@[simp] theorem event_memWf_eq (a b : Nat) : (s.event a b).memWf = s.memWf := rfl

/-! `emit` -/

@[simp] theorem emit_pending (o : Out) : (s.emit o).pending = s.pending := rfl
@[simp] theorem emit_freeCtr (o : Out) : (s.emit o).freeCtr = s.freeCtr := rfl
@[simp] theorem emit_outs (o : Out) : (s.emit o).outs = s.outs ++ [o] := rfl
@[simp] theorem emit_mode (o : Out) : (s.emit o).mode = s.mode := rfl
@[simp] theorem emit_fuses (o : Out) : (s.emit o).fuses = s.fuses := rfl
@[simp] theorem emit_boot (o : Out) : (s.emit o).boot = s.boot := rfl
@[simp] theorem emit_ctl (o : Out) : (s.emit o).ctl = s.ctl := rfl
@[simp] theorem emit_time (o : Out) : (s.emit o).time = s.time := rfl
@[simp] theorem emit_cores (o : Out) : (s.emit o).cores = s.cores := rfl
@[simp] theorem emit_l2p (o : Out) : (s.emit o).l2p = s.l2p := rfl
@[simp] theorem emit_fences (o : Out) : (s.emit o).fences = s.fences := rfl
@[simp] theorem emit_mem (o : Out) : (s.emit o).mem = s.mem := rfl
@[simp] theorem emit_poison (o : Out) : (s.emit o).poison = s.poison := rfl
@[simp] theorem emit_host (o : Out) : (s.emit o).host = s.host := rfl
@[simp] theorem emit_arbs (o : Out) : (s.emit o).arbs = s.arbs := rfl
@[simp] theorem emit_scrub (o : Out) : (s.emit o).scrub = s.scrub := rfl
@[simp] theorem emit_dramOn (o : Out) : (s.emit o).dramOn = s.dramOn := rfl
@[simp] theorem emit_dramPairs (o : Out) : (s.emit o).dramPairs = s.dramPairs := rfl
@[simp] theorem emit_refreshX2 (o : Out) : (s.emit o).refreshX2 = s.refreshX2 := rfl
@[simp] theorem emit_img (o : Out) : (s.emit o).img = s.img := rfl
@[simp] theorem emit_func (o : Out) : (s.emit o).func = s.func := rfl
@[simp] theorem emit_mbx (o : Out) : (s.emit o).mbx = s.mbx := rfl
@[simp] theorem emit_wq (o : Out) : (s.emit o).wq = s.wq := rfl
@[simp] theorem emit_async (o : Out) : (s.emit o).async = s.async := rfl
@[simp] theorem emit_basins (o : Out) : (s.emit o).basins = s.basins := rfl
@[simp] theorem emit_aeq (o : Out) : (s.emit o).aeq = s.aeq := rfl
@[simp] theorem emit_aeqShadow (o : Out) : (s.emit o).aeqShadow = s.aeqShadow := rfl
@[simp] theorem emit_aeqDue (o : Out) : (s.emit o).aeqDue = s.aeqDue := rfl
@[simp] theorem emit_aeqLost (o : Out) : (s.emit o).aeqLost = s.aeqLost := rfl
@[simp] theorem emit_atu (o : Out) : (s.emit o).atu = s.atu := rfl
@[simp] theorem emit_smb (o : Out) : (s.emit o).smb = s.smb := rfl
@[simp] theorem emit_sched (o : Out) : (s.emit o).sched = s.sched := rfl
@[simp] theorem emit_trib (o : Out) : (s.emit o).trib = s.trib := rfl
@[simp] theorem emit_ports (o : Out) : (s.emit o).ports = s.ports := rfl
@[simp] theorem emit_fh (o : Out) : (s.emit o).fh = s.fh := rfl
@[simp] theorem emit_flt (o : Out) : (s.emit o).flt = s.flt := rfl
@[simp] theorem emit_pwr (o : Out) : (s.emit o).pwr = s.pwr := rfl
@[simp] theorem emit_pins (o : Out) : (s.emit o).pins = s.pins := rfl
@[simp] theorem emit_rx (o : Out) : (s.emit o).rx = s.rx := rfl
@[simp] theorem emit_tx (o : Out) : (s.emit o).tx = s.tx := rfl
@[simp] theorem emit_weir (o : Out) : (s.emit o).weir = s.weir := rfl
@[simp] theorem emit_bkw (o : Out) : (s.emit o).bkw = s.bkw := rfl
@[simp] theorem emit_dfe (o : Out) : (s.emit o).dfe = s.dfe := rfl
@[simp] theorem emit_reg_eq (o : Out) (j : Nat) : (s.emit o).reg j = s.reg j := rfl
@[simp] theorem emit_core_eq (o : Out) (j : Nat) : (s.emit o).core j = s.core j := rfl
@[simp] theorem emit_fence_eq (o : Out) (k j : Nat) : (s.emit o).fence k j = s.fence k j := rfl
@[simp] theorem emit_mailbox_eq (o : Out) (j : Nat) : (s.emit o).mailbox j = s.mailbox j := rfl
@[simp] theorem emit_basin_eq (o : Out) (j : Nat) : (s.emit o).basin j = s.basin j := rfl
@[simp] theorem emit_region_eq (o : Out) (j : Nat) : (s.emit o).region j = s.region j := rfl
@[simp] theorem emit_quad_eq (o : Out) (j : Nat) : (s.emit o).quad j = s.quad j := rfl
@[simp] theorem emit_port_eq (o : Out) (j : Nat) : (s.emit o).port j = s.port j := rfl
@[simp] theorem emit_ns32_eq (o : Out) : (s.emit o).ns32 = s.ns32 := rfl
@[simp] theorem emit_rxOf_eq (o : Out) (j : Nat) : (s.emit o).rxOf j = s.rxOf j := rfl
@[simp] theorem emit_awake_eq (o : Out) : (s.emit o).awake = s.awake := rfl
@[simp] theorem emit_memWf_eq (o : Out) : (s.emit o).memWf = s.memWf := rfl

/-! `clearOuts` -/

@[simp] theorem clearOuts_pending : (s.clearOuts).pending = s.pending := rfl
@[simp] theorem clearOuts_freeCtr : (s.clearOuts).freeCtr = s.freeCtr := rfl
@[simp] theorem clearOuts_outs : (s.clearOuts).outs = [] := rfl
@[simp] theorem clearOuts_mode : (s.clearOuts).mode = s.mode := rfl
@[simp] theorem clearOuts_fuses : (s.clearOuts).fuses = s.fuses := rfl
@[simp] theorem clearOuts_boot : (s.clearOuts).boot = s.boot := rfl
@[simp] theorem clearOuts_ctl : (s.clearOuts).ctl = s.ctl := rfl
@[simp] theorem clearOuts_time : (s.clearOuts).time = s.time := rfl
@[simp] theorem clearOuts_cores : (s.clearOuts).cores = s.cores := rfl
@[simp] theorem clearOuts_l2p : (s.clearOuts).l2p = s.l2p := rfl
@[simp] theorem clearOuts_fences : (s.clearOuts).fences = s.fences := rfl
@[simp] theorem clearOuts_mem : (s.clearOuts).mem = s.mem := rfl
@[simp] theorem clearOuts_poison : (s.clearOuts).poison = s.poison := rfl
@[simp] theorem clearOuts_host : (s.clearOuts).host = s.host := rfl
@[simp] theorem clearOuts_arbs : (s.clearOuts).arbs = s.arbs := rfl
@[simp] theorem clearOuts_scrub : (s.clearOuts).scrub = s.scrub := rfl
@[simp] theorem clearOuts_dramOn : (s.clearOuts).dramOn = s.dramOn := rfl
@[simp] theorem clearOuts_dramPairs : (s.clearOuts).dramPairs = s.dramPairs := rfl
@[simp] theorem clearOuts_refreshX2 : (s.clearOuts).refreshX2 = s.refreshX2 := rfl
@[simp] theorem clearOuts_img : (s.clearOuts).img = s.img := rfl
@[simp] theorem clearOuts_func : (s.clearOuts).func = s.func := rfl
@[simp] theorem clearOuts_mbx : (s.clearOuts).mbx = s.mbx := rfl
@[simp] theorem clearOuts_wq : (s.clearOuts).wq = s.wq := rfl
@[simp] theorem clearOuts_async : (s.clearOuts).async = s.async := rfl
@[simp] theorem clearOuts_basins : (s.clearOuts).basins = s.basins := rfl
@[simp] theorem clearOuts_aeq : (s.clearOuts).aeq = s.aeq := rfl
@[simp] theorem clearOuts_aeqShadow : (s.clearOuts).aeqShadow = s.aeqShadow := rfl
@[simp] theorem clearOuts_aeqDue : (s.clearOuts).aeqDue = s.aeqDue := rfl
@[simp] theorem clearOuts_aeqLost : (s.clearOuts).aeqLost = s.aeqLost := rfl
@[simp] theorem clearOuts_atu : (s.clearOuts).atu = s.atu := rfl
@[simp] theorem clearOuts_smb : (s.clearOuts).smb = s.smb := rfl
@[simp] theorem clearOuts_sched : (s.clearOuts).sched = s.sched := rfl
@[simp] theorem clearOuts_trib : (s.clearOuts).trib = s.trib := rfl
@[simp] theorem clearOuts_ports : (s.clearOuts).ports = s.ports := rfl
@[simp] theorem clearOuts_fh : (s.clearOuts).fh = s.fh := rfl
@[simp] theorem clearOuts_flt : (s.clearOuts).flt = s.flt := rfl
@[simp] theorem clearOuts_pwr : (s.clearOuts).pwr = s.pwr := rfl
@[simp] theorem clearOuts_pins : (s.clearOuts).pins = s.pins := rfl
@[simp] theorem clearOuts_rx : (s.clearOuts).rx = s.rx := rfl
@[simp] theorem clearOuts_tx : (s.clearOuts).tx = s.tx := rfl
@[simp] theorem clearOuts_weir : (s.clearOuts).weir = s.weir := rfl
@[simp] theorem clearOuts_bkw : (s.clearOuts).bkw = s.bkw := rfl
@[simp] theorem clearOuts_dfe : (s.clearOuts).dfe = s.dfe := rfl
@[simp] theorem clearOuts_reg_eq (j : Nat) : (s.clearOuts).reg j = s.reg j := rfl
@[simp] theorem clearOuts_core_eq (j : Nat) : (s.clearOuts).core j = s.core j := rfl
@[simp] theorem clearOuts_fence_eq (k j : Nat) : (s.clearOuts).fence k j = s.fence k j := rfl
@[simp] theorem clearOuts_mailbox_eq (j : Nat) : (s.clearOuts).mailbox j = s.mailbox j := rfl
@[simp] theorem clearOuts_basin_eq (j : Nat) : (s.clearOuts).basin j = s.basin j := rfl
@[simp] theorem clearOuts_region_eq (j : Nat) : (s.clearOuts).region j = s.region j := rfl
@[simp] theorem clearOuts_quad_eq (j : Nat) : (s.clearOuts).quad j = s.quad j := rfl
@[simp] theorem clearOuts_port_eq (j : Nat) : (s.clearOuts).port j = s.port j := rfl
@[simp] theorem clearOuts_ns32_eq : (s.clearOuts).ns32 = s.ns32 := rfl
@[simp] theorem clearOuts_rxOf_eq (j : Nat) : (s.clearOuts).rxOf j = s.rxOf j := rfl
@[simp] theorem clearOuts_awake_eq : (s.clearOuts).awake = s.awake := rfl
@[simp] theorem clearOuts_memWf_eq : (s.clearOuts).memWf = s.memWf := rfl

/-! `withPending` -/

@[simp] theorem withPending_pending (q : List Instr) : (s.withPending q).pending = q := rfl
@[simp] theorem withPending_freeCtr (q : List Instr) : (s.withPending q).freeCtr = s.freeCtr := rfl
@[simp] theorem withPending_outs (q : List Instr) : (s.withPending q).outs = s.outs := rfl
@[simp] theorem withPending_mode (q : List Instr) : (s.withPending q).mode = s.mode := rfl
@[simp] theorem withPending_fuses (q : List Instr) : (s.withPending q).fuses = s.fuses := rfl
@[simp] theorem withPending_boot (q : List Instr) : (s.withPending q).boot = s.boot := rfl
@[simp] theorem withPending_ctl (q : List Instr) : (s.withPending q).ctl = s.ctl := rfl
@[simp] theorem withPending_time (q : List Instr) : (s.withPending q).time = s.time := rfl
@[simp] theorem withPending_cores (q : List Instr) : (s.withPending q).cores = s.cores := rfl
@[simp] theorem withPending_l2p (q : List Instr) : (s.withPending q).l2p = s.l2p := rfl
@[simp] theorem withPending_fences (q : List Instr) : (s.withPending q).fences = s.fences := rfl
@[simp] theorem withPending_mem (q : List Instr) : (s.withPending q).mem = s.mem := rfl
@[simp] theorem withPending_poison (q : List Instr) : (s.withPending q).poison = s.poison := rfl
@[simp] theorem withPending_host (q : List Instr) : (s.withPending q).host = s.host := rfl
@[simp] theorem withPending_arbs (q : List Instr) : (s.withPending q).arbs = s.arbs := rfl
@[simp] theorem withPending_scrub (q : List Instr) : (s.withPending q).scrub = s.scrub := rfl
@[simp] theorem withPending_dramOn (q : List Instr) : (s.withPending q).dramOn = s.dramOn := rfl
@[simp] theorem withPending_dramPairs (q : List Instr) : (s.withPending q).dramPairs = s.dramPairs := rfl
@[simp] theorem withPending_refreshX2 (q : List Instr) : (s.withPending q).refreshX2 = s.refreshX2 := rfl
@[simp] theorem withPending_img (q : List Instr) : (s.withPending q).img = s.img := rfl
@[simp] theorem withPending_func (q : List Instr) : (s.withPending q).func = s.func := rfl
@[simp] theorem withPending_mbx (q : List Instr) : (s.withPending q).mbx = s.mbx := rfl
@[simp] theorem withPending_wq (q : List Instr) : (s.withPending q).wq = s.wq := rfl
@[simp] theorem withPending_async (q : List Instr) : (s.withPending q).async = s.async := rfl
@[simp] theorem withPending_basins (q : List Instr) : (s.withPending q).basins = s.basins := rfl
@[simp] theorem withPending_aeq (q : List Instr) : (s.withPending q).aeq = s.aeq := rfl
@[simp] theorem withPending_aeqShadow (q : List Instr) : (s.withPending q).aeqShadow = s.aeqShadow := rfl
@[simp] theorem withPending_aeqDue (q : List Instr) : (s.withPending q).aeqDue = s.aeqDue := rfl
@[simp] theorem withPending_aeqLost (q : List Instr) : (s.withPending q).aeqLost = s.aeqLost := rfl
@[simp] theorem withPending_atu (q : List Instr) : (s.withPending q).atu = s.atu := rfl
@[simp] theorem withPending_smb (q : List Instr) : (s.withPending q).smb = s.smb := rfl
@[simp] theorem withPending_sched (q : List Instr) : (s.withPending q).sched = s.sched := rfl
@[simp] theorem withPending_trib (q : List Instr) : (s.withPending q).trib = s.trib := rfl
@[simp] theorem withPending_ports (q : List Instr) : (s.withPending q).ports = s.ports := rfl
@[simp] theorem withPending_fh (q : List Instr) : (s.withPending q).fh = s.fh := rfl
@[simp] theorem withPending_flt (q : List Instr) : (s.withPending q).flt = s.flt := rfl
@[simp] theorem withPending_pwr (q : List Instr) : (s.withPending q).pwr = s.pwr := rfl
@[simp] theorem withPending_pins (q : List Instr) : (s.withPending q).pins = s.pins := rfl
@[simp] theorem withPending_rx (q : List Instr) : (s.withPending q).rx = s.rx := rfl
@[simp] theorem withPending_tx (q : List Instr) : (s.withPending q).tx = s.tx := rfl
@[simp] theorem withPending_weir (q : List Instr) : (s.withPending q).weir = s.weir := rfl
@[simp] theorem withPending_bkw (q : List Instr) : (s.withPending q).bkw = s.bkw := rfl
@[simp] theorem withPending_dfe (q : List Instr) : (s.withPending q).dfe = s.dfe := rfl
@[simp] theorem withPending_reg_eq (q : List Instr) (j : Nat) : (s.withPending q).reg j = s.reg j := rfl
@[simp] theorem withPending_core_eq (q : List Instr) (j : Nat) : (s.withPending q).core j = s.core j := rfl
@[simp] theorem withPending_fence_eq (q : List Instr) (k j : Nat) : (s.withPending q).fence k j = s.fence k j := rfl
@[simp] theorem withPending_mailbox_eq (q : List Instr) (j : Nat) : (s.withPending q).mailbox j = s.mailbox j := rfl
@[simp] theorem withPending_basin_eq (q : List Instr) (j : Nat) : (s.withPending q).basin j = s.basin j := rfl
@[simp] theorem withPending_region_eq (q : List Instr) (j : Nat) : (s.withPending q).region j = s.region j := rfl
@[simp] theorem withPending_quad_eq (q : List Instr) (j : Nat) : (s.withPending q).quad j = s.quad j := rfl
@[simp] theorem withPending_port_eq (q : List Instr) (j : Nat) : (s.withPending q).port j = s.port j := rfl
@[simp] theorem withPending_ns32_eq (q : List Instr) : (s.withPending q).ns32 = s.ns32 := rfl
@[simp] theorem withPending_rxOf_eq (q : List Instr) (j : Nat) : (s.withPending q).rxOf j = s.rxOf j := rfl
@[simp] theorem withPending_awake_eq (q : List Instr) : (s.withPending q).awake = s.awake := rfl
@[simp] theorem withPending_memWf_eq (q : List Instr) : (s.withPending q).memWf = s.memWf := rfl

/-! `setCore` -/

@[simp] theorem setCore_pending (p : Nat) (c : Core) : (s.setCore p c).pending = s.pending := rfl
@[simp] theorem setCore_freeCtr (p : Nat) (c : Core) : (s.setCore p c).freeCtr = s.freeCtr := rfl
@[simp] theorem setCore_outs (p : Nat) (c : Core) : (s.setCore p c).outs = s.outs := rfl
@[simp] theorem setCore_mode (p : Nat) (c : Core) : (s.setCore p c).mode = s.mode := rfl
@[simp] theorem setCore_fuses (p : Nat) (c : Core) : (s.setCore p c).fuses = s.fuses := rfl
@[simp] theorem setCore_boot (p : Nat) (c : Core) : (s.setCore p c).boot = s.boot := rfl
@[simp] theorem setCore_ctl (p : Nat) (c : Core) : (s.setCore p c).ctl = s.ctl := rfl
@[simp] theorem setCore_time (p : Nat) (c : Core) : (s.setCore p c).time = s.time := rfl
@[simp] theorem setCore_cores (p : Nat) (c : Core) : (s.setCore p c).cores = tset s.cores p c := rfl
@[simp] theorem setCore_l2p (p : Nat) (c : Core) : (s.setCore p c).l2p = s.l2p := rfl
@[simp] theorem setCore_fences (p : Nat) (c : Core) : (s.setCore p c).fences = s.fences := rfl
@[simp] theorem setCore_mem (p : Nat) (c : Core) : (s.setCore p c).mem = s.mem := rfl
@[simp] theorem setCore_poison (p : Nat) (c : Core) : (s.setCore p c).poison = s.poison := rfl
@[simp] theorem setCore_host (p : Nat) (c : Core) : (s.setCore p c).host = s.host := rfl
@[simp] theorem setCore_arbs (p : Nat) (c : Core) : (s.setCore p c).arbs = s.arbs := rfl
@[simp] theorem setCore_scrub (p : Nat) (c : Core) : (s.setCore p c).scrub = s.scrub := rfl
@[simp] theorem setCore_dramOn (p : Nat) (c : Core) : (s.setCore p c).dramOn = s.dramOn := rfl
@[simp] theorem setCore_dramPairs (p : Nat) (c : Core) : (s.setCore p c).dramPairs = s.dramPairs := rfl
@[simp] theorem setCore_refreshX2 (p : Nat) (c : Core) : (s.setCore p c).refreshX2 = s.refreshX2 := rfl
@[simp] theorem setCore_img (p : Nat) (c : Core) : (s.setCore p c).img = s.img := rfl
@[simp] theorem setCore_func (p : Nat) (c : Core) : (s.setCore p c).func = s.func := rfl
@[simp] theorem setCore_mbx (p : Nat) (c : Core) : (s.setCore p c).mbx = s.mbx := rfl
@[simp] theorem setCore_wq (p : Nat) (c : Core) : (s.setCore p c).wq = s.wq := rfl
@[simp] theorem setCore_async (p : Nat) (c : Core) : (s.setCore p c).async = s.async := rfl
@[simp] theorem setCore_basins (p : Nat) (c : Core) : (s.setCore p c).basins = s.basins := rfl
@[simp] theorem setCore_aeq (p : Nat) (c : Core) : (s.setCore p c).aeq = s.aeq := rfl
@[simp] theorem setCore_aeqShadow (p : Nat) (c : Core) : (s.setCore p c).aeqShadow = s.aeqShadow := rfl
@[simp] theorem setCore_aeqDue (p : Nat) (c : Core) : (s.setCore p c).aeqDue = s.aeqDue := rfl
@[simp] theorem setCore_aeqLost (p : Nat) (c : Core) : (s.setCore p c).aeqLost = s.aeqLost := rfl
@[simp] theorem setCore_atu (p : Nat) (c : Core) : (s.setCore p c).atu = s.atu := rfl
@[simp] theorem setCore_smb (p : Nat) (c : Core) : (s.setCore p c).smb = s.smb := rfl
@[simp] theorem setCore_sched (p : Nat) (c : Core) : (s.setCore p c).sched = s.sched := rfl
@[simp] theorem setCore_trib (p : Nat) (c : Core) : (s.setCore p c).trib = s.trib := rfl
@[simp] theorem setCore_ports (p : Nat) (c : Core) : (s.setCore p c).ports = s.ports := rfl
@[simp] theorem setCore_fh (p : Nat) (c : Core) : (s.setCore p c).fh = s.fh := rfl
@[simp] theorem setCore_flt (p : Nat) (c : Core) : (s.setCore p c).flt = s.flt := rfl
@[simp] theorem setCore_pwr (p : Nat) (c : Core) : (s.setCore p c).pwr = s.pwr := rfl
@[simp] theorem setCore_pins (p : Nat) (c : Core) : (s.setCore p c).pins = s.pins := rfl
@[simp] theorem setCore_rx (p : Nat) (c : Core) : (s.setCore p c).rx = s.rx := rfl
@[simp] theorem setCore_tx (p : Nat) (c : Core) : (s.setCore p c).tx = s.tx := rfl
@[simp] theorem setCore_weir (p : Nat) (c : Core) : (s.setCore p c).weir = s.weir := rfl
@[simp] theorem setCore_bkw (p : Nat) (c : Core) : (s.setCore p c).bkw = s.bkw := rfl
@[simp] theorem setCore_dfe (p : Nat) (c : Core) : (s.setCore p c).dfe = s.dfe := rfl
@[simp] theorem setCore_reg_eq (p : Nat) (c : Core) (j : Nat) : (s.setCore p c).reg j = s.reg j := rfl
@[simp] theorem setCore_fence_eq (p : Nat) (c : Core) (k j : Nat) : (s.setCore p c).fence k j = s.fence k j := rfl
@[simp] theorem setCore_mailbox_eq (p : Nat) (c : Core) (j : Nat) : (s.setCore p c).mailbox j = s.mailbox j := rfl
@[simp] theorem setCore_basin_eq (p : Nat) (c : Core) (j : Nat) : (s.setCore p c).basin j = s.basin j := rfl
@[simp] theorem setCore_region_eq (p : Nat) (c : Core) (j : Nat) : (s.setCore p c).region j = s.region j := rfl
@[simp] theorem setCore_quad_eq (p : Nat) (c : Core) (j : Nat) : (s.setCore p c).quad j = s.quad j := rfl
@[simp] theorem setCore_port_eq (p : Nat) (c : Core) (j : Nat) : (s.setCore p c).port j = s.port j := rfl
@[simp] theorem setCore_ns32_eq (p : Nat) (c : Core) : (s.setCore p c).ns32 = s.ns32 := rfl
@[simp] theorem setCore_rxOf_eq (p : Nat) (c : Core) (j : Nat) : (s.setCore p c).rxOf j = s.rxOf j := rfl
@[simp] theorem setCore_awake_eq (p : Nat) (c : Core) : (s.setCore p c).awake = s.awake := rfl
@[simp] theorem setCore_memWf_eq (p : Nat) (c : Core) : (s.setCore p c).memWf = s.memWf := rfl

/-! `setFence` -/

@[simp] theorem setFence_pending (k n h : Nat) : (s.setFence k n h).pending = s.pending := rfl
@[simp] theorem setFence_freeCtr (k n h : Nat) : (s.setFence k n h).freeCtr = s.freeCtr := rfl
@[simp] theorem setFence_outs (k n h : Nat) : (s.setFence k n h).outs = s.outs := rfl
@[simp] theorem setFence_mode (k n h : Nat) : (s.setFence k n h).mode = s.mode := rfl
@[simp] theorem setFence_fuses (k n h : Nat) : (s.setFence k n h).fuses = s.fuses := rfl
@[simp] theorem setFence_boot (k n h : Nat) : (s.setFence k n h).boot = s.boot := rfl
@[simp] theorem setFence_ctl (k n h : Nat) : (s.setFence k n h).ctl = s.ctl := rfl
@[simp] theorem setFence_time (k n h : Nat) : (s.setFence k n h).time = s.time := rfl
@[simp] theorem setFence_cores (k n h : Nat) : (s.setFence k n h).cores = s.cores := rfl
@[simp] theorem setFence_l2p (k n h : Nat) : (s.setFence k n h).l2p = s.l2p := rfl
@[simp] theorem setFence_fences (k n h : Nat) : (s.setFence k n h).fences = tset s.fences (k * 64 + n) (max h 1) := rfl
@[simp] theorem setFence_mem (k n h : Nat) : (s.setFence k n h).mem = s.mem := rfl
@[simp] theorem setFence_poison (k n h : Nat) : (s.setFence k n h).poison = s.poison := rfl
@[simp] theorem setFence_host (k n h : Nat) : (s.setFence k n h).host = s.host := rfl
@[simp] theorem setFence_arbs (k n h : Nat) : (s.setFence k n h).arbs = s.arbs := rfl
@[simp] theorem setFence_scrub (k n h : Nat) : (s.setFence k n h).scrub = s.scrub := rfl
@[simp] theorem setFence_dramOn (k n h : Nat) : (s.setFence k n h).dramOn = s.dramOn := rfl
@[simp] theorem setFence_dramPairs (k n h : Nat) : (s.setFence k n h).dramPairs = s.dramPairs := rfl
@[simp] theorem setFence_refreshX2 (k n h : Nat) : (s.setFence k n h).refreshX2 = s.refreshX2 := rfl
@[simp] theorem setFence_img (k n h : Nat) : (s.setFence k n h).img = s.img := rfl
@[simp] theorem setFence_func (k n h : Nat) : (s.setFence k n h).func = s.func := rfl
@[simp] theorem setFence_mbx (k n h : Nat) : (s.setFence k n h).mbx = s.mbx := rfl
@[simp] theorem setFence_wq (k n h : Nat) : (s.setFence k n h).wq = s.wq := rfl
@[simp] theorem setFence_async (k n h : Nat) : (s.setFence k n h).async = s.async := rfl
@[simp] theorem setFence_basins (k n h : Nat) : (s.setFence k n h).basins = s.basins := rfl
@[simp] theorem setFence_aeq (k n h : Nat) : (s.setFence k n h).aeq = s.aeq := rfl
@[simp] theorem setFence_aeqShadow (k n h : Nat) : (s.setFence k n h).aeqShadow = s.aeqShadow := rfl
@[simp] theorem setFence_aeqDue (k n h : Nat) : (s.setFence k n h).aeqDue = s.aeqDue := rfl
@[simp] theorem setFence_aeqLost (k n h : Nat) : (s.setFence k n h).aeqLost = s.aeqLost := rfl
@[simp] theorem setFence_atu (k n h : Nat) : (s.setFence k n h).atu = s.atu := rfl
@[simp] theorem setFence_smb (k n h : Nat) : (s.setFence k n h).smb = s.smb := rfl
@[simp] theorem setFence_sched (k n h : Nat) : (s.setFence k n h).sched = s.sched := rfl
@[simp] theorem setFence_trib (k n h : Nat) : (s.setFence k n h).trib = s.trib := rfl
@[simp] theorem setFence_ports (k n h : Nat) : (s.setFence k n h).ports = s.ports := rfl
@[simp] theorem setFence_fh (k n h : Nat) : (s.setFence k n h).fh = s.fh := rfl
@[simp] theorem setFence_flt (k n h : Nat) : (s.setFence k n h).flt = { s.flt with recheck := true } := rfl
@[simp] theorem setFence_pwr (k n h : Nat) : (s.setFence k n h).pwr = s.pwr := rfl
@[simp] theorem setFence_pins (k n h : Nat) : (s.setFence k n h).pins = s.pins := rfl
@[simp] theorem setFence_rx (k n h : Nat) : (s.setFence k n h).rx = s.rx := rfl
@[simp] theorem setFence_tx (k n h : Nat) : (s.setFence k n h).tx = s.tx := rfl
@[simp] theorem setFence_weir (k n h : Nat) : (s.setFence k n h).weir = s.weir := rfl
@[simp] theorem setFence_bkw (k n h : Nat) : (s.setFence k n h).bkw = s.bkw := rfl
@[simp] theorem setFence_dfe (k n h : Nat) : (s.setFence k n h).dfe = s.dfe := rfl
@[simp] theorem setFence_reg_eq (k n h : Nat) (j : Nat) : (s.setFence k n h).reg j = s.reg j := rfl
@[simp] theorem setFence_core_eq (k n h : Nat) (j : Nat) : (s.setFence k n h).core j = s.core j := rfl
@[simp] theorem setFence_mailbox_eq (k n h : Nat) (j : Nat) : (s.setFence k n h).mailbox j = s.mailbox j := rfl
@[simp] theorem setFence_basin_eq (k n h : Nat) (j : Nat) : (s.setFence k n h).basin j = s.basin j := rfl
@[simp] theorem setFence_region_eq (k n h : Nat) (j : Nat) : (s.setFence k n h).region j = s.region j := rfl
@[simp] theorem setFence_quad_eq (k n h : Nat) (j : Nat) : (s.setFence k n h).quad j = s.quad j := rfl
@[simp] theorem setFence_port_eq (k n h : Nat) (j : Nat) : (s.setFence k n h).port j = s.port j := rfl
@[simp] theorem setFence_ns32_eq (k n h : Nat) : (s.setFence k n h).ns32 = s.ns32 := rfl
@[simp] theorem setFence_rxOf_eq (k n h : Nat) (j : Nat) : (s.setFence k n h).rxOf j = s.rxOf j := rfl
@[simp] theorem setFence_awake_eq (k n h : Nat) : (s.setFence k n h).awake = s.awake := rfl
@[simp] theorem setFence_memWf_eq (k n h : Nat) : (s.setFence k n h).memWf = s.memWf := rfl

/-! `setMailbox` -/

@[simp] theorem setMailbox_pending (m : Nat) (x : Mbx) : (s.setMailbox m x).pending = s.pending := rfl
@[simp] theorem setMailbox_freeCtr (m : Nat) (x : Mbx) : (s.setMailbox m x).freeCtr = s.freeCtr := rfl
@[simp] theorem setMailbox_outs (m : Nat) (x : Mbx) : (s.setMailbox m x).outs = s.outs := rfl
@[simp] theorem setMailbox_mode (m : Nat) (x : Mbx) : (s.setMailbox m x).mode = s.mode := rfl
@[simp] theorem setMailbox_fuses (m : Nat) (x : Mbx) : (s.setMailbox m x).fuses = s.fuses := rfl
@[simp] theorem setMailbox_boot (m : Nat) (x : Mbx) : (s.setMailbox m x).boot = s.boot := rfl
@[simp] theorem setMailbox_ctl (m : Nat) (x : Mbx) : (s.setMailbox m x).ctl = s.ctl := rfl
@[simp] theorem setMailbox_time (m : Nat) (x : Mbx) : (s.setMailbox m x).time = s.time := rfl
@[simp] theorem setMailbox_cores (m : Nat) (x : Mbx) : (s.setMailbox m x).cores = s.cores := rfl
@[simp] theorem setMailbox_l2p (m : Nat) (x : Mbx) : (s.setMailbox m x).l2p = s.l2p := rfl
@[simp] theorem setMailbox_fences (m : Nat) (x : Mbx) : (s.setMailbox m x).fences = s.fences := rfl
@[simp] theorem setMailbox_mem (m : Nat) (x : Mbx) : (s.setMailbox m x).mem = s.mem := rfl
@[simp] theorem setMailbox_poison (m : Nat) (x : Mbx) : (s.setMailbox m x).poison = s.poison := rfl
@[simp] theorem setMailbox_host (m : Nat) (x : Mbx) : (s.setMailbox m x).host = s.host := rfl
@[simp] theorem setMailbox_arbs (m : Nat) (x : Mbx) : (s.setMailbox m x).arbs = s.arbs := rfl
@[simp] theorem setMailbox_scrub (m : Nat) (x : Mbx) : (s.setMailbox m x).scrub = s.scrub := rfl
@[simp] theorem setMailbox_dramOn (m : Nat) (x : Mbx) : (s.setMailbox m x).dramOn = s.dramOn := rfl
@[simp] theorem setMailbox_dramPairs (m : Nat) (x : Mbx) : (s.setMailbox m x).dramPairs = s.dramPairs := rfl
@[simp] theorem setMailbox_refreshX2 (m : Nat) (x : Mbx) : (s.setMailbox m x).refreshX2 = s.refreshX2 := rfl
@[simp] theorem setMailbox_img (m : Nat) (x : Mbx) : (s.setMailbox m x).img = s.img := rfl
@[simp] theorem setMailbox_func (m : Nat) (x : Mbx) : (s.setMailbox m x).func = s.func := rfl
@[simp] theorem setMailbox_mbx (m : Nat) (x : Mbx) : (s.setMailbox m x).mbx = tset s.mbx m x := rfl
@[simp] theorem setMailbox_wq (m : Nat) (x : Mbx) : (s.setMailbox m x).wq = s.wq := rfl
@[simp] theorem setMailbox_async (m : Nat) (x : Mbx) : (s.setMailbox m x).async = s.async := rfl
@[simp] theorem setMailbox_basins (m : Nat) (x : Mbx) : (s.setMailbox m x).basins = s.basins := rfl
@[simp] theorem setMailbox_aeq (m : Nat) (x : Mbx) : (s.setMailbox m x).aeq = s.aeq := rfl
@[simp] theorem setMailbox_aeqShadow (m : Nat) (x : Mbx) : (s.setMailbox m x).aeqShadow = s.aeqShadow := rfl
@[simp] theorem setMailbox_aeqDue (m : Nat) (x : Mbx) : (s.setMailbox m x).aeqDue = s.aeqDue := rfl
@[simp] theorem setMailbox_aeqLost (m : Nat) (x : Mbx) : (s.setMailbox m x).aeqLost = s.aeqLost := rfl
@[simp] theorem setMailbox_atu (m : Nat) (x : Mbx) : (s.setMailbox m x).atu = s.atu := rfl
@[simp] theorem setMailbox_smb (m : Nat) (x : Mbx) : (s.setMailbox m x).smb = s.smb := rfl
@[simp] theorem setMailbox_sched (m : Nat) (x : Mbx) : (s.setMailbox m x).sched = s.sched := rfl
@[simp] theorem setMailbox_trib (m : Nat) (x : Mbx) : (s.setMailbox m x).trib = s.trib := rfl
@[simp] theorem setMailbox_ports (m : Nat) (x : Mbx) : (s.setMailbox m x).ports = s.ports := rfl
@[simp] theorem setMailbox_fh (m : Nat) (x : Mbx) : (s.setMailbox m x).fh = s.fh := rfl
@[simp] theorem setMailbox_flt (m : Nat) (x : Mbx) : (s.setMailbox m x).flt = s.flt := rfl
@[simp] theorem setMailbox_pwr (m : Nat) (x : Mbx) : (s.setMailbox m x).pwr = s.pwr := rfl
@[simp] theorem setMailbox_pins (m : Nat) (x : Mbx) : (s.setMailbox m x).pins = s.pins := rfl
@[simp] theorem setMailbox_rx (m : Nat) (x : Mbx) : (s.setMailbox m x).rx = s.rx := rfl
@[simp] theorem setMailbox_tx (m : Nat) (x : Mbx) : (s.setMailbox m x).tx = s.tx := rfl
@[simp] theorem setMailbox_weir (m : Nat) (x : Mbx) : (s.setMailbox m x).weir = s.weir := rfl
@[simp] theorem setMailbox_bkw (m : Nat) (x : Mbx) : (s.setMailbox m x).bkw = s.bkw := rfl
@[simp] theorem setMailbox_dfe (m : Nat) (x : Mbx) : (s.setMailbox m x).dfe = s.dfe := rfl
@[simp] theorem setMailbox_reg_eq (m : Nat) (x : Mbx) (j : Nat) : (s.setMailbox m x).reg j = s.reg j := rfl
@[simp] theorem setMailbox_core_eq (m : Nat) (x : Mbx) (j : Nat) : (s.setMailbox m x).core j = s.core j := rfl
@[simp] theorem setMailbox_fence_eq (m : Nat) (x : Mbx) (k j : Nat) : (s.setMailbox m x).fence k j = s.fence k j := rfl
@[simp] theorem setMailbox_basin_eq (m : Nat) (x : Mbx) (j : Nat) : (s.setMailbox m x).basin j = s.basin j := rfl
@[simp] theorem setMailbox_region_eq (m : Nat) (x : Mbx) (j : Nat) : (s.setMailbox m x).region j = s.region j := rfl
@[simp] theorem setMailbox_quad_eq (m : Nat) (x : Mbx) (j : Nat) : (s.setMailbox m x).quad j = s.quad j := rfl
@[simp] theorem setMailbox_port_eq (m : Nat) (x : Mbx) (j : Nat) : (s.setMailbox m x).port j = s.port j := rfl
@[simp] theorem setMailbox_ns32_eq (m : Nat) (x : Mbx) : (s.setMailbox m x).ns32 = s.ns32 := rfl
@[simp] theorem setMailbox_rxOf_eq (m : Nat) (x : Mbx) (j : Nat) : (s.setMailbox m x).rxOf j = s.rxOf j := rfl
@[simp] theorem setMailbox_awake_eq (m : Nat) (x : Mbx) : (s.setMailbox m x).awake = s.awake := rfl
@[simp] theorem setMailbox_memWf_eq (m : Nat) (x : Mbx) : (s.setMailbox m x).memWf = s.memWf := rfl

/-! `setBasin` -/

@[simp] theorem setBasin_pending (b : Nat) (x : Basin) : (s.setBasin b x).pending = s.pending := rfl
@[simp] theorem setBasin_freeCtr (b : Nat) (x : Basin) : (s.setBasin b x).freeCtr = s.freeCtr := rfl
@[simp] theorem setBasin_outs (b : Nat) (x : Basin) : (s.setBasin b x).outs = s.outs := rfl
@[simp] theorem setBasin_mode (b : Nat) (x : Basin) : (s.setBasin b x).mode = s.mode := rfl
@[simp] theorem setBasin_fuses (b : Nat) (x : Basin) : (s.setBasin b x).fuses = s.fuses := rfl
@[simp] theorem setBasin_boot (b : Nat) (x : Basin) : (s.setBasin b x).boot = s.boot := rfl
@[simp] theorem setBasin_ctl (b : Nat) (x : Basin) : (s.setBasin b x).ctl = s.ctl := rfl
@[simp] theorem setBasin_time (b : Nat) (x : Basin) : (s.setBasin b x).time = s.time := rfl
@[simp] theorem setBasin_cores (b : Nat) (x : Basin) : (s.setBasin b x).cores = s.cores := rfl
@[simp] theorem setBasin_l2p (b : Nat) (x : Basin) : (s.setBasin b x).l2p = s.l2p := rfl
@[simp] theorem setBasin_fences (b : Nat) (x : Basin) : (s.setBasin b x).fences = s.fences := rfl
@[simp] theorem setBasin_mem (b : Nat) (x : Basin) : (s.setBasin b x).mem = s.mem := rfl
@[simp] theorem setBasin_poison (b : Nat) (x : Basin) : (s.setBasin b x).poison = s.poison := rfl
@[simp] theorem setBasin_host (b : Nat) (x : Basin) : (s.setBasin b x).host = s.host := rfl
@[simp] theorem setBasin_arbs (b : Nat) (x : Basin) : (s.setBasin b x).arbs = s.arbs := rfl
@[simp] theorem setBasin_scrub (b : Nat) (x : Basin) : (s.setBasin b x).scrub = s.scrub := rfl
@[simp] theorem setBasin_dramOn (b : Nat) (x : Basin) : (s.setBasin b x).dramOn = s.dramOn := rfl
@[simp] theorem setBasin_dramPairs (b : Nat) (x : Basin) : (s.setBasin b x).dramPairs = s.dramPairs := rfl
@[simp] theorem setBasin_refreshX2 (b : Nat) (x : Basin) : (s.setBasin b x).refreshX2 = s.refreshX2 := rfl
@[simp] theorem setBasin_img (b : Nat) (x : Basin) : (s.setBasin b x).img = s.img := rfl
@[simp] theorem setBasin_func (b : Nat) (x : Basin) : (s.setBasin b x).func = s.func := rfl
@[simp] theorem setBasin_mbx (b : Nat) (x : Basin) : (s.setBasin b x).mbx = s.mbx := rfl
@[simp] theorem setBasin_wq (b : Nat) (x : Basin) : (s.setBasin b x).wq = s.wq := rfl
@[simp] theorem setBasin_async (b : Nat) (x : Basin) : (s.setBasin b x).async = s.async := rfl
@[simp] theorem setBasin_basins (b : Nat) (x : Basin) : (s.setBasin b x).basins = tset s.basins b x := rfl
@[simp] theorem setBasin_aeq (b : Nat) (x : Basin) : (s.setBasin b x).aeq = s.aeq := rfl
@[simp] theorem setBasin_aeqShadow (b : Nat) (x : Basin) : (s.setBasin b x).aeqShadow = s.aeqShadow := rfl
@[simp] theorem setBasin_aeqDue (b : Nat) (x : Basin) : (s.setBasin b x).aeqDue = s.aeqDue := rfl
@[simp] theorem setBasin_aeqLost (b : Nat) (x : Basin) : (s.setBasin b x).aeqLost = s.aeqLost := rfl
@[simp] theorem setBasin_atu (b : Nat) (x : Basin) : (s.setBasin b x).atu = s.atu := rfl
@[simp] theorem setBasin_smb (b : Nat) (x : Basin) : (s.setBasin b x).smb = s.smb := rfl
@[simp] theorem setBasin_sched (b : Nat) (x : Basin) : (s.setBasin b x).sched = s.sched := rfl
@[simp] theorem setBasin_trib (b : Nat) (x : Basin) : (s.setBasin b x).trib = s.trib := rfl
@[simp] theorem setBasin_ports (b : Nat) (x : Basin) : (s.setBasin b x).ports = s.ports := rfl
@[simp] theorem setBasin_fh (b : Nat) (x : Basin) : (s.setBasin b x).fh = s.fh := rfl
@[simp] theorem setBasin_flt (b : Nat) (x : Basin) : (s.setBasin b x).flt = s.flt := rfl
@[simp] theorem setBasin_pwr (b : Nat) (x : Basin) : (s.setBasin b x).pwr = s.pwr := rfl
@[simp] theorem setBasin_pins (b : Nat) (x : Basin) : (s.setBasin b x).pins = s.pins := rfl
@[simp] theorem setBasin_rx (b : Nat) (x : Basin) : (s.setBasin b x).rx = s.rx := rfl
@[simp] theorem setBasin_tx (b : Nat) (x : Basin) : (s.setBasin b x).tx = s.tx := rfl
@[simp] theorem setBasin_weir (b : Nat) (x : Basin) : (s.setBasin b x).weir = s.weir := rfl
@[simp] theorem setBasin_bkw (b : Nat) (x : Basin) : (s.setBasin b x).bkw = s.bkw := rfl
@[simp] theorem setBasin_dfe (b : Nat) (x : Basin) : (s.setBasin b x).dfe = s.dfe := rfl
@[simp] theorem setBasin_reg_eq (b : Nat) (x : Basin) (j : Nat) : (s.setBasin b x).reg j = s.reg j := rfl
@[simp] theorem setBasin_core_eq (b : Nat) (x : Basin) (j : Nat) : (s.setBasin b x).core j = s.core j := rfl
@[simp] theorem setBasin_fence_eq (b : Nat) (x : Basin) (k j : Nat) : (s.setBasin b x).fence k j = s.fence k j := rfl
@[simp] theorem setBasin_mailbox_eq (b : Nat) (x : Basin) (j : Nat) : (s.setBasin b x).mailbox j = s.mailbox j := rfl
@[simp] theorem setBasin_region_eq (b : Nat) (x : Basin) (j : Nat) : (s.setBasin b x).region j = s.region j := rfl
@[simp] theorem setBasin_quad_eq (b : Nat) (x : Basin) (j : Nat) : (s.setBasin b x).quad j = s.quad j := rfl
@[simp] theorem setBasin_port_eq (b : Nat) (x : Basin) (j : Nat) : (s.setBasin b x).port j = s.port j := rfl
@[simp] theorem setBasin_ns32_eq (b : Nat) (x : Basin) : (s.setBasin b x).ns32 = s.ns32 := rfl
@[simp] theorem setBasin_rxOf_eq (b : Nat) (x : Basin) (j : Nat) : (s.setBasin b x).rxOf j = s.rxOf j := rfl
@[simp] theorem setBasin_awake_eq (b : Nat) (x : Basin) : (s.setBasin b x).awake = s.awake := rfl
@[simp] theorem setBasin_memWf_eq (b : Nat) (x : Basin) : (s.setBasin b x).memWf = s.memWf := rfl

/-! `onTime` -/

@[simp] theorem onTime_pending (f : TimeSt → TimeSt) : (s.onTime f).pending = s.pending := rfl
@[simp] theorem onTime_freeCtr (f : TimeSt → TimeSt) : (s.onTime f).freeCtr = s.freeCtr := rfl
@[simp] theorem onTime_outs (f : TimeSt → TimeSt) : (s.onTime f).outs = s.outs := rfl
@[simp] theorem onTime_mode (f : TimeSt → TimeSt) : (s.onTime f).mode = s.mode := rfl
@[simp] theorem onTime_fuses (f : TimeSt → TimeSt) : (s.onTime f).fuses = s.fuses := rfl
@[simp] theorem onTime_boot (f : TimeSt → TimeSt) : (s.onTime f).boot = s.boot := rfl
@[simp] theorem onTime_ctl (f : TimeSt → TimeSt) : (s.onTime f).ctl = s.ctl := rfl
@[simp] theorem onTime_time (f : TimeSt → TimeSt) : (s.onTime f).time = f s.time := rfl
@[simp] theorem onTime_cores (f : TimeSt → TimeSt) : (s.onTime f).cores = s.cores := rfl
@[simp] theorem onTime_l2p (f : TimeSt → TimeSt) : (s.onTime f).l2p = s.l2p := rfl
@[simp] theorem onTime_fences (f : TimeSt → TimeSt) : (s.onTime f).fences = s.fences := rfl
@[simp] theorem onTime_mem (f : TimeSt → TimeSt) : (s.onTime f).mem = s.mem := rfl
@[simp] theorem onTime_poison (f : TimeSt → TimeSt) : (s.onTime f).poison = s.poison := rfl
@[simp] theorem onTime_host (f : TimeSt → TimeSt) : (s.onTime f).host = s.host := rfl
@[simp] theorem onTime_arbs (f : TimeSt → TimeSt) : (s.onTime f).arbs = s.arbs := rfl
@[simp] theorem onTime_scrub (f : TimeSt → TimeSt) : (s.onTime f).scrub = s.scrub := rfl
@[simp] theorem onTime_dramOn (f : TimeSt → TimeSt) : (s.onTime f).dramOn = s.dramOn := rfl
@[simp] theorem onTime_dramPairs (f : TimeSt → TimeSt) : (s.onTime f).dramPairs = s.dramPairs := rfl
@[simp] theorem onTime_refreshX2 (f : TimeSt → TimeSt) : (s.onTime f).refreshX2 = s.refreshX2 := rfl
@[simp] theorem onTime_img (f : TimeSt → TimeSt) : (s.onTime f).img = s.img := rfl
@[simp] theorem onTime_func (f : TimeSt → TimeSt) : (s.onTime f).func = s.func := rfl
@[simp] theorem onTime_mbx (f : TimeSt → TimeSt) : (s.onTime f).mbx = s.mbx := rfl
@[simp] theorem onTime_wq (f : TimeSt → TimeSt) : (s.onTime f).wq = s.wq := rfl
@[simp] theorem onTime_async (f : TimeSt → TimeSt) : (s.onTime f).async = s.async := rfl
@[simp] theorem onTime_basins (f : TimeSt → TimeSt) : (s.onTime f).basins = s.basins := rfl
@[simp] theorem onTime_aeq (f : TimeSt → TimeSt) : (s.onTime f).aeq = s.aeq := rfl
@[simp] theorem onTime_aeqShadow (f : TimeSt → TimeSt) : (s.onTime f).aeqShadow = s.aeqShadow := rfl
@[simp] theorem onTime_aeqDue (f : TimeSt → TimeSt) : (s.onTime f).aeqDue = s.aeqDue := rfl
@[simp] theorem onTime_aeqLost (f : TimeSt → TimeSt) : (s.onTime f).aeqLost = s.aeqLost := rfl
@[simp] theorem onTime_atu (f : TimeSt → TimeSt) : (s.onTime f).atu = s.atu := rfl
@[simp] theorem onTime_smb (f : TimeSt → TimeSt) : (s.onTime f).smb = s.smb := rfl
@[simp] theorem onTime_sched (f : TimeSt → TimeSt) : (s.onTime f).sched = s.sched := rfl
@[simp] theorem onTime_trib (f : TimeSt → TimeSt) : (s.onTime f).trib = s.trib := rfl
@[simp] theorem onTime_ports (f : TimeSt → TimeSt) : (s.onTime f).ports = s.ports := rfl
@[simp] theorem onTime_fh (f : TimeSt → TimeSt) : (s.onTime f).fh = s.fh := rfl
@[simp] theorem onTime_flt (f : TimeSt → TimeSt) : (s.onTime f).flt = s.flt := rfl
@[simp] theorem onTime_pwr (f : TimeSt → TimeSt) : (s.onTime f).pwr = s.pwr := rfl
@[simp] theorem onTime_pins (f : TimeSt → TimeSt) : (s.onTime f).pins = s.pins := rfl
@[simp] theorem onTime_rx (f : TimeSt → TimeSt) : (s.onTime f).rx = s.rx := rfl
@[simp] theorem onTime_tx (f : TimeSt → TimeSt) : (s.onTime f).tx = s.tx := rfl
@[simp] theorem onTime_weir (f : TimeSt → TimeSt) : (s.onTime f).weir = s.weir := rfl
@[simp] theorem onTime_bkw (f : TimeSt → TimeSt) : (s.onTime f).bkw = s.bkw := rfl
@[simp] theorem onTime_dfe (f : TimeSt → TimeSt) : (s.onTime f).dfe = s.dfe := rfl
@[simp] theorem onTime_reg_eq (f : TimeSt → TimeSt) (j : Nat) : (s.onTime f).reg j = s.reg j := rfl
@[simp] theorem onTime_core_eq (f : TimeSt → TimeSt) (j : Nat) : (s.onTime f).core j = s.core j := rfl
@[simp] theorem onTime_fence_eq (f : TimeSt → TimeSt) (k j : Nat) : (s.onTime f).fence k j = s.fence k j := rfl
@[simp] theorem onTime_mailbox_eq (f : TimeSt → TimeSt) (j : Nat) : (s.onTime f).mailbox j = s.mailbox j := rfl
@[simp] theorem onTime_basin_eq (f : TimeSt → TimeSt) (j : Nat) : (s.onTime f).basin j = s.basin j := rfl
@[simp] theorem onTime_region_eq (f : TimeSt → TimeSt) (j : Nat) : (s.onTime f).region j = s.region j := rfl
@[simp] theorem onTime_quad_eq (f : TimeSt → TimeSt) (j : Nat) : (s.onTime f).quad j = s.quad j := rfl
@[simp] theorem onTime_port_eq (f : TimeSt → TimeSt) (j : Nat) : (s.onTime f).port j = s.port j := rfl
@[simp] theorem onTime_rxOf_eq (f : TimeSt → TimeSt) (j : Nat) : (s.onTime f).rxOf j = s.rxOf j := rfl
@[simp] theorem onTime_awake_eq (f : TimeSt → TimeSt) : (s.onTime f).awake = s.awake := rfl
@[simp] theorem onTime_memWf_eq (f : TimeSt → TimeSt) : (s.onTime f).memWf = s.memWf := rfl

/-! `onFlt` -/

@[simp] theorem onFlt_pending (f : Flt → Flt) : (s.onFlt f).pending = s.pending := rfl
@[simp] theorem onFlt_freeCtr (f : Flt → Flt) : (s.onFlt f).freeCtr = s.freeCtr := rfl
@[simp] theorem onFlt_outs (f : Flt → Flt) : (s.onFlt f).outs = s.outs := rfl
@[simp] theorem onFlt_mode (f : Flt → Flt) : (s.onFlt f).mode = s.mode := rfl
@[simp] theorem onFlt_fuses (f : Flt → Flt) : (s.onFlt f).fuses = s.fuses := rfl
@[simp] theorem onFlt_boot (f : Flt → Flt) : (s.onFlt f).boot = s.boot := rfl
@[simp] theorem onFlt_ctl (f : Flt → Flt) : (s.onFlt f).ctl = s.ctl := rfl
@[simp] theorem onFlt_time (f : Flt → Flt) : (s.onFlt f).time = s.time := rfl
@[simp] theorem onFlt_cores (f : Flt → Flt) : (s.onFlt f).cores = s.cores := rfl
@[simp] theorem onFlt_l2p (f : Flt → Flt) : (s.onFlt f).l2p = s.l2p := rfl
@[simp] theorem onFlt_fences (f : Flt → Flt) : (s.onFlt f).fences = s.fences := rfl
@[simp] theorem onFlt_mem (f : Flt → Flt) : (s.onFlt f).mem = s.mem := rfl
@[simp] theorem onFlt_poison (f : Flt → Flt) : (s.onFlt f).poison = s.poison := rfl
@[simp] theorem onFlt_host (f : Flt → Flt) : (s.onFlt f).host = s.host := rfl
@[simp] theorem onFlt_arbs (f : Flt → Flt) : (s.onFlt f).arbs = s.arbs := rfl
@[simp] theorem onFlt_scrub (f : Flt → Flt) : (s.onFlt f).scrub = s.scrub := rfl
@[simp] theorem onFlt_dramOn (f : Flt → Flt) : (s.onFlt f).dramOn = s.dramOn := rfl
@[simp] theorem onFlt_dramPairs (f : Flt → Flt) : (s.onFlt f).dramPairs = s.dramPairs := rfl
@[simp] theorem onFlt_refreshX2 (f : Flt → Flt) : (s.onFlt f).refreshX2 = s.refreshX2 := rfl
@[simp] theorem onFlt_img (f : Flt → Flt) : (s.onFlt f).img = s.img := rfl
@[simp] theorem onFlt_func (f : Flt → Flt) : (s.onFlt f).func = s.func := rfl
@[simp] theorem onFlt_mbx (f : Flt → Flt) : (s.onFlt f).mbx = s.mbx := rfl
@[simp] theorem onFlt_wq (f : Flt → Flt) : (s.onFlt f).wq = s.wq := rfl
@[simp] theorem onFlt_async (f : Flt → Flt) : (s.onFlt f).async = s.async := rfl
@[simp] theorem onFlt_basins (f : Flt → Flt) : (s.onFlt f).basins = s.basins := rfl
@[simp] theorem onFlt_aeq (f : Flt → Flt) : (s.onFlt f).aeq = s.aeq := rfl
@[simp] theorem onFlt_aeqShadow (f : Flt → Flt) : (s.onFlt f).aeqShadow = s.aeqShadow := rfl
@[simp] theorem onFlt_aeqDue (f : Flt → Flt) : (s.onFlt f).aeqDue = s.aeqDue := rfl
@[simp] theorem onFlt_aeqLost (f : Flt → Flt) : (s.onFlt f).aeqLost = s.aeqLost := rfl
@[simp] theorem onFlt_atu (f : Flt → Flt) : (s.onFlt f).atu = s.atu := rfl
@[simp] theorem onFlt_smb (f : Flt → Flt) : (s.onFlt f).smb = s.smb := rfl
@[simp] theorem onFlt_sched (f : Flt → Flt) : (s.onFlt f).sched = s.sched := rfl
@[simp] theorem onFlt_trib (f : Flt → Flt) : (s.onFlt f).trib = s.trib := rfl
@[simp] theorem onFlt_ports (f : Flt → Flt) : (s.onFlt f).ports = s.ports := rfl
@[simp] theorem onFlt_fh (f : Flt → Flt) : (s.onFlt f).fh = s.fh := rfl
@[simp] theorem onFlt_flt (f : Flt → Flt) : (s.onFlt f).flt = f s.flt := rfl
@[simp] theorem onFlt_pwr (f : Flt → Flt) : (s.onFlt f).pwr = s.pwr := rfl
@[simp] theorem onFlt_pins (f : Flt → Flt) : (s.onFlt f).pins = s.pins := rfl
@[simp] theorem onFlt_rx (f : Flt → Flt) : (s.onFlt f).rx = s.rx := rfl
@[simp] theorem onFlt_tx (f : Flt → Flt) : (s.onFlt f).tx = s.tx := rfl
@[simp] theorem onFlt_weir (f : Flt → Flt) : (s.onFlt f).weir = s.weir := rfl
@[simp] theorem onFlt_bkw (f : Flt → Flt) : (s.onFlt f).bkw = s.bkw := rfl
@[simp] theorem onFlt_dfe (f : Flt → Flt) : (s.onFlt f).dfe = s.dfe := rfl
@[simp] theorem onFlt_reg_eq (f : Flt → Flt) (j : Nat) : (s.onFlt f).reg j = s.reg j := rfl
@[simp] theorem onFlt_core_eq (f : Flt → Flt) (j : Nat) : (s.onFlt f).core j = s.core j := rfl
@[simp] theorem onFlt_fence_eq (f : Flt → Flt) (k j : Nat) : (s.onFlt f).fence k j = s.fence k j := rfl
@[simp] theorem onFlt_mailbox_eq (f : Flt → Flt) (j : Nat) : (s.onFlt f).mailbox j = s.mailbox j := rfl
@[simp] theorem onFlt_basin_eq (f : Flt → Flt) (j : Nat) : (s.onFlt f).basin j = s.basin j := rfl
@[simp] theorem onFlt_region_eq (f : Flt → Flt) (j : Nat) : (s.onFlt f).region j = s.region j := rfl
@[simp] theorem onFlt_quad_eq (f : Flt → Flt) (j : Nat) : (s.onFlt f).quad j = s.quad j := rfl
@[simp] theorem onFlt_port_eq (f : Flt → Flt) (j : Nat) : (s.onFlt f).port j = s.port j := rfl
@[simp] theorem onFlt_ns32_eq (f : Flt → Flt) : (s.onFlt f).ns32 = s.ns32 := rfl
@[simp] theorem onFlt_rxOf_eq (f : Flt → Flt) (j : Nat) : (s.onFlt f).rxOf j = s.rxOf j := rfl
@[simp] theorem onFlt_awake_eq (f : Flt → Flt) : (s.onFlt f).awake = s.awake := rfl
@[simp] theorem onFlt_memWf_eq (f : Flt → Flt) : (s.onFlt f).memWf = s.memWf := rfl

/-! `setJobs` -/

@[simp] theorem setJobs_pending (js : List Job) : (s.setJobs js).pending = s.pending := rfl
@[simp] theorem setJobs_freeCtr (js : List Job) : (s.setJobs js).freeCtr = s.freeCtr := rfl
@[simp] theorem setJobs_outs (js : List Job) : (s.setJobs js).outs = s.outs := rfl
@[simp] theorem setJobs_mode (js : List Job) : (s.setJobs js).mode = s.mode := rfl
@[simp] theorem setJobs_fuses (js : List Job) : (s.setJobs js).fuses = s.fuses := rfl
@[simp] theorem setJobs_boot (js : List Job) : (s.setJobs js).boot = s.boot := rfl
@[simp] theorem setJobs_ctl (js : List Job) : (s.setJobs js).ctl = s.ctl := rfl
@[simp] theorem setJobs_time (js : List Job) : (s.setJobs js).time = s.time := rfl
@[simp] theorem setJobs_cores (js : List Job) : (s.setJobs js).cores = s.cores := rfl
@[simp] theorem setJobs_l2p (js : List Job) : (s.setJobs js).l2p = s.l2p := rfl
@[simp] theorem setJobs_fences (js : List Job) : (s.setJobs js).fences = s.fences := rfl
@[simp] theorem setJobs_mem (js : List Job) : (s.setJobs js).mem = s.mem := rfl
@[simp] theorem setJobs_poison (js : List Job) : (s.setJobs js).poison = s.poison := rfl
@[simp] theorem setJobs_host (js : List Job) : (s.setJobs js).host = s.host := rfl
@[simp] theorem setJobs_arbs (js : List Job) : (s.setJobs js).arbs = s.arbs := rfl
@[simp] theorem setJobs_scrub (js : List Job) : (s.setJobs js).scrub = s.scrub := rfl
@[simp] theorem setJobs_dramOn (js : List Job) : (s.setJobs js).dramOn = s.dramOn := rfl
@[simp] theorem setJobs_dramPairs (js : List Job) : (s.setJobs js).dramPairs = s.dramPairs := rfl
@[simp] theorem setJobs_refreshX2 (js : List Job) : (s.setJobs js).refreshX2 = s.refreshX2 := rfl
@[simp] theorem setJobs_img (js : List Job) : (s.setJobs js).img = s.img := rfl
@[simp] theorem setJobs_func (js : List Job) : (s.setJobs js).func = s.func := rfl
@[simp] theorem setJobs_mbx (js : List Job) : (s.setJobs js).mbx = s.mbx := rfl
@[simp] theorem setJobs_wq (js : List Job) : (s.setJobs js).wq = s.wq := rfl
@[simp] theorem setJobs_async (js : List Job) : (s.setJobs js).async = s.async := rfl
@[simp] theorem setJobs_basins (js : List Job) : (s.setJobs js).basins = s.basins := rfl
@[simp] theorem setJobs_aeq (js : List Job) : (s.setJobs js).aeq = s.aeq := rfl
@[simp] theorem setJobs_aeqShadow (js : List Job) : (s.setJobs js).aeqShadow = s.aeqShadow := rfl
@[simp] theorem setJobs_aeqDue (js : List Job) : (s.setJobs js).aeqDue = s.aeqDue := rfl
@[simp] theorem setJobs_aeqLost (js : List Job) : (s.setJobs js).aeqLost = s.aeqLost := rfl
@[simp] theorem setJobs_atu (js : List Job) : (s.setJobs js).atu = s.atu := rfl
@[simp] theorem setJobs_smb (js : List Job) : (s.setJobs js).smb = s.smb := rfl
@[simp] theorem setJobs_sched (js : List Job) : (s.setJobs js).sched = { s.sched with jobs := js } := rfl
@[simp] theorem setJobs_trib (js : List Job) : (s.setJobs js).trib = s.trib := rfl
@[simp] theorem setJobs_ports (js : List Job) : (s.setJobs js).ports = s.ports := rfl
@[simp] theorem setJobs_fh (js : List Job) : (s.setJobs js).fh = s.fh := rfl
@[simp] theorem setJobs_flt (js : List Job) : (s.setJobs js).flt = s.flt := rfl
@[simp] theorem setJobs_pwr (js : List Job) : (s.setJobs js).pwr = s.pwr := rfl
@[simp] theorem setJobs_pins (js : List Job) : (s.setJobs js).pins = s.pins := rfl
@[simp] theorem setJobs_rx (js : List Job) : (s.setJobs js).rx = s.rx := rfl
@[simp] theorem setJobs_tx (js : List Job) : (s.setJobs js).tx = s.tx := rfl
@[simp] theorem setJobs_weir (js : List Job) : (s.setJobs js).weir = s.weir := rfl
@[simp] theorem setJobs_bkw (js : List Job) : (s.setJobs js).bkw = s.bkw := rfl
@[simp] theorem setJobs_dfe (js : List Job) : (s.setJobs js).dfe = s.dfe := rfl
@[simp] theorem setJobs_reg_eq (js : List Job) (j : Nat) : (s.setJobs js).reg j = s.reg j := rfl
@[simp] theorem setJobs_core_eq (js : List Job) (j : Nat) : (s.setJobs js).core j = s.core j := rfl
@[simp] theorem setJobs_fence_eq (js : List Job) (k j : Nat) : (s.setJobs js).fence k j = s.fence k j := rfl
@[simp] theorem setJobs_mailbox_eq (js : List Job) (j : Nat) : (s.setJobs js).mailbox j = s.mailbox j := rfl
@[simp] theorem setJobs_basin_eq (js : List Job) (j : Nat) : (s.setJobs js).basin j = s.basin j := rfl
@[simp] theorem setJobs_region_eq (js : List Job) (j : Nat) : (s.setJobs js).region j = s.region j := rfl
@[simp] theorem setJobs_quad_eq (js : List Job) (j : Nat) : (s.setJobs js).quad j = s.quad j := rfl
@[simp] theorem setJobs_port_eq (js : List Job) (j : Nat) : (s.setJobs js).port j = s.port j := rfl
@[simp] theorem setJobs_ns32_eq (js : List Job) : (s.setJobs js).ns32 = s.ns32 := rfl
@[simp] theorem setJobs_rxOf_eq (js : List Job) (j : Nat) : (s.setJobs js).rxOf j = s.rxOf j := rfl
@[simp] theorem setJobs_awake_eq (js : List Job) : (s.setJobs js).awake = s.awake := rfl
@[simp] theorem setJobs_memWf_eq (js : List Job) : (s.setJobs js).memWf = s.memWf := rfl

/-! `onBkw` -/

@[simp] theorem onBkw_pending (f : Bkw → Bkw) : (s.onBkw f).pending = s.pending := rfl
@[simp] theorem onBkw_freeCtr (f : Bkw → Bkw) : (s.onBkw f).freeCtr = s.freeCtr := rfl
@[simp] theorem onBkw_outs (f : Bkw → Bkw) : (s.onBkw f).outs = s.outs := rfl
@[simp] theorem onBkw_mode (f : Bkw → Bkw) : (s.onBkw f).mode = s.mode := rfl
@[simp] theorem onBkw_fuses (f : Bkw → Bkw) : (s.onBkw f).fuses = s.fuses := rfl
@[simp] theorem onBkw_boot (f : Bkw → Bkw) : (s.onBkw f).boot = s.boot := rfl
@[simp] theorem onBkw_ctl (f : Bkw → Bkw) : (s.onBkw f).ctl = s.ctl := rfl
@[simp] theorem onBkw_time (f : Bkw → Bkw) : (s.onBkw f).time = s.time := rfl
@[simp] theorem onBkw_cores (f : Bkw → Bkw) : (s.onBkw f).cores = s.cores := rfl
@[simp] theorem onBkw_l2p (f : Bkw → Bkw) : (s.onBkw f).l2p = s.l2p := rfl
@[simp] theorem onBkw_fences (f : Bkw → Bkw) : (s.onBkw f).fences = s.fences := rfl
@[simp] theorem onBkw_mem (f : Bkw → Bkw) : (s.onBkw f).mem = s.mem := rfl
@[simp] theorem onBkw_poison (f : Bkw → Bkw) : (s.onBkw f).poison = s.poison := rfl
@[simp] theorem onBkw_host (f : Bkw → Bkw) : (s.onBkw f).host = s.host := rfl
@[simp] theorem onBkw_arbs (f : Bkw → Bkw) : (s.onBkw f).arbs = s.arbs := rfl
@[simp] theorem onBkw_scrub (f : Bkw → Bkw) : (s.onBkw f).scrub = s.scrub := rfl
@[simp] theorem onBkw_dramOn (f : Bkw → Bkw) : (s.onBkw f).dramOn = s.dramOn := rfl
@[simp] theorem onBkw_dramPairs (f : Bkw → Bkw) : (s.onBkw f).dramPairs = s.dramPairs := rfl
@[simp] theorem onBkw_refreshX2 (f : Bkw → Bkw) : (s.onBkw f).refreshX2 = s.refreshX2 := rfl
@[simp] theorem onBkw_img (f : Bkw → Bkw) : (s.onBkw f).img = s.img := rfl
@[simp] theorem onBkw_func (f : Bkw → Bkw) : (s.onBkw f).func = s.func := rfl
@[simp] theorem onBkw_mbx (f : Bkw → Bkw) : (s.onBkw f).mbx = s.mbx := rfl
@[simp] theorem onBkw_wq (f : Bkw → Bkw) : (s.onBkw f).wq = s.wq := rfl
@[simp] theorem onBkw_async (f : Bkw → Bkw) : (s.onBkw f).async = s.async := rfl
@[simp] theorem onBkw_basins (f : Bkw → Bkw) : (s.onBkw f).basins = s.basins := rfl
@[simp] theorem onBkw_aeq (f : Bkw → Bkw) : (s.onBkw f).aeq = s.aeq := rfl
@[simp] theorem onBkw_aeqShadow (f : Bkw → Bkw) : (s.onBkw f).aeqShadow = s.aeqShadow := rfl
@[simp] theorem onBkw_aeqDue (f : Bkw → Bkw) : (s.onBkw f).aeqDue = s.aeqDue := rfl
@[simp] theorem onBkw_aeqLost (f : Bkw → Bkw) : (s.onBkw f).aeqLost = s.aeqLost := rfl
@[simp] theorem onBkw_atu (f : Bkw → Bkw) : (s.onBkw f).atu = s.atu := rfl
@[simp] theorem onBkw_smb (f : Bkw → Bkw) : (s.onBkw f).smb = s.smb := rfl
@[simp] theorem onBkw_sched (f : Bkw → Bkw) : (s.onBkw f).sched = s.sched := rfl
@[simp] theorem onBkw_trib (f : Bkw → Bkw) : (s.onBkw f).trib = s.trib := rfl
@[simp] theorem onBkw_ports (f : Bkw → Bkw) : (s.onBkw f).ports = s.ports := rfl
@[simp] theorem onBkw_fh (f : Bkw → Bkw) : (s.onBkw f).fh = s.fh := rfl
@[simp] theorem onBkw_flt (f : Bkw → Bkw) : (s.onBkw f).flt = s.flt := rfl
@[simp] theorem onBkw_pwr (f : Bkw → Bkw) : (s.onBkw f).pwr = s.pwr := rfl
@[simp] theorem onBkw_pins (f : Bkw → Bkw) : (s.onBkw f).pins = s.pins := rfl
@[simp] theorem onBkw_rx (f : Bkw → Bkw) : (s.onBkw f).rx = s.rx := rfl
@[simp] theorem onBkw_tx (f : Bkw → Bkw) : (s.onBkw f).tx = s.tx := rfl
@[simp] theorem onBkw_weir (f : Bkw → Bkw) : (s.onBkw f).weir = s.weir := rfl
@[simp] theorem onBkw_bkw (f : Bkw → Bkw) : (s.onBkw f).bkw = f s.bkw := rfl
@[simp] theorem onBkw_dfe (f : Bkw → Bkw) : (s.onBkw f).dfe = s.dfe := rfl
@[simp] theorem onBkw_reg_eq (f : Bkw → Bkw) (j : Nat) : (s.onBkw f).reg j = s.reg j := rfl
@[simp] theorem onBkw_core_eq (f : Bkw → Bkw) (j : Nat) : (s.onBkw f).core j = s.core j := rfl
@[simp] theorem onBkw_fence_eq (f : Bkw → Bkw) (k j : Nat) : (s.onBkw f).fence k j = s.fence k j := rfl
@[simp] theorem onBkw_mailbox_eq (f : Bkw → Bkw) (j : Nat) : (s.onBkw f).mailbox j = s.mailbox j := rfl
@[simp] theorem onBkw_basin_eq (f : Bkw → Bkw) (j : Nat) : (s.onBkw f).basin j = s.basin j := rfl
@[simp] theorem onBkw_quad_eq (f : Bkw → Bkw) (j : Nat) : (s.onBkw f).quad j = s.quad j := rfl
@[simp] theorem onBkw_port_eq (f : Bkw → Bkw) (j : Nat) : (s.onBkw f).port j = s.port j := rfl
@[simp] theorem onBkw_ns32_eq (f : Bkw → Bkw) : (s.onBkw f).ns32 = s.ns32 := rfl
@[simp] theorem onBkw_rxOf_eq (f : Bkw → Bkw) (j : Nat) : (s.onBkw f).rxOf j = s.rxOf j := rfl
@[simp] theorem onBkw_awake_eq (f : Bkw → Bkw) : (s.onBkw f).awake = s.awake := rfl
@[simp] theorem onBkw_memWf_eq (f : Bkw → Bkw) : (s.onBkw f).memWf = s.memWf := rfl

/-! `setRegion` -/

@[simp] theorem setRegion_pending (i : Nat) (r : Region) : (s.setRegion i r).pending = s.pending := rfl
@[simp] theorem setRegion_freeCtr (i : Nat) (r : Region) : (s.setRegion i r).freeCtr = s.freeCtr := rfl
@[simp] theorem setRegion_outs (i : Nat) (r : Region) : (s.setRegion i r).outs = s.outs := rfl
@[simp] theorem setRegion_mode (i : Nat) (r : Region) : (s.setRegion i r).mode = s.mode := rfl
@[simp] theorem setRegion_fuses (i : Nat) (r : Region) : (s.setRegion i r).fuses = s.fuses := rfl
@[simp] theorem setRegion_boot (i : Nat) (r : Region) : (s.setRegion i r).boot = s.boot := rfl
@[simp] theorem setRegion_ctl (i : Nat) (r : Region) : (s.setRegion i r).ctl = s.ctl := rfl
@[simp] theorem setRegion_time (i : Nat) (r : Region) : (s.setRegion i r).time = s.time := rfl
@[simp] theorem setRegion_cores (i : Nat) (r : Region) : (s.setRegion i r).cores = s.cores := rfl
@[simp] theorem setRegion_l2p (i : Nat) (r : Region) : (s.setRegion i r).l2p = s.l2p := rfl
@[simp] theorem setRegion_fences (i : Nat) (r : Region) : (s.setRegion i r).fences = s.fences := rfl
@[simp] theorem setRegion_mem (i : Nat) (r : Region) : (s.setRegion i r).mem = s.mem := rfl
@[simp] theorem setRegion_poison (i : Nat) (r : Region) : (s.setRegion i r).poison = s.poison := rfl
@[simp] theorem setRegion_host (i : Nat) (r : Region) : (s.setRegion i r).host = s.host := rfl
@[simp] theorem setRegion_arbs (i : Nat) (r : Region) : (s.setRegion i r).arbs = s.arbs := rfl
@[simp] theorem setRegion_scrub (i : Nat) (r : Region) : (s.setRegion i r).scrub = s.scrub := rfl
@[simp] theorem setRegion_dramOn (i : Nat) (r : Region) : (s.setRegion i r).dramOn = s.dramOn := rfl
@[simp] theorem setRegion_dramPairs (i : Nat) (r : Region) : (s.setRegion i r).dramPairs = s.dramPairs := rfl
@[simp] theorem setRegion_refreshX2 (i : Nat) (r : Region) : (s.setRegion i r).refreshX2 = s.refreshX2 := rfl
@[simp] theorem setRegion_img (i : Nat) (r : Region) : (s.setRegion i r).img = s.img := rfl
@[simp] theorem setRegion_func (i : Nat) (r : Region) : (s.setRegion i r).func = s.func := rfl
@[simp] theorem setRegion_mbx (i : Nat) (r : Region) : (s.setRegion i r).mbx = s.mbx := rfl
@[simp] theorem setRegion_wq (i : Nat) (r : Region) : (s.setRegion i r).wq = s.wq := rfl
@[simp] theorem setRegion_async (i : Nat) (r : Region) : (s.setRegion i r).async = s.async := rfl
@[simp] theorem setRegion_basins (i : Nat) (r : Region) : (s.setRegion i r).basins = s.basins := rfl
@[simp] theorem setRegion_aeq (i : Nat) (r : Region) : (s.setRegion i r).aeq = s.aeq := rfl
@[simp] theorem setRegion_aeqShadow (i : Nat) (r : Region) : (s.setRegion i r).aeqShadow = s.aeqShadow := rfl
@[simp] theorem setRegion_aeqDue (i : Nat) (r : Region) : (s.setRegion i r).aeqDue = s.aeqDue := rfl
@[simp] theorem setRegion_aeqLost (i : Nat) (r : Region) : (s.setRegion i r).aeqLost = s.aeqLost := rfl
@[simp] theorem setRegion_atu (i : Nat) (r : Region) : (s.setRegion i r).atu = s.atu := rfl
@[simp] theorem setRegion_smb (i : Nat) (r : Region) : (s.setRegion i r).smb = s.smb := rfl
@[simp] theorem setRegion_sched (i : Nat) (r : Region) : (s.setRegion i r).sched = s.sched := rfl
@[simp] theorem setRegion_trib (i : Nat) (r : Region) : (s.setRegion i r).trib = s.trib := rfl
@[simp] theorem setRegion_ports (i : Nat) (r : Region) : (s.setRegion i r).ports = s.ports := rfl
@[simp] theorem setRegion_fh (i : Nat) (r : Region) : (s.setRegion i r).fh = s.fh := rfl
@[simp] theorem setRegion_flt (i : Nat) (r : Region) : (s.setRegion i r).flt = s.flt := rfl
@[simp] theorem setRegion_pwr (i : Nat) (r : Region) : (s.setRegion i r).pwr = s.pwr := rfl
@[simp] theorem setRegion_pins (i : Nat) (r : Region) : (s.setRegion i r).pins = s.pins := rfl
@[simp] theorem setRegion_rx (i : Nat) (r : Region) : (s.setRegion i r).rx = s.rx := rfl
@[simp] theorem setRegion_tx (i : Nat) (r : Region) : (s.setRegion i r).tx = s.tx := rfl
@[simp] theorem setRegion_weir (i : Nat) (r : Region) : (s.setRegion i r).weir = s.weir := rfl
@[simp] theorem setRegion_bkw (i : Nat) (r : Region) : (s.setRegion i r).bkw = { s.bkw with regions := tset s.bkw.regions i r } := rfl
@[simp] theorem setRegion_dfe (i : Nat) (r : Region) : (s.setRegion i r).dfe = s.dfe := rfl
@[simp] theorem setRegion_reg_eq (i : Nat) (r : Region) (j : Nat) : (s.setRegion i r).reg j = s.reg j := rfl
@[simp] theorem setRegion_core_eq (i : Nat) (r : Region) (j : Nat) : (s.setRegion i r).core j = s.core j := rfl
@[simp] theorem setRegion_fence_eq (i : Nat) (r : Region) (k j : Nat) : (s.setRegion i r).fence k j = s.fence k j := rfl
@[simp] theorem setRegion_mailbox_eq (i : Nat) (r : Region) (j : Nat) : (s.setRegion i r).mailbox j = s.mailbox j := rfl
@[simp] theorem setRegion_basin_eq (i : Nat) (r : Region) (j : Nat) : (s.setRegion i r).basin j = s.basin j := rfl
@[simp] theorem setRegion_quad_eq (i : Nat) (r : Region) (j : Nat) : (s.setRegion i r).quad j = s.quad j := rfl
@[simp] theorem setRegion_port_eq (i : Nat) (r : Region) (j : Nat) : (s.setRegion i r).port j = s.port j := rfl
@[simp] theorem setRegion_ns32_eq (i : Nat) (r : Region) : (s.setRegion i r).ns32 = s.ns32 := rfl
@[simp] theorem setRegion_rxOf_eq (i : Nat) (r : Region) (j : Nat) : (s.setRegion i r).rxOf j = s.rxOf j := rfl
@[simp] theorem setRegion_awake_eq (i : Nat) (r : Region) : (s.setRegion i r).awake = s.awake := rfl
@[simp] theorem setRegion_memWf_eq (i : Nat) (r : Region) : (s.setRegion i r).memWf = s.memWf := rfl

/-! `setQuad` -/

@[simp] theorem setQuad_pending (q : Nat) (w : Weir) : (s.setQuad q w).pending = s.pending := rfl
@[simp] theorem setQuad_freeCtr (q : Nat) (w : Weir) : (s.setQuad q w).freeCtr = s.freeCtr := rfl
@[simp] theorem setQuad_outs (q : Nat) (w : Weir) : (s.setQuad q w).outs = s.outs := rfl
@[simp] theorem setQuad_mode (q : Nat) (w : Weir) : (s.setQuad q w).mode = s.mode := rfl
@[simp] theorem setQuad_fuses (q : Nat) (w : Weir) : (s.setQuad q w).fuses = s.fuses := rfl
@[simp] theorem setQuad_boot (q : Nat) (w : Weir) : (s.setQuad q w).boot = s.boot := rfl
@[simp] theorem setQuad_ctl (q : Nat) (w : Weir) : (s.setQuad q w).ctl = s.ctl := rfl
@[simp] theorem setQuad_time (q : Nat) (w : Weir) : (s.setQuad q w).time = s.time := rfl
@[simp] theorem setQuad_cores (q : Nat) (w : Weir) : (s.setQuad q w).cores = s.cores := rfl
@[simp] theorem setQuad_l2p (q : Nat) (w : Weir) : (s.setQuad q w).l2p = s.l2p := rfl
@[simp] theorem setQuad_fences (q : Nat) (w : Weir) : (s.setQuad q w).fences = s.fences := rfl
@[simp] theorem setQuad_mem (q : Nat) (w : Weir) : (s.setQuad q w).mem = s.mem := rfl
@[simp] theorem setQuad_poison (q : Nat) (w : Weir) : (s.setQuad q w).poison = s.poison := rfl
@[simp] theorem setQuad_host (q : Nat) (w : Weir) : (s.setQuad q w).host = s.host := rfl
@[simp] theorem setQuad_arbs (q : Nat) (w : Weir) : (s.setQuad q w).arbs = s.arbs := rfl
@[simp] theorem setQuad_scrub (q : Nat) (w : Weir) : (s.setQuad q w).scrub = s.scrub := rfl
@[simp] theorem setQuad_dramOn (q : Nat) (w : Weir) : (s.setQuad q w).dramOn = s.dramOn := rfl
@[simp] theorem setQuad_dramPairs (q : Nat) (w : Weir) : (s.setQuad q w).dramPairs = s.dramPairs := rfl
@[simp] theorem setQuad_refreshX2 (q : Nat) (w : Weir) : (s.setQuad q w).refreshX2 = s.refreshX2 := rfl
@[simp] theorem setQuad_img (q : Nat) (w : Weir) : (s.setQuad q w).img = s.img := rfl
@[simp] theorem setQuad_func (q : Nat) (w : Weir) : (s.setQuad q w).func = s.func := rfl
@[simp] theorem setQuad_mbx (q : Nat) (w : Weir) : (s.setQuad q w).mbx = s.mbx := rfl
@[simp] theorem setQuad_wq (q : Nat) (w : Weir) : (s.setQuad q w).wq = s.wq := rfl
@[simp] theorem setQuad_async (q : Nat) (w : Weir) : (s.setQuad q w).async = s.async := rfl
@[simp] theorem setQuad_basins (q : Nat) (w : Weir) : (s.setQuad q w).basins = s.basins := rfl
@[simp] theorem setQuad_aeq (q : Nat) (w : Weir) : (s.setQuad q w).aeq = s.aeq := rfl
@[simp] theorem setQuad_aeqShadow (q : Nat) (w : Weir) : (s.setQuad q w).aeqShadow = s.aeqShadow := rfl
@[simp] theorem setQuad_aeqDue (q : Nat) (w : Weir) : (s.setQuad q w).aeqDue = s.aeqDue := rfl
@[simp] theorem setQuad_aeqLost (q : Nat) (w : Weir) : (s.setQuad q w).aeqLost = s.aeqLost := rfl
@[simp] theorem setQuad_atu (q : Nat) (w : Weir) : (s.setQuad q w).atu = s.atu := rfl
@[simp] theorem setQuad_smb (q : Nat) (w : Weir) : (s.setQuad q w).smb = s.smb := rfl
@[simp] theorem setQuad_sched (q : Nat) (w : Weir) : (s.setQuad q w).sched = s.sched := rfl
@[simp] theorem setQuad_trib (q : Nat) (w : Weir) : (s.setQuad q w).trib = s.trib := rfl
@[simp] theorem setQuad_ports (q : Nat) (w : Weir) : (s.setQuad q w).ports = s.ports := rfl
@[simp] theorem setQuad_fh (q : Nat) (w : Weir) : (s.setQuad q w).fh = s.fh := rfl
@[simp] theorem setQuad_flt (q : Nat) (w : Weir) : (s.setQuad q w).flt = s.flt := rfl
@[simp] theorem setQuad_pwr (q : Nat) (w : Weir) : (s.setQuad q w).pwr = s.pwr := rfl
@[simp] theorem setQuad_pins (q : Nat) (w : Weir) : (s.setQuad q w).pins = s.pins := rfl
@[simp] theorem setQuad_rx (q : Nat) (w : Weir) : (s.setQuad q w).rx = s.rx := rfl
@[simp] theorem setQuad_tx (q : Nat) (w : Weir) : (s.setQuad q w).tx = s.tx := rfl
@[simp] theorem setQuad_weir (q : Nat) (w : Weir) : (s.setQuad q w).weir = tset s.weir q w := rfl
@[simp] theorem setQuad_bkw (q : Nat) (w : Weir) : (s.setQuad q w).bkw = s.bkw := rfl
@[simp] theorem setQuad_dfe (q : Nat) (w : Weir) : (s.setQuad q w).dfe = s.dfe := rfl
@[simp] theorem setQuad_reg_eq (q : Nat) (w : Weir) (j : Nat) : (s.setQuad q w).reg j = s.reg j := rfl
@[simp] theorem setQuad_core_eq (q : Nat) (w : Weir) (j : Nat) : (s.setQuad q w).core j = s.core j := rfl
@[simp] theorem setQuad_fence_eq (q : Nat) (w : Weir) (k j : Nat) : (s.setQuad q w).fence k j = s.fence k j := rfl
@[simp] theorem setQuad_mailbox_eq (q : Nat) (w : Weir) (j : Nat) : (s.setQuad q w).mailbox j = s.mailbox j := rfl
@[simp] theorem setQuad_basin_eq (q : Nat) (w : Weir) (j : Nat) : (s.setQuad q w).basin j = s.basin j := rfl
@[simp] theorem setQuad_region_eq (q : Nat) (w : Weir) (j : Nat) : (s.setQuad q w).region j = s.region j := rfl
@[simp] theorem setQuad_port_eq (q : Nat) (w : Weir) (j : Nat) : (s.setQuad q w).port j = s.port j := rfl
@[simp] theorem setQuad_ns32_eq (q : Nat) (w : Weir) : (s.setQuad q w).ns32 = s.ns32 := rfl
@[simp] theorem setQuad_rxOf_eq (q : Nat) (w : Weir) (j : Nat) : (s.setQuad q w).rxOf j = s.rxOf j := rfl
@[simp] theorem setQuad_awake_eq (q : Nat) (w : Weir) : (s.setQuad q w).awake = s.awake := rfl
@[simp] theorem setQuad_memWf_eq (q : Nat) (w : Weir) : (s.setQuad q w).memWf = s.memWf := rfl

/-! The tables that these updates write. -/

@[simp] theorem setCore_core_self (p : Nat) (c : Core) : (s.setCore p c).core p = c := tget_tset_self _ _ _ _
@[simp] theorem setCore_core_ne {p q : Nat} (c : Core) (h : q ≠ p) : (s.setCore p c).core q = s.core q := tget_tset_ne _ _ _ h
@[simp] theorem setMailbox_self (m : Nat) (x : Mbx) : (s.setMailbox m x).mailbox m = x := tget_tset_self _ _ _ _
@[simp] theorem setMailbox_ne {m k : Nat} (x : Mbx) (h : k ≠ m) : (s.setMailbox m x).mailbox k = s.mailbox k := tget_tset_ne _ _ _ h
@[simp] theorem setBasin_self (b : Nat) (x : Basin) : (s.setBasin b x).basin b = x := tget_tset_self _ _ _ _
@[simp] theorem setBasin_ne {b k : Nat} (x : Basin) (h : k ≠ b) : (s.setBasin b x).basin k = s.basin k := tget_tset_ne _ _ _ h
@[simp] theorem setRegion_self (i : Nat) (r : Region) : (s.setRegion i r).region i = r := tget_tset_self _ _ _ _
@[simp] theorem setRegion_ne {i k : Nat} (r : Region) (h : k ≠ i) : (s.setRegion i r).region k = s.region k := tget_tset_ne _ _ _ h
@[simp] theorem setQuad_self (q : Nat) (w : Weir) : (s.setQuad q w).quad q = w := tget_tset_self _ _ _ _
@[simp] theorem setQuad_ne {q k : Nat} (w : Weir) (h : k ≠ q) : (s.setQuad q w).quad k = s.quad k := tget_tset_ne _ _ _ h

end State
end Sys2Proof.Machine
end

