-- ==== Sys2Proof/Laws/Time.lean ====
section
/-! SUPPORT. Time keeping (12): offset measurements, and what an admin event leaves where its ring is full. -/
namespace Sys2Proof.Machine
namespace State

/-- An admin event that finds the ring full is counted as lost, and nothing else (13 R511). -/
theorem adminEvent_full {s : State} (h : s.aeq.full = true) (type code seq mbx : Nat) (detail : List Byte) :
    s.adminEvent type code seq mbx detail = { s with aeqLost := s.aeqLost + 1 } := by
  unfold adminEvent
  rw [if_pos h]

theorem adminEvent_settled {s : State} (h : s.aeq.full = true) (type code seq mbx : Nat) (detail : List Byte) :
    (s.adminEvent type code seq mbx detail).settled = s.settled := by
  rw [adminEvent_full h]
  exact settled_of_regs rfl rfl rfl rfl rfl rfl

theorem onTime_settled (s : State) (f : TimeSt → TimeSt) : (s.onTime f).settled = s.settled := settled_of_regs rfl rfl rfl rfl rfl rfl

theorem putIncrement_settled (s : State) (v : Nat) : (s.putIncrement v).settled = s.settled := by
  unfold putIncrement
  dsimp only
  split
  · rw [event_settled _ (by decide), onTime_settled]
  · rw [onTime_settled]

theorem enterHoldover_settled (s : State) : s.enterHoldover.settled = s.settled := by
  unfold enterHoldover
  split
  · rfl
  · rw [event_settled _ (by decide), onTime_settled]

theorem enterHoldover_aeq (s : State) : s.enterHoldover.aeq = s.aeq := by
  unfold enterHoldover
  split <;> rfl

/-- An offset measurement leaves nothing undone, whatever the servo writes. -/
theorem measure_settled {s : State} (h : s.aeq.full = true) (off : Int) : (s.measure off).settled = s.settled := by
  unfold measure
  dsimp only
  split
  · split
    · refine (adminEvent_settled ?_ _ _ _ _ _).trans ?_
      · rw [enterHoldover_aeq]
        exact h
      · rw [enterHoldover_settled, event_settled _ (by decide), setReg_settled _ (by decide)]
    · refine (adminEvent_settled ?_ _ _ _ _ _).trans ?_
      · exact h
      · rw [onTime_settled, event_settled _ (by decide), setReg_settled _ (by decide)]
  · have locked : ∀ (c : Bool) (x : State), x.settled = s.settled →
        (if c = true then x.event Reg.TIME_STATUS Ev.TIME_LOCKED else x).settled = s.settled := by
      intro c x hx
      split
      · rw [event_settled _ (by decide), hx]
      · exact hx
    apply locked
    rw [putIncrement_settled, setReg_settled _ (by decide), setReg_settled _ (by decide), onTime_settled, setReg_settled _ (by decide)]

theorem choice_settled (s : State) (b : Nat) : (s.choice b).settled = s.settled := by
  unfold choice
  exact (event_settled _ (by decide)).trans (settled_of_regs rfl rfl rfl rfl rfl rfl)

theorem ptpClient_settled {s : State} (h : s.aeq.full = true) (k : Nat) (m : PtpMsg) (c : Int) : (s.ptpClient k m c).settled = s.settled := by
  have synced : ∀ f off, ((s.onTime f).measure off).settled = s.settled := fun f off =>
    (measure_settled (s := s.onTime f) h off).trans (onTime_settled s f)
  unfold ptpClient
  dsimp only
  split
  · split
    · exact onTime_settled _ _
    · exact synced _ _
  · split
    · exact synced _ _
    · rfl
  · exact onTime_settled _ _
  · split
    · exact onTime_settled _ _
    · rfl
  · split
    · rw [choice_settled, event_settled _ (by decide), onTime_settled]
    · rfl

/-- A PTP message leaves nothing undone. -/
theorem ptp_settled {s : State} (h : s.aeq.full = true) (k : Fin 8) (d : Byte) (m : PtpMsg) (c : Int) :
    (s.ptp k.val d m c).settled = s.settled := by
  have counted : ∀ b : Bool, (s.count (if b then Reg.CP_TX_FRAMES k.val else Reg.CP_RX_FRAMES k.val) 1).settled = s.settled := by
    intro b
    refine count_settled _ ?_
    revert k b
    decide +kernel
  have taken : ∀ a, (s.count a 1).settled = s.settled →
      (if ((s.count a 1).ptpPort k.val && bits ((s.count a 1).ctl.inForce Reg.TIME_PTP_CFG).toNat 31 24 == d.toNat) = true then
        (s.count a 1).ptpClient k.val m c else s.count a 1).settled = s.settled := by
    intro a ha
    split
    · exact (ptpClient_settled (s := s.count a 1) h k.val m c).trans ha
    · exact ha
  unfold ptp
  split
  · rfl
  · exact taken _ (counted _)

end State
end Sys2Proof.Machine
end

