-- ==== Sys2Proof/Tests/Slice0.lean ====
section
/-! SUPPORT. The model's own tests: ill-formed commands that the check refuses, and for every statement states and operands
that meet its hypotheses, clause by clause. -/
namespace Sys2Proof.Tests
open Sys2Proof.Machine

-- one proof after another: each thread that waits takes its stack from the memory limit
set_option Elab.async false

/-- The booted device. -/
def up : State := { State.reset with mode := .running }

/-- An idle mailbox. -/
def box : Mbx := State.reset.mailbox 0

/-- The booted device with every basin enabled. -/
def basins : State := up.setReg Reg.HOST_BASIN_EN 0xFF

/-- The booted device with command `cmd` of mailbox `m` at its server. -/
def srv (m : Nat) (cmd : List Byte) (s : State := basins) : State :=
  { s with mbx := [(m, { box with latched := padTo 64 cmd, st := 1 })], wq := [m] }

/-- A model region of kind 1 or 2, of reach records. -/
def regionOf (kind2 : Bool) (mus quads : List (Fin 4)) (id : BitVec 16) (a b st : Nat) (clusters : List (Fin 4)) : RegionDecl :=
  ⟨kind2, mus, quads, id, 2, a, b, st, clusters, [], 0, 0, 0⟩

/-- A flow image with a catchment of logical core 0 with core 1 as its spare, and a region of each kind. -/
def img : ImageFile where
  tag := 7
  sigOk := true
  key := 0
  rollback := 0
  catchments := [⟨3, false, none, [⟨0x3FFFF, 0, [1]⟩]⟩]
  cores := []
  regions := [regionOf false [0] [] 0 0x10000 0x20000 0x30000 [0], regionOf true [1] [0] 0 0 0 0x40000 []]
  envelope := 0
  rampMu := 0
  ramps := []
  idle := []
  levels := [3]
  namesOthers := false
  gridRing := 0
  reachRing := 0
  gramRing := 0
  staging := 0
  permTable := []
  phases := []
  parts := []
  modelA := 0
  modelB := 0

/-- A started device: function 0 runs. -/
def started : State := { basins with func := { basins.func with started := 1 } }

/-! ## Ill-formed commands -/

theorem test_wf_slot_write : (Instr.commandSlotWrite .pf 0 60 [1, 2, 3, 4, 5]).wellFormed = false ∧
    (Instr.commandSlotWrite .pf 0 60 []).wellFormed = false := by decide

/-! ## The queue and the mailboxes -/

theorem wit_StepRunsFront : ({ up with pending := [.lockTimeout 0] } : State).pending = .lockTimeout 0 :: [] ∧ up.pending = [] := by
  decide +kernel

/-- A function without the mailbox; BUSY; a doorbell out of sequence; one in sequence. -/
theorem wit_DoorbellTaken :
    (up.ready = true ∧ ¬(0 < 8 ∧ (up.basin 7).st = 2) ∧ up.fnServes (.vf 7) 8 = false ∧ up.fnServes .pf 8 = true ∧ up.fnServes .pf 0 = true) ∧
    (let s : State := { up with mbx := [(8, { box with st := 1 })] }
     s.ready = true ∧ ¬(0 < 8 ∧ (s.basin 7).st = 2) ∧ (s.mailbox 8).st = 1) ∧
    (up.ready = true ∧ (up.mailbox 0).st ≠ 1 ∧ ¬(0 = fieldAt (up.mailbox 0).cmd 2 2 ∧ 0 = ((up.mailbox 0).accepted + 1) % 65536)) ∧
    (let s : State := { up with mbx := [(0, { box with cmd := padTo 64 [1], accepted := 65535 })] }
     s.ready = true ∧ (s.mailbox 0).st ≠ 1 ∧ 0 = fieldAt (s.mailbox 0).cmd 2 2 ∧ 0 = ((s.mailbox 0).accepted + 1) % 65536 ∧
     fieldAt (s.mailbox 0).cmd 0 1 ≠ 0x31 ∧ (cmdInfo (fieldAt (s.mailbox 0).cmd 0 1)).isSome = true ∧ s.wq = []) := by decide +kernel

/-- The slot's last byte, while BUSY and while not. -/
theorem wit_CommandSlotWritten :
    (Instr.commandSlotWrite .pf 8 63 [1]).wellFormed = true ∧ up.fnServes .pf 8 = true ∧ up.fnServes (.vf 0) 8 = false ∧ up.ready = true ∧ (up.mailbox 8).cmd.length = 64 ∧ (up.mailbox 8).st ≠ 1 ∧
    (let s : State := { up with mbx := [(8, { box with st := 1 })] }
     s.ready = true ∧ (s.mailbox 8).cmd.length = 64 ∧ (s.mailbox 8).st = 1) := by decide +kernel

/-- The admin's mailbox, one of the PF's and one of a VF. -/
theorem wit_AnswerWritten : (up.mailbox 0).latched.length = 64 ∧ 255 < 256 ∧ (List.replicate 60 (0 : Byte)).length ≤ 60 ∧
    up.boot.numVf ≤ 1 - 1 ∧ 8 - 1 < ({ up.boot with numVf := 8 } : Boot).numVf := by decide +kernel

/-- Byte 1 of a command is not zero. -/
theorem wit_RefusedCommandChangesNothing : let s := srv 0 [0x03, 1]
    s.ready = true ∧ s.wq.head? = some 0 ∧ (s.mailbox 0).st = 1 ∧ s.refusal 0 = some rcBadParam ∧
    (∀ k ∈ s.wq, (cmdInfo (s.par k 0 1)).isSome = true) ∧ (Instr.getState 0, 0x03) ∈ s.mailboxRows 0 none [] ∧ s.par 0 0 1 = 0x03 := by
  decide +kernel

theorem wit_QueriesAnswer : (srv 8 [0x01]).serves 8 0x01 = true ∧ (srv 8 [0x02]).serves 8 0x02 = true ∧
    (srv 0 [0x03]).serves 0 0x03 = true ∧
    (let s := srv 0 [0x11] { basins with img := ⟨some img⟩ }; s.serves 0 0x11 = true ∧ s.img.file = some img) ∧
    (let s := srv 0 [0x2A, 0, 0, 0, 7]; s.serves 0 0x2A = true ∧ s.par 0 4 1 = 7) ∧
    ((srv 8 [0x2A]).serves 8 0x2A = true ∧ 7 = 8 - 1) ∧
    (let s := srv 8 [0x41, 0, 0, 0, 1] { basins with img := ⟨some img⟩ }
     s.serves 8 0x41 = true ∧ s.par 8 4 1 < 16 ∧ (s.regionDecl (s.par 8 4 1)).isSome = true) ∧
    (srv 0 [0x72]).serves 0 0x72 = true := by decide +kernel

theorem wit_SettingsTaken :
    (let s := srv 0 [0x6A, 0, 0, 0, 0xFF, 0xFF]; s.serves 0 0x6A = true ∧ s.par 0 4 4 = 2 ^ 16 - 1 ∧ s.func.started = 0) ∧
    (let s := srv 0 [0x6A, 0, 0, 0, 0x10] started
     s.serves 0 0x6A = true ∧ s.par 0 4 4 < 2 ^ 16 ∧ (s.reg Reg.PWR_ENVELOPE).toNat ≤ min 60000 (max 10000 (s.par 0 4 4))) ∧
    (let s := srv 0 [0x69, 0, 0, 0, 1]; s.serves 0 0x69 = true ∧ s.par 0 4 1 = 1 ∧ s.func.started = 0 ∧ s.func.proc = none) ∧
    (let s := srv 0 [0x4A, 0, 0, 0, 50]; s.serves 0 0x4A = true ∧ s.par 0 4 1 ∈ [0, 3, 6, 25, 50] ∧ s.img.file = none) ∧
    (let s := srv 0 [0x71] { basins with boot := { basins.boot with staged := some false } }
     s.serves 0 0x71 = true ∧ s.boot.staged = some false ∧ s.slotValid (s.slotOf false) = true) ∧
    (let s := srv 0 [0x78, 0, 0, 0, 2]; s.serves 0 0x78 = true ∧ s.par 0 4 1 = 2) ∧
    (let s := srv 0 [0x61, 0, 0, 0, 63, 0xFF, 0xFF, 3, 0, 0xFF, 0xFF, 3, 0, 255, 1]
     s.serves 0 0x61 = true ∧ s.par 0 4 1 = 63 ∧ s.par 0 5 4 = 2 ^ 18 - 1 ∧ s.par 0 9 4 = 2 ^ 18 - 1 ∧ s.par 0 14 1 = 1) ∧
    (srv 0 [0x51, 0, 0, 0, 1]).serves 0 0x51 = true ∧ (srv 0 [0x59]).serves 0 0x59 = true := by decide +kernel

theorem wit_BackwaterSettingsTaken :
    ((srv 0 [0x45]).serves 0 0x45 = true ∧ (srv 0 [0x45]).cacheFree = true) ∧
    (let s := srv 0 [0x45] (basins.setReg Reg.BKW_CTRL 1); s.serves 0 0x45 = true ∧ s.cacheFree = false) ∧
    (srv 0 [0x46]).serves 0 0x46 = true ∧
    (let s := srv 0 [0x44, 0, 0, 0, 30]; s.serves 0 0x44 = true ∧ s.par 0 4 4 < 32 ∧ bitOf (s.par 0 4 4) 0 = false) ∧
    (let s := srv 0 [0x44, 0, 0, 0, 1, 0, 0, 0, 5]; s.serves 0 0x44 = true ∧ s.par 0 4 4 = 1 ∧ bitOf (s.par 0 8 4) 1 = s.bkwCtl 1) := by
  decide +kernel

theorem wit_TablesTaken :
    (let s := srv 0 [0x34, 0, 0, 0, 8, 1]; s.serves 0 0x34 = true ∧ s.par 0 4 1 = 8 ∧ s.par 0 5 1 = 1 ∧ s.par 0 6 8 % 16384 = 0) ∧
    (let s := srv 0 [0x35, 0, 0, 0, 15]; s.serves 0 0x35 = true ∧ s.par 0 4 1 = 15 ∧ s.par 0 5 8 = 0 ∧ s.par 0 13 8 = 0) ∧
    (let s := srv 8 [0x35, 0, 0, 0, 0, 0, 0, 0, 0, 0, 0, 0, 0, 0, 0, 0, 0, 2]
     s.serves 8 0x35 = true ∧ 7 = 8 - 1 ∧ s.par 8 4 8 = 0 ∧ s.par 8 12 8 = 2 ^ 41) ∧
    (let s := srv 0 [0x68]; s.serves 0 0x68 = true ∧ s.budgetOk [⟨1, 0, 0, 16⟩, ⟨1, 0, 8, 16⟩] = true) ∧
    (let s := srv 0 [0x19, 0, 0, 0, 15]; s.serves 0 0x19 = true ∧ s.par 0 4 1 = 15 ∧ s.carrierRuns 15 = false ∧ s.func.proc = none) ∧
    (let s := srv 0 [0x60, 0, 0, 0, 1, 0, 0, 0, 0, 0, 0, 4, 0, 1]
     s.serves 0 0x60 = true ∧ s.par 0 4 1 = 1 ∧ s.par 0 5 4 + s.par 0 9 4 = 2 ^ 18 ∧ s.par 0 9 4 ≠ 0 ∧ s.par 0 13 4 ≠ 0 ∧ s.fabric = none) ∧
    ((srv 0 [0x60]).serves 0 0x60 = true ∧ (srv 0 [0x60]).par 0 4 1 = 0) ∧
    (let s := srv 0 [0x28, 0, 0, 0, 7, 1]; s.serves 0 0x28 = true ∧ s.par 0 4 1 = 7 ∧ s.par 0 5 1 = 1 ∧ (s.basin 7).st ≠ 2) := by
  decide +kernel
/-! ## Rings and background work -/

/-- The largest ring at an aligned base, a ring that is disabled, one at a base that is not aligned. -/
theorem wit_RingConfigured :
    (let s := srv 8 [0x30, 0, 0, 0, 2, 15, 0, 0, 0x20]
     s.serves 8 0x30 = true ∧ s.par 8 4 1 < 4 ∧ s.par 8 5 1 = 15 ∧ (s.ringOf 8 2).log2 = 0 ∧ s.par 8 6 8 % (64 * 2 ^ 15) = 0) ∧
    (let s := srv 0 [0x30, 0, 0, 0, 4]; s.serves 0 0x30 = true ∧ s.par 0 4 1 = 4 ∧ s.par 0 5 1 = 0) ∧
    (let s := srv 1 [0x30, 0, 0, 0, 3, 4, 8]
     s.serves 1 0x30 = true ∧ s.par 1 4 1 = 3 ∧ (s.basin 0).waiting = [] ∧ s.par 1 5 1 = 4 ∧ (s.ringOf 1 3).log2 = 0 ∧
     s.par 1 6 8 % (32 * 2 ^ 4) ≠ 0) := by decide +kernel

/-- A valid firmware image. -/
def fw : FwSlot := ⟨true, 0, true, 0, 2⟩

/-- The booted device with a fabric address. -/
def leased : State := basins.setReg Reg.TRIB_ADDR 0x80000009

theorem wit_BackgroundWork :
    ((srv 0 [0x70]).serves 0 0x70 = true ∧ (srv 0 [0x70]).working 0x70 = false) ∧
    (let s := srv 0 [0x70] { basins with async := [⟨0x70, 0, 1, []⟩] }; s.serves 0 0x70 = true ∧ s.working 0x70 = true) ∧
    (let s := srv 0 [0x10]; s.serves 0 0x10 = true ∧ s.func.started = 0 ∧ s.func.proc = none ∧ s.working 0x10 = false) ∧
    (let s := srv 0 [0x62, 0, 0, 0, 1, 0, 0, 0, 8, 0, 0, 0, 0, 0, 0xD0, 0xFF, 0xFF] leased
     s.serves 0 0x62 = true ∧ s.fabric.isSome = true ∧ s.working 0x62 = false ∧ s.par 0 4 4 < 2 ^ 18 ∧ s.par 0 8 1 = 8 ∧
     s.isSelf (s.par 0 4 4) = false ∧
     State.readG reqWellhead 0 64 s.clearOuts (s.par 0 9 8) 64 = (s.clearOuts, List.replicate 64 0, true)) ∧
    (let s : State := { up with async := [⟨0x70, 0, 1, []⟩] }
     s.ready = true ∧ s.async = [⟨0x70, 0, 1, []⟩] ∧ s.aeq.full = true ∧ fw.wellFormed = true) ∧
    (let s : State := { up with async := [⟨0x10, 0, 1, []⟩] }; s.ready = true ∧ s.async = [⟨0x10, 0, 1, []⟩] ∧ s.aeq.full = true) := by
  decide +kernel

/-- Bytes of a global address in the cluster 0 pool, and of one in CSR space, which answers no data. -/
def poolBytes : List Byte := [0, 0, 0, 0, 0, 0xD0, 0xFF, 0xFF]
def csrBytes : List Byte := [0, 0, 0, 0, 0, 0xDF, 0xFF, 0xFF]

/-- A global address in the cluster 0 pool. -/
def poolAt : Nat := 0xFFFFD00000000000

/-- Bytes of a global address in the device's own DRAM, which begins to exist with DRAM.TOP. -/
def dramBytes : List Byte := [0, 0, 1, 0, 0, 0xC0, 0xFF, 0xFF]

/-- The device with DRAM, its pairs `ps` under a budget that activity 5 has spent. -/
def spent (ps : List Nat) : State :=
  { basins.setReg Reg.DRAM_TOP 64 with dramOn := true, dramPairs := ps, sched := { basins.sched with used := [(usedKey 2 0 5, 2 ^ 20)] } }

/-- The telemetry bytes are open: a destination that is no memory; DRAM of no pair, whose access nothing charges; DRAM of a pair
whose allowance is spent; a transfer that waits. -/
theorem wit_MemoryCommands_telemetry :
    (let s := srv 8 ([0x50, 0, 0, 0, 31, 0] ++ csrBytes)
     s.serves 8 0x50 = true ∧ s.par 8 4 2 < 32 ∧ s.sched.teleWait ≠ some (s.reg Reg.SCHED_PERIOD) ∧ (s.place (s.par 8 6 8)).1 = .csr 0) ∧
    (∀ ps, ps = [] ∨ ps = [0] → let s := srv 8 ([0x50, 0, 0, 0, 31, 0] ++ dramBytes) (spent ps)
     s.serves 8 0x50 = true ∧ s.par 8 4 2 < 32 ∧ s.sched.teleWait ≠ some (s.reg Reg.SCHED_PERIOD) ∧ (s.place (s.par 8 6 8)).1 = .mem 0x10000) ∧
    (let s := srv 8 ([0x50, 0, 0, 0, 31, 0] ++ csrBytes) { basins with sched := { basins.sched with teleWait := some 0 } }
     s.serves 8 0x50 = true ∧ s.par 8 4 2 < 32 ∧ s.sched.teleWait = some (s.reg Reg.SCHED_PERIOD)) := by
  refine ⟨by decide +kernel, ?_, by decide +kernel⟩
  intro ps h
  rcases h with rfl | rfl <;> decide +kernel

theorem wit_MemoryCommands_charge (n k : Nat) :
    ({ spent [] with freeCtr := k } : State).chargeMem 0x10000 n 5 = some { spent [] with freeCtr := k } ∧
    ({ spent [0] with freeCtr := k } : State).chargeMem 0x10000 n 5 = none := by
  refine ⟨rfl, ?_⟩
  have h : ({ spent [0] with freeCtr := k } : State).allowed 2 0 5 (({ spent [0] with freeCtr := k } : State).pairCycles 0 0x10000 n) = false := by
    refine decide_eq_false (Nat.not_le.mpr (Nat.lt_of_lt_of_le ?_ (Nat.le_add_right _ _)))
    show (spent [0]).maxOf 2 5 < (spent [0]).used 2 0 5
    decide +kernel
  show (if ([0] : List Nat).all _ then _ else none) = none
  rw [List.all_cons, h]
  rfl

theorem wit_MemoryCommands :
    (let s := srv 0 ([0x52, 0, 0, 0] ++ poolBytes)
     let w := State.writeG reqWellhead 0 ([] : List Byte).length s.clearOuts (s.par 0 4 8) []
     s.serves 0 0x52 = true ∧ (s.reg Reg.FAULT_LOG_HEAD).toNat = 0 ∧ w.2 = true) ∧
    (let s := srv 0 ([0x52, 0, 0, 0] ++ csrBytes) (basins.setReg Reg.FAULT_LOG_HEAD 1)
     let bs := (List.range 8).flatMap fun i => leBytes 4 (tget (fun _ => 0) s.ctl.log i).toNat
     let w := State.writeG reqWellhead 0 bs.length s.clearOuts (s.par 0 4 8) bs
     s.serves 0 0x52 = true ∧ w.2 = false) ∧
    (let s := srv 0 ([0x47, 0, 0, 0] ++ poolBytes)
     let r := State.readG reqWellhead 0 4096 s.clearOuts (s.par 0 4 8) 4096
     s.serves 0 0x47 = true ∧ r.2.2 = true) ∧
    (let s := srv 0 ([0x47, 0, 0, 0] ++ csrBytes)
     let r := State.readG reqWellhead 0 4096 s.clearOuts (s.par 0 4 8) 4096
     s.serves 0 0x47 = true ∧ r.2.2 = false) := by decide +kernel

theorem wit_ImageUnloaded :
    (let s := srv 0 [0x12] { basins with img := ⟨some img⟩ }
     s.serves 0 0x12 = true ∧ s.bkw.regions = [] ∧ s.flt.remaps = [] ∧ s.func.started = 0 ∧ s.func.proc = none ∧ s.working 0x10 = false) ∧
    (let s := srv 0 [0x12] started
     s.serves 0 0x12 = true ∧ s.bkw.regions = [] ∧ s.flt.remaps = [] ∧ s.func.started ≠ 0) := by decide +kernel

/-- A basin as reset leaves it. -/
def bas : Basin := State.reset.basin 0

/-- A ring of 16 entries in the pool. -/
def ring (prod cons : Nat) : Ring := ⟨poolAt, 4, 0, 0, prod, cons⟩

/-- A function without the basin, a basin that resets, a ring that becomes just full across the wrap of its index, one entry more,
and a disabled ring. -/
theorem wit_RingDoorbells :
    (up.fnServes (.vf 7) 8 = false ∧ up.fnServes .pf 8 = true ∧ up.fnServes .pf 1 = true) ∧
    (let s : State := { up with basins := [(7, { bas with st := 2 })] }; s.ready = true ∧ (s.basin 7).st = 2) ∧
    (let s : State := { up with basins := [(7, { bas with sq2 := ring 0 65530 })] }
     let r := (s.basin 7).sq 2
     s.ready = true ∧ (s.basin 7).st ≠ 2 ∧ r.log2 ≠ 0 ∧ (10 + 65536 - r.cons) % 65536 ≤ 2 ^ r.log2 ∧
     2 ^ r.log2 < (11 + 65536 - r.cons) % 65536) ∧ up.ready = true ∧ (up.basin 0).st ≠ 2 ∧ ((up.basin 0).sq 0).log2 = 0 := by decide +kernel

theorem wit_RingTraffic :
    (let s : State := { up with basins := [(7, { bas with sq2 := ring 3 65533 })] }
     s.ready = true ∧ (s.basin 7).st ≠ 2 ∧ ((s.basin 7).sq 2).log2 ≠ 0) ∧
    (let s : State := { up with basins := [(7, { bas with waiting := [List.replicate 32 1], cq := ring 65535 65520 })] }
     s.ready = true ∧ (s.basin 7).st ≠ 2 ∧ (s.basin 7).waiting = List.replicate 32 1 :: [] ∧ (s.basin 7).dropped = 0 ∧ (s.basin 7).cq.full = false ∧
     (s.clearOuts.dequeue 7).settled = true) ∧
    (let s : State := { up with basins := [(7, { bas with shadowDue := true, shadow := ring 0 0 })], aeqDue := true, aeqShadow := ring 0 0 }
     s.ready = true ∧ (s.basin 7).st ≠ 2 ∧ (s.basin 7).shadowDue = true ∧ (s.basin 7).shadow.log2 ≠ 0 ∧ s.ctl.shadowAt = [] ∧
     (s.clearOuts.writeShadow 8).settled = true ∧ s.aeqDue = true ∧ s.aeqShadow.log2 ≠ 0 ∧ (s.clearOuts.writeShadow 0).settled = true) ∧
    (up.ready = true ∧ (up.basin 0).st ≠ 2 ∧ (up.basin 0).shadowDue = false) ∧
    (let s : State := { up with ctl := { up.ctl with shadowAt := [(8, 0)] }, time := { up.time with ticks := 245 } }
     s.ready = true ∧ tfind s.ctl.shadowAt 8 = some 0 ∧ ¬0 + 246 ≤ s.time.ticks) ∧
    (let s := up.setReg Reg.HOST_LINK 0x10000
     let s : State := { s with ctl := { s.ctl with msix := [287], msixAt := [(287, 0)] }, time := { s.time with ticks := 492 } }
     s.ready = true ∧ (s.basin 7).st ≠ 2 ∧ s.pcieUp = true ∧ State.pfuncNum (.vf 7) * 32 + 31 ∈ s.ctl.msix ∧
     tfind s.ctl.msixAt (State.pfuncNum (.vf 7) * 32 + 31) = some 0 ∧ 0 + 492 ≤ s.time.ticks) := by decide +kernel
/-! ## Functions, time set, fences, resets of basins -/

/-- The device as the release of PORST_N leaves it. -/
def booted : State :=
  match exec (.porstNRelease BootFacts.reset) State.reset with
  | .next t => t
  | _ => State.reset

/-- The booted device with port 0 in fronthaul mode: the receive set is there. -/
def radio : State := ((booted.setReg Reg.HOST_BASIN_EN 0xFF).setReg (Reg.CP_CFG 0) 2)

theorem wit_FunctionCommandsAccepted :
    (let s := srv 0 [0x21, 0, 0, 0, 0x0F, 0xFF] { basins with func := { basins.func with started := 0xFF0F } }
     State.maskBad (s.par 0 4 4) = false ∧ s.func.proc = none ∧ s.serves 0 0x21 = true ∧ s.func.started &&& s.par 0 4 4 = s.par 0 4 4) ∧
    (let s := srv 0 [0x22, 0, 0, 0, 0, 0x80] { radio with func := { radio.func with started := 0x8000 } }
     State.maskBad (s.par 0 4 4) = false ∧ s.func.proc = none ∧ s.serves 0 0x22 = true ∧ s.func.started &&& s.par 0 4 4 = s.par 0 4 4 ∧
     s.working 0x10 = false ∧ s.receiveSet = true ∧ s.startRefusal (s.par 0 4 4) = none) ∧
    (let s := srv 0 [0x20, 0, 0, 0, 0, 0x80] radio
     State.maskBad (s.par 0 4 4) = false ∧ s.func.proc = none ∧ s.serves 0 0x20 = true ∧ s.func.started &&& s.par 0 4 4 = 0 ∧
     s.working 0x10 = false ∧ bits (s.par 0 4 4) 1 0 = 0 ∧ s.receiveSet = true ∧ s.startRefusal (s.par 0 4 4) = none) ∧
    (∀ op : Fin 2, let s := srv 0 [BitVec.ofNat 8 (0x20 + 2 * op.val), 0, 0, 0, 0, 0x80]
     State.maskBad (s.par 0 4 4) = false ∧ s.func.proc = none ∧ s.serves 0 (0x20 + 2 * op.val) = true ∧ s.receiveSet = false) := by
  decide +kernel

/-- A procedure of `mask` whose boundaries fall at 0 or at 1 ns. -/
def proc (kind mask phase at_ : Nat) : Proc := ⟨kind, mask, phase, 0, at_, at_, at_, 0, 0, 0⟩

/-- The booted device with a procedure. -/
def running (p : Proc) : State := { started with func := { started.func with proc := some p } }

theorem wit_ProcedureBoundaries :
    ((running (proc 1 9 0 0)).ready = true ∧ (running (proc 1 9 0 0)).reached 0 = true) ∧
    ((running (proc 2 1 0 0)).ready = true ∧ (running (proc 2 1 0 0)).reached 0 = true ∧ bitOf (proc 2 1 0 0).mask 3 = false) ∧
    ((running (proc 1 9 0 1)).ready = true ∧ (running (proc 1 9 0 1)).reached 1 = false) ∧
    ((running (proc 0 9 2 0)).ready = true ∧ (running (proc 0 9 2 0)).reached 0 = true) ∧
    ((running (proc 0 9 2 1)).ready = true ∧ (running (proc 0 9 2 1)).reached 1 = false) := by decide +kernel

theorem wit_ApplyPhaseActs :
    ((running (proc 1 9 1 1)).ready = true ∧ (running (proc 1 9 1 1)).reached 1 = false) ∧
    ((running (proc 1 1 1 0)).ready = true ∧ (running (proc 1 1 1 0)).reached 0 = true ∧
      ((running (proc 1 1 1 0)).clearOuts.atApply []).handled = true) ∧
    ((running (proc 2 4 1 0)).ready = true ∧ ((running (proc 2 4 1 0)).clearOuts.atApply [60]).handled = true) := by decide +kernel

theorem wit_TimeSetAccepted :
    (let s := srv 0 [0x58, 0, 0, 0, 0xFF, 0xFF, 0xFF, 0xFF, 0xFF, 0xFF, 0xFF, 0xFF, 0xFF, 0xC9, 0x9A, 0x3B, 1] started
     s.serves 0 0x58 = true ∧ s.par 0 12 4 = 999999999 ∧ s.par 0 16 1 < 2 ∧ s.func.proc = none) ∧
    (let s := srv 0 [0x58, 0, 0, 0, 0, 0, 0, 0, 0, 0, 0, 0, 0, 0xCA, 0x9A, 0x3B, 1]
     s.serves 0 0x58 = true ∧ s.par 0 12 4 = 1000000000) := by decide +kernel

theorem wit_FenceCommands :
    (let s := srv 0 [0x48, 0, 0, 0, 0, 50] { basins with cores := [(50, { State.reset.core 0 with run := .running })] }
     s.unitExists (s.par 0 4 1) (s.par 0 5 2) = true ∧ s.serves 0 0x48 = true ∧ s.outOfService 0 50 = false ∧
     (s.clearOuts.fenceUnit 0 50 2).handled = true) ∧
    (let s := srv 0 [0x48, 0, 0, 0, 5, 3]
     s.unitExists (s.par 0 4 1) (s.par 0 5 2) = true ∧ s.serves 0 0x48 = true ∧ s.outOfService 5 3 = false ∧
     (s.clearOuts.fenceUnit 5 3 2).handled = true) ∧
    (let s := srv 0 [0x49, 0, 0, 0, 1, 23] { basins with fences := [(64 + 23, 1)] }
     s.unitExists (s.par 0 4 1) (s.par 0 5 2) = true ∧ s.serves 0 0x49 = true ∧ s.fence 1 23 = 1) ∧
    (let s := srv 0 [0x49, 0, 0, 0, 4, 7] { basins with fences := [(256 + 7, 2)] }
     s.unitExists (s.par 0 4 1) (s.par 0 5 2) = true ∧ s.serves 0 0x49 = true ∧ s.fence 4 7 = 2 ∧ s.flt.remaps = [] ∧
     (fencingBits.all fun x => !(x.2.2.1 == 4 && x.2.2.2 == 7) || !bitOf (s.reg x.1).toNat x.2.1) = true) := by decide +kernel

/-- Core 0 fenced, its remap waiting. -/
def broken (taken : List Nat) : State :=
  { up with img := ⟨some img⟩, l2p := [(0, 0), (1, 1)], fences := [(0, 1)], flt := { up.flt with remaps := [⟨0, 0⟩], taken := taken } }

theorem wit_RemapMovesNumber :
    ((broken []).ready = true ∧ (broken []).flt.remaps = [⟨0, 0⟩] ∧ (broken []).spareFor 0 = some (1, 1) ∧
      ((broken []).clearOuts.remapCore 0 none).handled = true) ∧
    ((broken [1]).ready = true ∧ (broken [1]).spareFor 0 = none ∧ ((broken [1]).clearOuts.remapCore 0 none).handled = true) := by
  decide +kernel

theorem wit_DomainFailFences : up.ready = true ∧ ∀ d : Fin 65, d.val ∈ [51, 55, 59, 60, 62, 63, 64] → (up.clearOuts.domainFail d.val).handled = true := by
  decide +kernel

/-- A transfer of one row in an engine, tagged with basin 7. -/
def xferOf (bytes : Nat) (w : XferWait) (dropped : Bool := false) : Xfer :=
  ⟨1, bytes, 0, 0, 0, 0, 0, poolAt, poolAt, 31, 15, 0, 0, w, [], [], [], none, none, dropped, 0⟩

theorem wit_BasinResets :
    (let s := srv 0 [0x29, 0, 0, 0, 7]
     s.serves 0 0x29 = true ∧ s.par 0 4 1 = 7 ∧ (s.basin 7).st ≠ 2 ∧
     (s.clearOuts.startBasinReset 7 (some (0, fieldAt (s.mailbox 0).latched 2 2))).handled = true) ∧
    (let s : State := { up with basins := [(7, { bas with st := 2 })], time := { up.time with ticks := 49151 }
                                cores := [(0, { State.reset.core 0 with si := [xferOf 1 .none] })] }
     s.ready = true ∧ (s.basin 7).st = 2 ∧ s.tagCnt 7 ≠ 0 ∧ s.time.ticks < (s.basin 7).resetAt + 49152) ∧
    (let s : State := { up with basins := [(7, { bas with st := 2 })] }
     s.ready = true ∧ (s.basin 7).st = 2 ∧ s.tagCnt 7 = 0 ∧ (s.clearOuts.endBasinReset 7).handled = true) := by decide +kernel
/-! ## Memory and arbiters -/

theorem wit_MemoryWordRules : ([1] : List Byte) ≠ [] ∧ up.memWf = true := by decide +kernel

theorem wit_RowsSplit : booted.splitRow ⟨0, 0x10000300003F, 1024, false, [], 0⟩ ≠ [] ∧ booted.splitRow ⟨0, 255, 2, true, [1, 2], 0⟩ ≠ [] := by
  decide +kernel

/-- A foreground read of 32 bytes by `port`. -/
def rd (port : Fin 32) : Burst := ⟨port, 64, 32, false, [], 0⟩

/-- An arbiter with a burst of port 0 in progress until cycle `last`, at cycle 5. -/
def busy (last : Nat) (wait : List ArbReq) (b : Burst := rd 0) : Arb :=
  { up.arb 71 with cyc := 5, busy := some (⟨b, 1, 0, false, false⟩, last), wait := wait, from_ := 2 }

theorem wit_ArbiterGrantsHighestClass : let s : State := { booted with sched := { booted.sched with budget := [] } }
    s.ready = true ∧ (s.arb 64).busy = none ∧ (s.arb 64).queue = [] ∧ s.owed (State.arbKind 64) (State.arbUnit 64) = 0 ∧
    (∀ r ∈ (s.arb 64).wait, r.b.activity.val = 0 ∧ r.b.port.val < portsOf 64) ∧
    (∀ b ∈ [rd 0, rd 12], s.arbOf b.addr = some 64 ∧ s.splitRow b = [(64, b)] ∧ b.port.val < portsOf 64 ∧ b.port.val ≠ scrubPort 64 ∧
      b.activity.val = 0) := by decide +kernel

theorem wit_StrictModeNeverRevokes :
    let s : State := { started.setReg Reg.DET_STRICT 0x101 with arbs := [(71, busy 6 [])] }
    s.ready = true ∧ s.strictEff = true ∧ (s.arb 71).busy = some (⟨rd 0, 1, 0, false, false⟩, 6) := by decide +kernel

/-- A read and a write in progress give way. -/
theorem wit_HigherClassRevokes : ∀ b ∈ [rd 0, ⟨0, 64, 64, true, List.replicate 64 1, 0⟩],
    let q : ArbReq := ⟨rd 13, 4, 1, false, false⟩
    let s : State := { up.setReg Reg.DRAM_ARBCLASS 0x04000000 with arbs := [(71, busy 5 [q] b)] }
    let x := s.arb 71
    s.ready = true ∧ s.strictEff = false ∧ x.busy = some (⟨b, 1, 0, false, false⟩, 5) ∧ x.wait = [q] ∧ x.queue = [] ∧ x.cyc ≤ 5 ∧
    x.cls < s.portClass 71 13 ∧ x.cls < q.cls ∧ s.portClass 71 0 ≤ x.cls ∧ q.b.port.val < portsOf 71 ∧ b.port ≠ q.b.port ∧
    q.since + 1 = x.cyc ∧ x.from_ < q.since ∧ q.b.activity.val = 0 ∧ b.activity.val = 0 ∧
    s.owed (State.arbKind 71) (State.arbUnit 71) = 0 := by decide +kernel

theorem wit_PoolFailuresFence : up.ready = true ∧ (63 : Fin 72).val < 64 ∧ 64 ≤ (64 : Fin 72).val := by decide +kernel

/-- No burst; a write's bytes; a read over, with its last byte in error; one not over; a scrubber's. -/
theorem wit_BurstEnds :
    let wr : Burst := ⟨0, 2 ^ 36 - 2, 2, true, [1, 2], 0⟩
    (up.ready = true ∧ (up.arb 71).busy = none) ∧
    (let s : State := { up with arbs := [(71, busy 4 [] wr)] }
     s.ready = true ∧ (s.arb 71).busy = some (⟨wr, 1, 0, false, false⟩, 4) ∧ 4 < (s.arb 71).cyc ∧ wr.port.val ≠ scrubPort 71 ∧ wr.data.length = wr.len) ∧
    (let s : State := { up with arbs := [(71, busy 4 [])] }; s.ready = true ∧ 4 < (s.arb 71).cyc ∧ (rd 0).write = false ∧ 31 < (rd 0).len) ∧
    (let s : State := { up with arbs := [(71, busy 5 [])] }; s.ready = true ∧ (s.arb 71).cyc ≤ 5) ∧
    (let s : State := { up with arbs := [(71, busy 4 [] (rd 13))] }; s.ready = true ∧ (rd 13).port.val = scrubPort 71) := by decide +kernel

theorem wit_StarvedOnce :
    let w (since : Nat) (old : Bool) : State := { up with arbs := [(0, { up.arb 0 with cyc := 4096, wait := [⟨rd 29, since, 0, old, false⟩] })] }
    ((w 0 false).ready = true ∧ ((w 0 false).arb 0).busy = none ∧ (w 0 false).starveLimit 0 ≤ 4096) ∧
    ((w 4000 false).ready = true ∧ 4096 - 4000 < (w 4000 false).starveLimit 0) ∧ (w 0 true).ready = true := by decide +kernel

/-- A scrub at the end of a pool, presented and over, and none left of the period; the same of the last KiB of DRAM; refresh. -/
theorem wit_ScrubbersAdvance :
    let b : Burst := ⟨29, 0x100003000000 + 0xC00000 - 64, 64, false, [], 3⟩
    let at_ : State := { booted with scrub := [(3, 0xC00000 - 64)] }
    let k := booted.dramTop / 1024 - 1
    let d : Burst := ⟨13, k * 1024, 1024, false, [], 3⟩
    let last : State := { booted with scrub := [(4, k)] }
    (at_.ready = true ∧ at_.scrubAt 3 % 64 = 0 ∧ at_.scrubAt 3 < 0xC00000 ∧ at_.fence 5 3 = 0 ∧
      at_.scrubAt 9 < bits (at_.reg (Reg.POOL_SCRUB_RATE 3)).toNat 15 0 ∧ at_.scrubbing 63 = false) ∧
    (let s : State := { at_ with arbs := [(63, busy 4 [] b)] }
     s.ready = true ∧ (s.arb 63).busy = some (⟨b, 1, 0, false, false⟩, 4) ∧ 4 < (s.arb 63).cyc ∧
     s.poisoned (0x100003000000 + s.scrubAt 3) 64 = []) ∧
    (let s := booted.setReg (Reg.POOL_SCRUB_RATE 3) 0
     s.ready = true ∧ s.scrubOver 48 = none ∧ bits (s.reg (Reg.POOL_SCRUB_RATE 3)).toNat 15 0 ≤ s.scrubAt 9) ∧
    (last.ready = true ∧ bitOf (last.reg Reg.DRAM_SCRUB).toNat 31 = true ∧ last.scrubAt 5 < bits (last.reg Reg.DRAM_SCRUB).toNat 15 0 ∧
      last.dramOn = true ∧ (∀ p, p < 8 → last.scrubbing (64 + p) = false)) ∧
    (let s : State := { last with arbs := [(71, busy 4 [] d)] }
     s.ready = true ∧ (s.arb 71).busy = some (⟨d, 1, 0, false, false⟩, 4) ∧ 4 < (s.arb 71).cyc ∧ s.dramTop ≤ k * 1024 + 1024 ∧
     (∀ q, q < 8 → q ≠ 7 → s.scrubbing (64 + q) = false) ∧
     ({ s.clearOuts with arbs := tset s.clearOuts.arbs 71 { s.arb 71 with busy := none } } : State).scrubbing 71 = false ∧
     s.poisoned (k * 1024) 1024 = []) ∧
    (up.ready = true ∧ up.dramOn = false ∧ (∀ p, p < 8 → up.scrubbing (64 + p) = false)) ∧
    (booted.ready = true ∧ booted.dramOn = true ∧ (1 : Fin 16).val / 2 ∈ booted.dramPairs ∧ (1 : Fin 16).val ∉ booted.refreshX2) := by
  decide +kernel
/-! ## CSR space -/

/-- UNLOCK of TIME, of CP port 7, of logical core 47 and of physical core 51, the latter by a path that may not. -/
theorem wit_LocksOpenAndClose :
    (up.ready = true ∧ up.accAt Reg.TIME_UNLOCK = some .wo ∧ up.lockKey (csrAt up.enabled Reg.TIME_UNLOCK) = some Reg.TIME_UNLOCK ∧
      (csrAt up.enabled Reg.TIME_UNLOCK).1 ≠ .coreB) ∧
    (booted.ready = true ∧ booted.accAt (0x12F000 + 0x3F0) = some .wo ∧ (booted.lockKey (csrAt booted.enabled (0x12F000 + 0x3F0))).isSome = true ∧
      (csrAt booted.enabled (0x12F000 + 0x3F0)).2.1 < 0x200000) ∧
    (booted.accAt (0x232000 + 0x3F0) = some .wo ∧ booted.lockKey (csrAt booted.enabled (0x232000 + 0x3F0)) = some (2 ^ 24 + 50) ∧
      0x200000 ≤ (csrAt booted.enabled (0x232000 + 0x3F0)).2.1) ∧
    (let s : State := { up with time := { up.time with ticks := 24577 }, ctl := { up.ctl with lockAt := [(Reg.TIME_UNLOCK, 2)] } }
     s.ready = true ∧ s.time.ticks < tget (fun _ => 0) s.ctl.lockAt Reg.TIME_UNLOCK + 24576 ∧
     tget (fun _ => 0) s.ctl.lockAt Reg.DRAM_UNLOCK + 24576 ≤ s.time.ticks) := by decide +kernel

/-- The booted device with core `p` in state `c`. -/
def with_ (p : Nat) (c : Core) (s : State := up) : State := { s with cores := [(p, c)] }

/-- A core that runs. -/
def alive : Core := { Core.reset with run := .running }

theorem wit_CoreControlWritten :
    (let s := with_ 50 { alive with run := .halted .ctrl }
     s.ready = true ∧ (Path.wellhead = .wellhead ∧ ∀ d ∈ s.fuses.disabled, d.val ≠ 50) ∧ (s.core 50).run ≠ .fenced ∧ (s.core 50).run ≠ .unpowered ∧
     s.lockOpen (2 ^ 24 + 50) = false) ∧
    (let s : State := { with_ 50 { alive with run := .halted .ctrl } with l2p := [(47, 50)], ctl := { up.ctl with locks := [2 ^ 24 + 50] } }
     s.ready = true ∧ 47 < s.enabled ∧ s.physOf 47 = some 50 ∧ s.lockOpen (2 ^ 24 + 50) = true ∧ (s.core 50).run = .halted .ctrl) ∧
    (let s : State := { with_ 50 alive with l2p := [(47, 50)], ctl := { up.ctl with locks := [2 ^ 24 + 50] } }
     s.ready = true ∧ s.physOf 47 = some 50 ∧ s.lockOpen (2 ^ 24 + 50) = true ∧ (s.core 50).run = .running) := by decide +kernel

/-- The booted device with a lock open. -/
def open_ (k : Nat) (s : State := up) : State := { s with ctl := { s.ctl with locks := [k] } }

theorem wit_KeyedWritesTaken :
    (up.ready = true ∧ up.lockOpen Reg.TIME_UNLOCK = false ∧ up.lockOpen Reg.DRAM_UNLOCK = false ∧ up.lockOpen (Reg.CP_UNLOCK 7) = false) ∧
    (let s := open_ Reg.TIME_UNLOCK
     s.ready = true ∧ s.lockOpen Reg.TIME_UNLOCK = true ∧ s.radioStarted = false ∧ ((List.range 52).any fun p => (s.core p).gate.armed) = false) ∧
    (let s := open_ Reg.TIME_UNLOCK (with_ 51 { alive with gate := { alive.gate with armed := true } })
     s.ready = true ∧ s.lockOpen Reg.TIME_UNLOCK = true ∧ ((List.range 52).any fun p => (s.core p).gate.armed) = true) ∧
    (let s := open_ Reg.DRAM_UNLOCK; s.ready = true ∧ s.lockOpen Reg.DRAM_UNLOCK = true ∧ s.dramOn = false) ∧
    (let s := open_ Reg.DRAM_UNLOCK booted; s.ready = true ∧ s.lockOpen Reg.DRAM_UNLOCK = true ∧ s.dramOn = true) ∧
    (let s := open_ (Reg.CP_UNLOCK 7) radio
     s.ready = true ∧ s.lockOpen (Reg.CP_UNLOCK 7) = true ∧ s.portOn 7 = false ∧ s.fence 4 7 = 0 ∧ s.fhCfgOk = true ∧
     (s.setReg (Reg.CP_CFG 7) 0x12).receiveSet = true ∧ ((open_ (Reg.CP_UNLOCK 7)).setReg (Reg.CP_CFG 7) 0x12).receiveSet = false ∧
     bits ((0x13 : Word) &&& 0x1FFE).toNat 3 2 ≠ 3 ∧ bits ((0x1D : Word) &&& 0x1FFE).toNat 3 2 = 3) ∧
    (let s := open_ (Reg.CP_UNLOCK 7) (up.setReg (Reg.CP_CFG 7) 1)
     s.ready = true ∧ s.lockOpen (Reg.CP_UNLOCK 7) = true ∧ s.portOn 7 = true ∧ ∀ j, j < 8 → j ≠ 7 → j / 4 = 7 / 4 → s.portOn j = false) ∧
    (let s := open_ (Reg.CP_UNLOCK 7) ((up.setReg (Reg.CP_CFG 7) 1).setReg (Reg.CP_CFG 4) 1)
     s.lockOpen (Reg.CP_UNLOCK 7) = true ∧ s.portOn 7 = true ∧ (4 < 8 ∧ 4 ≠ 7 ∧ 4 / 4 = 7 / 4 ∧ s.portOn 4 = true) ∧ (s.port 7).link = false) := by
  decide +kernel

/-- A write of an unaligned half word, of an RO register, of a KEYED one while locked and once its lock is over, of a held and a
reserved place of the front end's memory, and of an RW register. -/
theorem wit_RegisterWordsWritten :
    up.ready = true ∧ (Instr.registerWrite .fabric 2 [1, 2, 3]).wellFormed = true ∧ (2 + 3) / 4 ≤ (2 + 3) / 4 ∧
    up.accAt Reg.HOST_LINK = some .ro ∧ up.accAt (Reg.CP_CFG 7) = some .keyed ∧
    up.lockKey (csrAt up.enabled (Reg.CP_CFG 7)) = some (Reg.CP_UNLOCK 7) ∧ Reg.CP_UNLOCK 7 ∉ up.ctl.locks ∧
    (let s : State := { up with time := { up.time with ticks := 24576 } }; s.ready = true ∧ s.lockOver (Reg.CP_UNLOCK 7) = true) ∧
    ((csrAt up.enabled 0x50107C).1 = .cfgMem ∧ cfgHeld 0x107C = true ∧ (csrAt up.enabled 0x501080).1 = .cfgMem ∧ cfgHeld 0x1080 = false) ∧
    (let b := csrAt up.enabled Reg.TIME_SET_NS32
     b.1 ≠ .coreB ∧ ((b.1.row b.2.2).map (·.acc)) = some .rw ∧ isSelector (b.2.1 + b.2.2) = false ∧ arrayOf (b.2.1 + b.2.2) = none) := by
  decide +kernel

theorem wit_ClearedBySequence :
    (let b := csrAt up.enabled Reg.HOST_STATUS
     up.ready = true ∧ ((b.1.row b.2.2).map (·.acc)) = some .wseq ∧ b.1 ≠ .coreB ∧ b.2.1 + b.2.2 ≠ Reg.CATCH_FAULTWORD) ∧
    (let b := csrAt booted.enabled (0x12F000 + cFAULTWORD)
     booted.ready = true ∧ ((b.1.row b.2.2).map (·.acc)) = some .wseq ∧ b.1 = .coreB ∧ b.2.1 < 0x200000 ∧
     (booted.physOf ((b.2.1 - 0x100000) / 0x1000)).isSome = true) ∧
    (let b := csrAt up.enabled Reg.CATCH_FAULTWORD
     ((b.1.row b.2.2).map (·.acc)) = some .wseq ∧ up.catchment (up.pathSel 0 Reg.CATCH_SELECT % 256) = none) ∧
    (let s : State := { (up.setReg Reg.CATCH_SELECT 3) with img := ⟨some img⟩, ctl := { up.ctl with path := [(Reg.CATCH_SELECT, 3)] } }
     s.ready = true ∧ (s.catchment (s.pathSel 0 Reg.CATCH_SELECT % 256)).isSome = true) := by decide +kernel

/-- A region that trains, its step window open or closed. -/
def trainRec : UpdateRec := ⟨15, 1, 1, 1, 0, 0, 1, 1, 1, 0, 0, 0, 0, 0, 0, 0, true⟩

/-- A region with an update of TRAIN at a step, its window open or closed. -/
def training (window : Option Nat) : State :=
  { up.setReg Reg.BKW_CTRL 2 with bkw := { up.bkw with regions := [(15, { up.region 15 with st := 1, run := some ⟨trainRec, 0, 0, false⟩, window := window })] } }

theorem wit_RuledWritesTaken_abort :
    (training (some 0)).ready = true ∧ (training (some 0)).bkwCtl 1 = true ∧ ((training (some 0)).region 15).run = some ⟨trainRec, 0, 0, false⟩ ∧
    ((training (some 0)).region 15).st = 1 ∧ trainRec.kind = 1 ∧ ((training (some 0)).region 15).queue = none ∧
    ((training (some 0)).region 15).window.isSome = true ∧
    (∀ j, j < 16 → j ≠ 15 → ((training (some 0)).region j).run = none ∧ ((training (some 0)).region j).queue = none) ∧
    (training none).ready = true ∧ ((training none).region 15).window = none := by decide +kernel

theorem wit_RuledWritesTaken :
    let n (v : Word) : Nat := (up.reg Reg.TIME_INCREMENT).toNat + (v.toNat % 2 ^ 16) * 2 ^ 32
    let near (v : Word) : Nat := max (0x0411AAAAAAAA - 447392427) (min (0x0411AAAAAAAA + 447392427) (n v))
    up.ready = true ∧ near 0x412 ≠ n 0x412 ∧ near 0x411 = n 0x411 ∧ up.radioStarted = false ∧
    (let s : State := { up with dfe := { up.dfe with rx := { up.dfe.rx with on := true } } }; s.ready = true ∧ s.radioStarted = true) ∧
    up.bkwCtl 1 = false ∧ bitOf (1 : Word).toNat 2 = false ∧ up.cacheFree = true ∧
    (let s := up.setReg Reg.BKW_CTRL 1; s.ready = true ∧ s.cacheFree = false) := by decide +kernel

theorem wit_ReadsLatch : up.ready = true ∧ up.timeRuns = true ∧ ¬(up.mode = .recovery ∧ Path.fabric = .bar2) ∧
    (let s : State := { up with mode := .spill }; s.timeRuns = true ∧ ¬(s.mode = .recovery ∧ Path.bar2 = .bar2)) := by decide +kernel
/-! ## The cores -/

/-- A core whose bundle 4095 is `w`, there. -/
def at_ (w : Nat) : Core := { alive with pc := 4095, im := [(4095, BitVec.ofNat 128 w)] }

/-- ADD to g31, MOVS of g31 to FLAGS, an unassigned slot, a WAIT for transfer 15, a load of a byte, a gated empty bundle, an empty
one that may be pre-empted. -/
def wADD : Nat := (2 ^ 22 + 31 * 2 ^ 17) * 2 ^ 92
def wMOVS : Nat := (0xB * 2 ^ 22 + 31 * 2 ^ 17 + 2 ^ 11) * 2 ^ 92
def wBad : Nat := 0x3F * 2 ^ 114
def wWait : Nat := 0x408000
def wLoad : Nat := 0x100000
def wGate : Nat := 2 ^ 127
def wCp : Nat := 2 ^ 126

/-- What a clause of CoreCycles asks of the core that arrives. -/
def cyc (c : Core) (q : Core → Bundle → Bool) : Bool :=
  let s := with_ 51 c
  let d := (s.core 51).arrive
  s.ready && s.pwr.bubble == 0 && (s.core 51).bankWait == [] && (s.core 51).eddy == none && q d (bundleOf (d.bundle d.pc))

theorem wit_CoreCycles :
    cyc Core.reset (fun c _ => c.run == .unpowered) = true ∧ cyc { alive with run := .fenced } (fun c _ => c.run == .fenced) = true ∧
    cyc { alive with run := .halted .ended } (fun c _ => c.run == .halted .ended) = true ∧
    cyc { alive with haltReq := true } (fun c _ => c.run == .running && c.haltReq && c.boundary) = true ∧
    cyc (at_ wBad) (fun c b => c.run == .running && !c.haltReq && !c.preempt && !b.decodeOk) = true ∧ up.sched.jobs = [] ∧
    cyc { at_ wADD with flight := [⟨0, .g 1, 5⟩] } (fun c b => c.run == .running && b.decodeOk && c.delay == 0 && c.reps.isEmpty && !b.g &&
      sOp b.s0 == 1 && b.s1 == 0 && b.l == 0 && b.e == 0 && b.m == 0) = true ∧
    cyc { at_ wMOVS with raised := 1 } (fun c b => c.run == .running && b.decodeOk && c.delay == 0 && c.reps.isEmpty && !b.g &&
      sOp b.s0 == 0x0B && bitOf b.s0 11 && bits b.s0 16 12 == 0 && b.s1 == 0 && b.l == 0 && b.e == 0 && b.m == 0) = true ∧
    cyc (at_ wWait) (fun c b => b.decodeOk && controlOk c b && !b.g && waitOf c b == [cSTALL_SLUICE]) = true ∧
    cyc { at_ wCp with preempt := true } (fun c b => c.run == .running && !c.haltReq && c.preempt && c.boundary && b.cp) = true ∧
    cyc { at_ wLoad with half := some (0, 0) } (fun c b => c.run == .running && !c.haltReq && !c.preempt && b.decodeOk && controlOk c b &&
      !b.g && waitOf c b == [] && copiedOk c b && (c.bankServe b).1 == 0 && (bankReqs c b).length == 1) = true ∧
    cyc { at_ wGate with gate := { alive.gate with armed := true, tgt := 4095, time := 1 } } (fun c b => b.decodeOk && controlOk c b && b.g &&
      c.gate.armed && !c.gate.opened && c.gate.tgt == c.pc && decide (gateL up.ns32 c.gate.time < 0)) = true := by decide +kernel

/-- A pass into tile 3 of all lanes and 64 columns, and a run. -/
def pass_ (endsAt : Nat) : PassRun :=
  ⟨0, 1, 3, false, true, false, 2 ^ 64 - 1, 64, 1, 0, 0, 0, 0, 0, 0, 0, endsAt, 0, ⟨[], [], [], [], [], [], 0, 0, 0⟩⟩
def run_ (started : Bool) (endsAt : Nat) : EddyRun := ⟨7, 0, 0, 0, 0, false, started, none, [], 0, [], [], endsAt, 0⟩

/-- What CoreUnitsEnd asks of core 51, for a core `c`. -/
def ends (c : Core) (q : Core → Bool) : Bool :=
  let s := with_ 51 { c with cyc := 5 }
  s.ready && (s.core 51).lmErr.isEmpty && q (s.core 51)

theorem wit_CoreUnitsEnd_pass : ends { alive with pass := some (pass_ 5) } (fun c => (c.pass.map (·.endsAt)) == some 5) = true ∧
    (pass_ 5).width ≤ 64 ∧
    ∀ w i k l, (pass_ 5).check (alive.tile 3) ((pass_ 5).rows (alive.tile 3)) [] ≠ .mismatch w i k l := by
  refine ⟨by decide +kernel, by decide +kernel, ?_⟩
  intro w i k l h
  have e : (pass_ 5).check (alive.tile 3) ((pass_ 5).rows (alive.tile 3)) [] = .equal := rfl
  rw [e] at h
  cases h

theorem wit_CoreUnitsEnd :
    ends { alive with pass := some (pass_ 6) } (fun c => (c.pass.map fun x => decide (c.cyc < x.endsAt)) == some true) = true ∧
    ends { alive with eddy := some (run_ false 0), queue := [3] } (fun c => (run_ false 0).desc.src == 0 && c.queue == [3] &&
      runReady (run_ false 0) c && !(c.ldprog.any fun l => l.slot == 7)) = true ∧
    ends { alive with eddy := some (run_ false 0) } (fun c => !runReady (run_ false 0) c) = true ∧
    ends { alive with eddy := some (run_ true 5) } (fun c => decide ((run_ true 5).endsAt ≤ c.cyc)) = true ∧
    ends { alive with eddy := some (run_ true 6) } (fun c => decide (c.cyc < (run_ true 6).endsAt)) = true ∧
    ends { alive with ldprog := [⟨7, 0x60000 - 128, 5⟩] } (fun c => c.ldprog.all fun l => decide (l.endsAt ≤ c.cyc)) = true ∧
    ends { alive with ldprog := [⟨7, 0x60000 - 128, 6⟩] } (fun c => c.ldprog.all fun l => decide (c.cyc < l.endsAt)) = true ∧
    ends { alive with scrub := true } (·.scrub) = true ∧ ends alive (fun c => !c.scrub) = true ∧
    ends { alive with stall := 1048576 } (fun c => c.run == .running && decide (1048576 ≤ c.stall)) = true ∧ up.sched.jobs = [] ∧
    ends { alive with stall := 1048575 } (fun c => decide (c.stall < 1048576)) = true ∧
    ends { alive with haltReq := true } (fun c => c.haltReq && c.boundary && c.run == .running) = true ∧
    ends { alive with haltReq := true, delay := 1 } (fun c => !c.boundary) = true := by decide +kernel

/-- A transfer of one row of 64 bytes between the pool and local memory. -/
def xfer (dropped : Bool) (w : XferWait) : Xfer := { xferOf 64 w dropped with basin := 0 }

/-- What TransferCompletes asks of the transfer at place 5 of an engine of core 51. -/
def moves (so : Bool) (x : Xfer) (q : State → Core → Bool) : Bool :=
  let l : List Xfer := (List.range 5).map (fun i => { x with num := i + 1 }) ++ [x]
  let s := with_ 51 (if so then { alive with so := l } else { alive with si := l })
  s.ready && decide ((if so then (s.core 51).so else (s.core 51).si)[5]? = some x) && q s (s.core 51)

theorem wit_TransferCompletes :
    moves true (xfer true .none) (fun _ _ => true) = true ∧ moves false (xfer true .none) (fun _ _ => true) = true ∧
    moves true (xfer false .frames) (fun _ _ => true) = true ∧
    moves false { xfer false .none with target := 1 } (fun _ c => c.pass == none && c.cbWriting == false) = true ∧
    moves false { xfer false .none with target := 1, writing := some 1 } (fun _ c => decide (c.cyc < 1) && c.cbWriting) = true ∧
    moves false { xfer false .none with dst := 0x60000 - 64 } (fun s c => c.lmErr.isEmpty &&
      s.place (State.Xfer.farAt (xfer false .none) false 0) == (.mem 0x100000000000, 0xC00000) && (s.poisoned 0x100000000000 64).isEmpty) = true ∧
    moves true { xfer false .none with src := 0x60000 - 64 } (fun s c => c.lmErr.isEmpty &&
      s.place (State.Xfer.farAt (xfer false .none) true 0) == (.mem 0x100000000000, 0xC00000)) = true := by decide +kernel

/-- What GatesAct asks: core 51 waits at, or is elsewhere than, a gate whose launch falls on this tick. -/
def gates (c : Core) (fenced : Bool) (q : State → Core → Bool) : Bool :=
  let s : State := { with_ 51 c with time := { up.time with last := 0xFFFFFFFF }, fences := if fenced then [(51, 1)] else [] }
  s.ready && s.sched.jobs.isEmpty && s.pwr.bubble == 0 && (s.core 51).bankWait == [] && (s.core 51).eddy == none && s.coreFenced 51 == fenced && q s (s.core 51)

/-- Core 51 with a gate armed at bundle 4095. -/
def gated (w : Nat) : Core := { at_ w with run := .waiting, gate := { alive.gate with armed := true, tgt := 4095 } }

theorem wit_GatesAct :
    gates (gated wGate) false (fun s c => s.launchNow c.gate && waitsAtGate c && c.delay == 0 && c.reps.isEmpty && !c.haltReq &&
      c.bundle 4095 == BitVec.ofNat 128 (2 ^ 127)) = true ∧
    gates { gated wGate with run := .running, tickSeen := 1 } false (fun s c => s.reachesNow c && c.delay == 0 && c.reps.isEmpty) = true ∧
    gates { gated wGate with haltReq := true } false (fun s c => s.launchNow c.gate && waitsAtGate c && c.haltReq && c.boundary) = true ∧
    gates (gated (wGate + wWait)) false (fun s c => s.launchNow c.gate && waitsAtGate c && !c.preempt && (bundleOf (c.bundle c.pc)).decodeOk &&
      controlOk c.arrive (bundleOf (c.bundle c.pc)) && waitOf c.arrive (bundleOf (c.bundle c.pc)) == [cSTALL_SLUICE]) = true ∧
    gates { gated wGate with gate := { (gated wGate).gate with time := 1 } } false (fun s c => !s.launchNow c.gate) = true ∧
    gates { gated wGate with run := .fenced } true (fun s c => s.launchNow c.gate && c.run == .fenced) = true ∧
    gates { gated wGate with gate := { (gated wGate).gate with late := true } } false (fun _ c => waitsAtGate c && c.gate.late &&
      !c.gate.opened) = true ∧
    gates (gated wGate) false (fun _ c => !c.gate.late && c.run != .halted .missed) = true ∧
    gates { gated wGate with run := .running, pc := 0, gate := { (gated wGate).gate with abn := true } } false (fun s c =>
      s.launchNow c.gate && c.gate.abn && c.run == .running && !s.reachesNow c && c.bundle c.gate.tgt == BitVec.ofNat 128 (2 ^ 127)) = true := by
  decide +kernel
/-! ## Resets, boot, the spillway state -/

/-- The device in each mode. -/
def mode (m : Mode) : State := { up with mode := m }

theorem wit_PowerOnResets : (mode .off).mode = .off ∧ (mode .spill).mode ≠ .off ∧ (mode .relHeld).mode = .relHeld ∧ (mode .porLow).mode = .porLow := by
  decide

theorem wit_ReleaseBoots :
    up.mode ≠ .porLow ∧ up.mode ≠ .relHeld ∧ State.reset.mode = .porLow ∧ ({ BootFacts.reset with railsOk := false } : BootFacts).railsOk = false ∧
    BootFacts.reset.railsOk = true ∧ ({ BootFacts.reset with recovery := true } : BootFacts).recovery = true ∧
    (let s : State := { mode .relHeld with boot := { up.boot with slotA := none } }
     s.mode = .relHeld ∧ s.boot.facts = BootFacts.reset ∧ s.slotValid s.boot.slotA = false ∧ s.slotValid s.boot.slotB = false) ∧
    (BootFacts.reset.recovery = false ∧ BootFacts.reset.badDomains = [] ∧ State.reset.handled = true ∧
      State.reset.slotOf State.reset.boot.preferB = some ⟨true, 0, true, 0, 1⟩ ∧ State.reset.slotValid (some ⟨true, 0, true, 0, 1⟩) = true) := by
  decide +kernel

/-- DEVICE_RESET has asked for a reset. -/
def asked (k : Nat) (m : Mode := .running) : State := { mode m with boot := { up.boot with resetReq := some k } }

theorem wit_DeviceResets : up.boot.resetReq ≠ some 1 ∧ (asked 2 .spill).awake = false ∧ (asked 1).awake = true ∧ (asked 1).boot.resetReq = some 1 ∧
    (asked 2 .recovery).awake = true ∧ (asked 2 .recovery).boot.resetReq = some 2 ∧ BootFacts.reset.badDomains = [] := by decide +kernel

/-- VFs 0 to 7 enabled. -/
def vfs : State := { up with boot := { up.boot with numVf := 8, hostUp := true } }

theorem wit_HostResetsAndLink :
    (up.mode = .running ∧ up.boot.perst = false ∧ up.clearOuts.resetHost.handled = true ∧ up.clearOuts.resetPf.handled = true) ∧
    ((mode .spill).mode ≠ .running ∧ (mode .spill).mode ≠ .recovery) ∧
    (vfs.mode = .running ∧ 7 < vfs.boot.numVf ∧ (vfs.clearOuts.flr (.vf 7)).handled = true) ∧ (up.ready = true ∧ up.boot.numVf ≤ 0) ∧
    (vfs.ready = true ∧ vfs.boot.hostUp = true ∧ vfs.boot.perst = false ∧ (8 : Fin 9).val ∈ [1, 2, 4, 8] ∧ (5 : Fin 6).val ≠ 0) ∧
    ((up.setPerst true).ready = true ∧ (up.setPerst true).boot.perst = true) ∧
    ((up.setReg Reg.HOST_LINK 0x10000).ready = true ∧ (up.setReg Reg.HOST_LINK 0x10000).pcieUp = true) ∧ up.pcieUp = false := by decide +kernel

theorem wit_GraveFaultsSpill_cause : up.graveFault .collectorError 1 ∧ booted.graveFault (.dramChannelLoss 1) 3 ∧
    ({ up with boot := { up.boot with watchdog := true } } : State).graveFault .watchdogExpiry 8 := by
  refine ⟨.inl ⟨rfl, rfl⟩, .inr (.inr (.inl ⟨1, rfl, rfl, by decide +kernel, by decide +kernel⟩)), ?_⟩
  exact .inr (.inr (.inr (.inr (.inr (.inr ⟨rfl, rfl, rfl⟩)))))

theorem wit_GraveFaultsSpill : up.ready = true ∧ booted.ready = true ∧ up.dramOn = false ∧ (2 : Fin 16).val / 2 ∉ booted.dramPairs ∧
    up.boot.watchdog = false := by decide +kernel

/-- A tick, and a command, in the spillway state. -/
theorem wit_SpillwaySurvives : (mode .spill).mode = .spill ∧ (mode .spill).pending.head? ≠ some .aonPowerLoss ∧
    step (mode .spill) = .next (mode .spill).idle ∧ ({ mode .spill with pending := [.perstN] } : State).pending.head? ≠ some .aonPowerLoss ∧
    ({ mode .spill with pending := [.aonPowerLoss, .powerOn] } : State).pending = .aonPowerLoss :: [.powerOn] := by
  exact ⟨rfl, by decide, rfl, by decide, rfl⟩

theorem wit_MemoryStaysCanonical : up.memWf = true ∧ step up = .next up.idle := ⟨by decide +kernel, rfl⟩

theorem wit_TimebaseStaysInRange : up.time.inRange ∧ step up = .next up.idle := by
  refine ⟨⟨by decide +kernel, by decide +kernel, by decide +kernel, ?_⟩, rfl⟩
  intro v h
  cases h with
  | inl h => subst h; decide +kernel
  | inr h => cases h

/-- An AC pin and an LVCMOS one that drive, and one that only receives. -/
theorem wit_TapInstructionsTaken :
    (let s : State := { mode .porLow with pins := { up.pins with preload := [(.jtx 11 true, true), (.ppsOut, false)] } }
     s.mode ≠ .off ∧ s.mode = .porLow ∧ s.logOrdered = true ∧ cellDrives (.jtx 11 true) = true ∧ s.preloaded (.jtx 11 true) = some true ∧
     cellDrives .ppsOut = true ∧ s.preloaded .ppsOut = some false) ∧
    (mode .off).mode = .off ∧ (mode .off).logOrdered = true ∧ up.mode ≠ .porLow ∧ cellDrives (.jrx 0 false) = false ∧
    TapIns.bypass.acts = false ∧ tapOfCode 0xFF = .bypass := by decide +kernel

theorem wit_SmbusAnswers :
    (up.mode = .running ∧ up.logOrdered = true ∧ up.smb.av = false ∧ up.smb.ar = false ∧ ¬(up.smb.av = true ∧ up.smb.addr = 0x7F)) ∧
    (let s : State := { mode .spill with smb := ⟨0x7F, true, true, false, false⟩ }
     s.mode = .spill ∧ s.logOrdered = true ∧ s.smb.av = true ∧ s.smb.addr = 0x7F ∧ s.smb.ar = true ∧ s.smb.udidPending = false ∧
     (csrAt s.enabled 0x6FFFFF).1 ∉ [Blk.chipB, .timeB, .faultB, .logWin]) := by decide +kernel

/-- Bits of a UDID that the wire shows high, and one it does not. -/
theorem wit_SmbusAnswers_udid : up.udid = up.udid ∧ ~~~up.udid ≠ up.udid ∧ up.udid &&& ~~~up.udid = 0 := by
  refine ⟨rfl, ?_, ?_⟩
  · intro h
    have := congrArg (fun x => x.getLsbD 0) h
    simp at this
  · simp
/-! ## Time -/

/-- Ticks: plain ones, one on which SUBSEC wraps and a frame begins, one that takes a GO. -/
theorem wit_TickAdvances :
    (up.timeRuns = true ∧ up.ready = true ∧ up.ctl.notifyDue = [] ∧ up.flt.recheck = false ∧ up.time.goPend = false) ∧
    (let s : State := { mode .spill with time := { up.time with sub := 10 ^ 9 * 2 ^ 40 - 1 } }
     s.timeRuns = true ∧ s.mode ≠ .running ∧ s.time.goPend = false ∧ s.time.arrive.wraps = true ∧ s.time.arrive.crosses = true) ∧
    (let s : State := { mode .recovery with time := { up.time with goPend := true } }
     s.timeRuns = true ∧ s.mode ≠ .running ∧ s.time.goPend = true) := by decide +kernel

theorem wit_TickAdvances_gates (p : Nat) : (up.core p).gate.past = false := rfl

/-- Port 7 is up and carries the PTP source; the offset limits of `cfg`. -/
def ptpUp (cfg : Word) : State :=
  let s := up.setReg (Reg.CP_CFG 7) 1
  { s with ctl := { s.ctl with eff := [(Reg.TIME_PTP_CFG, cfg)] }, time := { s.time with source := 1 }
           ports := [(7, { up.port 7 with link := true })] }

theorem wit_PtpMessagesTaken :
    (up.ready = true ∧ ¬(up.portOn 7 = true ∧ (up.port 7).link = true ∧ up.fence 4 7 = 0)) ∧
    (let s := ptpUp 0x60; s.ready = true ∧ s.portOn 7 = true ∧ (s.port 7).link = true ∧ s.fence 4 7 = 0 ∧ s.ptpPort 7 = false) ∧
    (let s := ptpUp 0x70; s.ready = true ∧ s.portOn 7 = true ∧ (s.port 7).link = true ∧ s.fence 4 7 = 0 ∧ s.ptpPort 7 = true ∧
      bits (s.ctl.inForce Reg.TIME_PTP_CFG).toNat 31 24 = (0 : Byte).toNat ∧ s.time.master ≠ some 0) ∧
    (let s : State := { ptpUp 0x70 with time := { (ptpUp 0x70).time with t1 := some 0, t2 := some 0, t3 := some 0, corr := some 3, master := some 1 } }
     s.ready = true ∧ s.ptpPort 7 = true ∧ s.time.t1 = some 0 ∧ s.time.t2 = some 0 ∧ s.time.t3 = some 0 ∧ s.time.corr = some 3 ∧
     s.time.master = some 1) := by decide +kernel

/-- A one-step Sync, whatever the correction of its port. -/
theorem wit_PtpMessagesTaken_sync : (ptpUp 0xFF70).ready = true ∧ (ptpUp 0xFF70).aeq.full = true ∧
    bits ((ptpUp 0xFF70).ctl.inForce Reg.TIME_PTP_CFG).toNat 31 24 = (0 : Byte).toNat := by decide +kernel

theorem wit_TimeSourcesLost :
    (up.ready = true ∧ up.time.source ≠ 1 ∧ up.time.source ≠ 2 ∧ up.synceOf (bits (up.ctl.inForce Reg.TIME_SYNCE).toNat 2 0) = false) ∧
    (let s : State := { up with time := { up.time with source := 1, clock := 2 } }; s.ready = true ∧ s.time.source = 1 ∧ s.time.clock = 2) ∧
    (let s : State := { up with time := { up.time with source := 2, ppsMissed := 2, clock := 1, sub := 499999999 * 2 ^ 40 } }
     s.ready = true ∧ s.time.source = 2 ∧ s.clearOuts.ppsEdge.handled = true) ∧
    (let s : State := { up with ctl := { up.ctl with eff := [(Reg.TIME_SYNCE, 0x17)] } }
     s.ready = true ∧ bits (s.ctl.inForce Reg.TIME_SYNCE).toNat 2 0 = 7 ∧ s.synceOf 7 = true) := by decide +kernel

theorem wit_PeriodsBegin : (up.ready = true ∧ up.bkw.regions = [] ∧ up.sched.tele = [] ∧ up.deviceMu = 0 ∧
      (∀ mu : Fin 4, up.slotDue mu.val = true) ∧ up.periodDue 125000 = true) ∧
    (let s : State := { up with time := { up.time with sub := 1 } }
     s.ready = true ∧ (∀ mu : Fin 4, s.slotDue mu.val = false) ∧ s.periodDue 125000 = false ∧ s.periodDue 1000 = false) := by decide +kernel
/-! ## Power -/

theorem wit_EstimatorSteps : up.ready = true ∧ up.periodDue 1000 = true ∧ up.pwr.dying = [] ∧ State.channelsDiffer 131071 131071 = false ∧
    (let s : State := { up with pwr := { up.pwr with diverge := 3, bubble := 1 } }
     s.ready = true ∧ s.pwr.dying = [] ∧ State.channelsDiffer 131071 0 = true) := by decide +kernel

/-- A reading of 200 °C, the second above the trip point, and one of -1 °C. -/
theorem wit_SensorReadings :
    let s : State := { up with pwr := { up.pwr with tripRun := [(8, 1)] } }
    let cfg := (s.reg Reg.PWR_THERM_CFG).toNat
    s.ready = true ∧ s.pwr.warnArmed = true ∧ s.pwr.hotArmed = true ∧ ((bits cfg 7 0 * 16 : Nat) : Int) < sext 16 0xC80 ∧
    ((bits cfg 15 8 * 16 : Nat) : Int) < sext 16 0xC80 ∧ ((bits cfg 23 16 * 16 : Nat) : Int) < sext 16 0xC80 ∧ tget (fun _ => 0) s.pwr.tripRun 8 ≠ 0 ∧
    (∀ x ∈ (List.range 9).map fun i => if i = 8 then sext 16 0xFFF0 else sext 16 (s.ctl.arr bankTemp i).toNat,
      x ≤ ((bits cfg 7 0 * 16 : Nat) : Int) - 32 ∧ x ≤ ((bits cfg 15 8 * 16 : Nat) : Int) - 32) := by decide +kernel

/-- Domain `d` up, a second and more after reset, with `n` reports of low slack behind it, at an output of `v` tenths of a millivolt. -/
def volts (d v : Nat) (n : Nat := 0) : State :=
  { up with pwr := { up.pwr with dom := [(d, 1)], mv := [(d, v)], slackLow := [(d, n)] }, time := { up.time with ticks := 245760000 } }

theorem wit_VoltageMargin :
    (up.ready = true ∧ up.domOn 64 = false) ∧
    ((volts 51 8475).ready = true ∧ (volts 51 8475).domOn 51 = true ∧ (volts 51 8475).millivolts 51 < up.fuses.vMax) ∧
    ((volts 51 8500).ready = true ∧ (volts 51 8500).domOn 51 = true ∧ up.fuses.vMax ≤ (volts 51 8500).millivolts 51 ∧
      tget (fun _ => 0) (volts 51 8500).pwr.slackLow 51 + 1 < 1000 ∧
      1000 ≤ tget (fun _ => 0) (volts 51 8500 999).pwr.slackLow 51 + 1 ∧ (volts 51 8500 999).fence 5 (51 / 13) = 0) ∧
    ((volts 64 6025).ready = true ∧ (volts 64 6025).domOn 64 = true ∧ up.fuses.vMin + 25 ≤ (volts 64 6025).millivolts 64 ∧
      tget (fun _ => 0) (volts 64 6025).pwr.notHigh 64 + 245760000 ≤ (volts 64 6025).time.ticks ∧ State.calibUnit 64 = none ∧ tfind (volts 64 6025).pwr.lowered 64 = none) := by decide +kernel
/-! ## The front end -/

/-- Receive and transmit directions in state `r` and `t`, with records in use: link 0 of lane 11, receive channel 63,
chirp channel 7 for spreading factor 5. -/
def front (r t : DirSt) : State :=
  let c := ((((up.ctl.setArr bankCfgEff (0x1000 / 4) 0x201).setArr bankCfgEff (0x1004 / 4) 11).setArr bankCfgEff ((0x2000 + 63 * 32) / 4) 1).setArr
    bankCfgEff ((0x1100 + 7 * 32) / 4) 0x01010001).setArr bankCfgEff ((0x1100 + 7 * 32 + 4) / 4) 0x88
  { up with ctl := c, dfe := { up.dfe with rx := r, tx := t } }

/-- A direction that is off, one that is on, and one that is aligned, with link 0 up. -/
def offDir : DirSt := DirSt.reset
def onDir : DirSt := { DirSt.reset with on := true }
def aligned : DirSt := { DirSt.reset with on := true, aligned := true, links := [0] }

/-- A carrier of one antenna, layer and position in cluster 0. -/
def carrier : CarrierRec where
  mu := 0
  group := false
  viaSwitch := false
  uplink := true
  downlink := true
  fronthaul := false
  rxAntennas := [1]
  rxLayers := 1
  rxQm := 2
  normalCp := true
  dmrsFirst := true
  dmrsNoData := true
  bandwidthMHz := 100
  rxPlaces := [[⟨0, 0, 0⟩]]
  fallbacks := 0
  txStreams := 1
  txLayers := 1
  txQm := 2
  txPlaces := [⟨0, 0, poolAt, poolAt⟩]
  pSlots := 1
  txSlots := []
  rxSlots := []
  outShift := 0
  tableA := 0
  tableB := 0
  nrb := 2
  dfeWords := []
  wellFormed := true

/-- A state with that carrier applied. -/
def carrying (k : Nat) (s : State) (r : CarrierRec := carrier) : State := { s with func := { s.func with applied := [(k, r)], started := 0xF } }

theorem wit_LinksFollowSysref :
    (up.ready = true ∧ up.dfe.tx.on = false ∧ up.dfe.rx.aligned = false ∧ up.laneLink 11 = none) ∧
    (let s := front onDir onDir
     s.ready = true ∧ s.dfe.rx.on = true ∧ s.dfe.rx.aligned = false ∧ s.onLemc false = true ∧ s.onLemc true = true) ∧
    (let s : State := { front onDir onDir with time := { up.time with sub := 30 * 2 ^ 40 } }
     s.ready = true ∧ s.dfe.tx.on = true ∧ s.dfe.tx.aligned = false ∧ s.onLemc false = false ∧ s.onLemc true = false) ∧
    (let s := front aligned aligned
     s.ready = true ∧ s.dfe.tx.on = true ∧ s.dfe.tx.aligned = true ∧ s.dfe.rx.aligned = true ∧ s.laneLink 11 = some 0 ∧ 0 ∈ s.dfe.rx.links) := by
  decide +kernel

/-- The same with carrier 0 and the last sample of a symbol's window come on channel 63. -/
def windowed : State :=
  let s := carrying 0 (front aligned offDir)
  { s with dfe := { s.dfe with rxChans := [(63, { ChanSt.reset with n := 1, out := [⟨7, -7⟩] })] } }

theorem wit_FftDrains :
    up.dfe.rx.aligned = false ∧
    (let s := windowed
     let r := s.chanRec bankCfgEff false 63
     s.ready = true ∧ s.dfe.rx.aligned = true ∧ r.valid = true ∧ s.carrierOf r.carrier = some carrier ∧
     s.fftWindow 63 r ⟨0, 0, 0⟩ = some [⟨7, -7⟩] ∧ r.ant < s.gridAnts carrier ∧ s.gridAnts carrier ≤ 16 ∧
     (State.rxSpots carrier).map (fun x => gridAddr x.2.2.cluster.val x.2.2.block.val ⟨0, 0, 0⟩) = [gridAddr 0 0 ⟨0, 0, 0⟩] ∧
     (∀ x ∈ State.rxSpots carrier, s.fence 5 x.2.2.cluster.val = 0 ∧ s.mirrorOn x.2.2.cluster.val carrier.mu.val ⟨0, 0, 0⟩ = false) ∧
     s.fftWindow 63 r ⟨0, 0, 1⟩ = none ∧ (s.chanRec bankCfgEff false 62).valid = false) ∧
    (let s := front aligned offDir; s.ready = true ∧ s.carrierOf (s.chanRec bankCfgEff false 63).carrier = none) := by decide +kernel

/-- Stream 1 with the AGC on at index 63, which a loud block keeps and a quiet one lowers: sent at once, or at a cyclic prefix. -/
def agcOn (cfg : Word) (freeze : Bool) (links : List Nat) : State :=
  { front aligned offDir with dfe := { up.dfe with rx := { aligned with links := links }
                                                   agc := [(1, { AgcSt.reset with cfg := cfg, att := 63, sent := 63, freeze := freeze, below := 15 })] } }

theorem wit_AgcDecides :
    let d (s : State) (block : List (Int × Int × Bool)) : Nat × Nat :=
      State.agcDecide (s.agcOf 1).cfg.toNat (s.agcOf 1).high.toNat (s.agcOf 1).low.toNat block (s.agcOf 1).att (s.agcOf 1).below
    let on (s : State) : Bool := s.ready && s.dfe.rx.aligned && bitOf (s.agcOf 1).cfg.toNat 31 && decide (0 ∈ s.dfe.rx.links)
      && ((s.streamsOf bankCfgEff false).getD 1 (9, false)).1 == 0 && (s.agcOf 1).queue.isEmpty
    let at_ (s : State) : Bool := s.cpStarts 1 ((s.streamsOf bankCfgEff false).getD 1 (9, false)).2 (s.agcOf 1).n
    (up.ready = true ∧ up.dfe.rx.aligned = false) ∧
    (let s := agcOn 0x4FC01042 false [0]; s.ready = true ∧ s.dfe.rx.aligned = true ∧ bitOf (s.agcOf 1).cfg.toNat 31 = false) ∧
    (on (agcOn 0xCFC01042 false [0]) = true ∧ (agcOn 0xCFC01042 false [0]).inHoldoff 1 = false ∧
      (d (agcOn 0xCFC01042 false [0]) [(1, -1, false)]).1 = 62 ∧ (d (agcOn 0xCFC01042 false [0]) [(32512, 0, false), (0, -32512, false)]).1 = 63) ∧
    (on (agcOn 0xEFC01042 false [0]) = true ∧ at_ (agcOn 0xEFC01042 false [0]) = true) ∧
    (let s := agcOn 0xCFC01042 true [0]; s.ready = true ∧ (s.agcOf 1).freeze = true) ∧
    (let s := agcOn 0xCFC01042 false [1]; s.ready = true ∧ 0 ∉ s.dfe.rx.links) ∧
    (∀ k : Fin 8, ((agcOn 0 false [0]).chirpRec k.val).valid = false ∨ ((agcOn 0 false [0]).chirpRec k.val).source ≠ 1) ∧
    (63 ∈ ((agcOn 0 false [0]).chans bankCfgEff false).map (·.1)) := by decide +kernel

/-- Chirp channel 7 with a window of its spreading factor come, and one short of it. -/
def chirping (m : Nat) : State :=
  { front aligned offDir with dfe := { up.dfe with rx := aligned, chirpChans := [(7, { ChirpChan.reset with m := m, fourth := List.replicate m ⟨1, 2⟩ })] } }

/-- Whatever the powers of the window's bins, one of the two clauses meets its premises: the powers are a free value. -/
theorem wit_ChirpWindows :
    let s := chirping 32
    let r := s.chirpRec 7
    let c := tget (fun _ => ChirpSt.reset) s.dfe.chirp (7 * 8 + 0)
    let bins := (List.range 32).map fun k => (Config.chirpPower 5 (pairsOf (List.replicate 32 ⟨1, 2⟩))).getD k 0
    ((chirping 31).ready = true ∧ (chirping 31).chirpWindow 7 5 0 = none) ∧
    (s.ready = true ∧ s.chirpWindow 7 (0 + 5) c.win = some (List.replicate 32 ⟨1, 2⟩) ∧ s.dfe.rx.aligned = true ∧ r.valid = true ∧
      bitOf r.sfMask 0 = true ∧ bitOf r.sfMask 1 = false) ∧
    (((State.chirpTest (0 + 5) r.thresh bins).2.2.2 = false ∧ r.preMin ≠ 0) ∨
      ((State.chirpTest (0 + 5) r.thresh bins).2.2.2 = true ∧ c.hitPrev = false ∧ r.preMin = 1 ∧ c.hold = 0)) := by
  refine ⟨by decide +kernel, by decide +kernel, ?_⟩
  cases (State.chirpTest (0 + 5) ((chirping 32).chirpRec 7).thresh
    ((List.range 32).map fun k => (Config.chirpPower 5 (pairsOf (List.replicate 32 ⟨1, 2⟩))).getD k 0)).2.2.2 with
  | false => exact .inl ⟨rfl, by decide +kernel⟩
  | true => exact .inr ⟨rfl, by decide +kernel, by decide +kernel, by decide +kernel⟩

/-- Carrier 15 in the downlink, 6 µs before a symbol, which is handed over or not. -/
def sending (handed : Bool) : State :=
  let s := carrying 15 (front aligned aligned)
  { s with tx := { s.tx with syms := [⟨0, 0, ⟨0, 0, 0⟩, [15], [], [], true, false, handed⟩] }
           time := { s.time with sfn := 1023, sub := (10 ^ 9 - 6000) * 2 ^ 40 } }

/-- Stream 31 with its averages whole, as powers `w`, and the mask checker on or off. -/
def masked (en : Bool) (w : List Word) (viol : Nat) : State :=
  let s := (front aligned aligned).setReg Reg.DFE_MASK_CFG (if en then 0x80000200 else 0x200)
  { s with dfe := { s.dfe with streams := [(31, { TxStream.reset with sums := w, wins := 1, viol := viol })] } }

/-- A symbol handed over and one not; a muted stream; violations up to the last. -/
theorem wit_SamplesSent :
    (up.ready = true ∧ up.carrierOf 15 = none ∧ up.dfe.tx.aligned = false ∧ up.downOn 6000 = false) ∧
    (∀ h : Bool, let s := sending h
      s.ready = true ∧ s.carrierOf 15 = some carrier ∧ s.ifftDue 0 ⟨0, 0, 0⟩ = true ∧ s.ifftDue 0 ⟨0, 0, 1⟩ = false ∧
      s.dfe.tx.aligned = true ∧ s.downOn 6000 = true ∧ s.symHanded 15 ⟨0, 0, 0⟩ = h) ∧
    (let s := (front aligned aligned).setReg Reg.DFE_TX_MUTED 0x80000000; s.ready = true ∧ s.dfe.tx.aligned = true ∧ s.muted 31 = true) ∧
    (let s := front aligned aligned; s.muted 31 = false ∧ (s.txStream 31).t = 0) ∧
    (let s : State := { front aligned aligned with mode := .spill }; s.mode = .spill ∧ s.dfe.tx.on = true) ∧
    (let tooLoud (s : State) (k : Nat) : Bool :=
       (laneFp (BitVec.ofNat 32 (s.cfgField (0xC000 + ((s.linkRec bankCfgEff true ((s.streamsOf bankCfgEff true).getD 31 (0, false)).1).mask * 256
         + k) * 4) 4))).1.lt (laneFp ((s.txStream 31).sums.getD k 0)).1
     let loud := List.replicate 255 0 ++ [0x3F800000]
     let whole (s : State) : Bool := s.ready && s.dfe.tx.aligned && decide (bits (s.reg Reg.DFE_MASK_CFG).toNat 5 0 + 1 ≤ (s.txStream 31).wins)
     let on (s : State) : Bool := whole s && bitOf (s.reg Reg.DFE_MASK_CFG).toNat 31 && !s.muted 31
     whole (masked false [] 0) = true ∧ bitOf ((masked false [] 0).reg Reg.DFE_MASK_CFG).toNat 31 = false ∧ whole up = false ∧
     on (masked true (List.replicate 256 0) 1) = true ∧ (∀ k, k < 256 → tooLoud (masked true (List.replicate 256 0) 1) k = false) ∧
     on (masked true loud 1) = true ∧ tooLoud (masked true loud 1) 255 = true ∧
     max 1 (bits ((masked true loud 1).reg Reg.DFE_MASK_CFG).toNat 11 8) ≤ 1 + 1 ∧ on (masked true loud 0) = true ∧
     0 + 1 < max 1 (bits ((masked true loud 0).reg Reg.DFE_MASK_CFG).toNat 11 8)) ∧
    (∀ mu : Fin 4, up.leadDue (symStart mu.val (up.time.symNow mu.val)) 0 = true) ∧
    (let s : State := { up with time := { up.time with sub := 2 ^ 40 } }
     ∀ mu : Fin 4, s.leadDue (symStart mu.val (s.time.symNow mu.val)) 0 = false) := by decide +kernel
/-! ## The Tributary transport -/

/-- Port 7 up for fabric traffic, its route open to every destination, the device leased address 9 or unleased. -/
def fab (leased : Bool) : State :=
  let s := up.setReg (Reg.CP_CFG 7) 1
  let s := if leased then s.setReg Reg.TRIB_ADDR 0x80000009 else s
  { s with ctl := (s.ctl.setArr bankRouteBase 63 0x80000000).setArr bankRouteMask 63 0x80000000, ports := [(7, { up.port 7 with link := true })] }

/-- The last two bytes of the pool of cluster 3. -/
def poolEnd : Nat := 0x100003000000 + 0xC00000 - 2

/-- A frame of type `typ` from device 5, the next in order. -/
def frame (typ : Nat) (payload : List Byte) (addr : Nat := poolEnd) : Frame := mkFrame typ 1 9 5 ((up.srcSt 5).c) 0 0 addr payload

theorem wit_BadFramesDiscarded :
    let good : Frame := frame 1 [1, 2]
    let form (f : Frame) : Prop := f.ver = 1 ∧ f.typ ≠ 0 ∧ f.typ.toNat ≤ 9 ∧ zeroFields f = true
    let whole (f : Frame) : Prop := f.crc = frameCrc f ∧ f.length.toNat = f.payload.length ∧ f.payload.length ≤ 4096
    up.portUsable 7 = false ∧ (fab true).ready = true ∧ (fab true).portUsable 7 = true ∧
    ¬form { good with ver := 2 } ∧ ¬form { good with typ := 10 } ∧ form good ∧ whole good ∧ ¬whole { good with crc := good.crc + 1 } ∧
    (let f := mkFrame 1 1 10 5 1 0 0 0 []; form f ∧ whole f ∧ ¬((fab true).fabric = some f.dst.toNat ∨ (6 ≤ f.typ.toNat ∧ f.dst = 0x3FFFF))) ∧
    (let f := mkFrame 9 1 9 9 1 0 0 0 []; form f ∧ whole f ∧ (fab true).fabric = some f.dst.toNat ∧ (fab true).fabric = some f.src.toNat) := by
  decide +kernel

theorem wit_DataFramesLand :
    (let f := frame 1 [1, 2]
     (fab true).ready = true ∧ (fab true).accepts 7 1 f = true ∧ (fab true).inOrder f = true ∧
     ((fab true).place (State.selfAddr f.addr.toNat)).1 = .mem poolEnd ∧ f.payload.length ≤ ((fab true).place (State.selfAddr f.addr.toNat)).2 ∧
     (fab true).labelsLate f.addr.toNat f.payload = false) ∧
    (let f := mkFrame 1 0 9 5 ((up.srcSt 5).c) 0 0 0x1F0000FFFFFC [1, 2]
     (fab true).accepts 7 1 f = true ∧ (fab true).inOrder f = true ∧ State.csrOff f.addr.toNat = some 0xFFFFFC ∧ bitOf f.flags.toNat 4 = false ∧
     bitOf f.flags.toNat 0 = false) ∧
    (let f := frame 2 (leBytes 8 0 ++ leBytes 4 4096 ++ leBytes 4 0) 0x100000000000
     (fab true).accepts 7 2 f = true ∧ (fab true).inOrder f = true ∧ fieldAt f.payload 0 8 = 0 ∧ fieldAt f.payload 8 4 = 4096 ∧ 0 % 4096 + 4096 ≤ 4096 ∧
     ((fab true).place (State.selfAddr f.addr.toNat)).1 = .mem 0x100000000000 ∧ 4096 ≤ ((fab true).place (State.selfAddr f.addr.toNat)).2 ∧
     (fab true).poisoned 0x100000000000 4096 = [] ∧ State.portOf 5 f.xfer.toNat ((fab true).routePorts 5) = some 7 ∧ ((fab true).destSt 5).unreach = false) ∧
    (let f := frame 3 [1, 2]
     let s : State := { fab true with trib := { up.trib with remotes := [⟨0, 5, false, 2, whoNone, false, 0⟩] } }
     s.ready = true ∧ s.accepts 7 3 f = true ∧ s.inOrder f = true ∧ bitOf f.flags.toNat 3 = false ∧ f.xfer = 0 ∧
     (s.place (State.selfAddr f.addr.toNat)).1 = .mem poolEnd ∧ (fab true).accepts 7 3 f = true ∧ (fab true).inOrder f = true ∧ (fab true).trib.remotes = []) ∧
    (let f := mkFrame 1 1 9 5 (((up.srcSt 5).c + 1024) % 2 ^ 24) 0 0 0 []
     (fab true).accepts 7 1 f = true ∧ bitOf f.flags.toNat 2 = false ∧ 1024 ≤ (f.seq.toNat + 2 ^ 24 - ((fab true).srcSt 5).c) % 2 ^ 24) := by decide +kernel

/-- A frame to device 5 that has been sent `n` times and may be sent sixteen. -/
def outF (n : Nat) : OutFrame := ⟨mkFrame 1 1 5 9 3 0 0 0 [], 7, n, 0, 0x000F0001⟩

/-- The device with that frame unacknowledged, long after. -/
def awaits (n : Nat) : State :=
  { fab true with trib := { up.trib with dest := [(5, ⟨4, [outF n], false⟩)] }, time := { up.time with ticks := 1000000000 } }

theorem wit_FramesRetried :
    (let f := mkFrame 4 0 9 5 4 0 0 0 []
     (awaits 1).ready = true ∧ (awaits 1).trib.remotes = [] ∧ (awaits 1).accepts 7 4 f = true ∧ ∀ g ∈ ((awaits 1).destSt 5).out, 0 < g.sends) ∧
    (0 < (outF 15).sends ∧ (outF 1).f.seq = 3 ∧ (∀ n ∈ [1, 16], (awaits n).trib.remotes = [] ∧ ((awaits n).destSt 5).out = [outF n])) ∧
    (let f := mkFrame 5 0 9 5 3 0 0 0 []
     (awaits 15).ready = true ∧ (awaits 15).accepts 7 5 f = true ∧ ((awaits 15).destSt 5).out = [outF 15] ∧ (outF 15).f.seq = f.seq ∧
     (outF 15).sends < bits (outF 15).cfg.toNat 19 16 + 1 ∧ (awaits 15).portUsable (outF 15).port = true ∧
     (awaits 16).ready = true ∧ (awaits 16).accepts 7 5 f = true ∧ ¬(outF 16).sends < bits (outF 16).cfg.toNat 19 16 + 1) ∧
    (passed10 (max 1 (bits (outF 1).cfg.toNat 15 0)) 0 (awaits 1).time.ticks = true ∧ passed10 (max 1 (bits (outF 1).cfg.toNat 15 0)) 0 0 = false) ∧
    (((fab true).srcSt 5).ackOwed = false ∧ ((fab true).srcSt 5).gapAt = none ∧ (((fab true).srcSt 5).held.all fun h => h.seq.toNat != 0) = true) ∧
    (let s : State := { awaits 1 with trib := { up.trib with src := [(5, { up.srcSt 5 with ackOwed := true, gapAt := some 0 })] } }
     s.ready = true ∧ s.trib.remotes = [] ∧ (s.srcSt 5).ackOwed = true ∧ (s.srcSt 5).held = [] ∧ (s.srcSt 5).gapAt = some 0 ∧
     passed10 (bits (s.reg Reg.TRIB_RETRY_CFG).toNat 31 24) 0 s.time.ticks = true) ∧
    (let h := mkFrame 1 1 9 5 0xFFFFFF 0 0 poolEnd [1, 2]
     let s : State := { fab true with trib := { up.trib with src := [(5, { up.srcSt 5 with c := 0, held := [h] })] } }
     s.ready = true ∧ s.trib.remotes = [] ∧ (s.srcSt 5).held = [h] ∧ h.seq = 0xFFFFFF ∧ h.src.toNat = 5 ∧ h.typ = 1 ∧ seqBelow 0xFFFFFF (s.srcSt 5).c = true ∧
     (s.place (State.selfAddr h.addr.toNat)).1 = .mem poolEnd ∧
     s.labelsLate h.addr.toNat h.payload = false ∧ h.payload.length ≤ (s.place (State.selfAddr h.addr.toNat)).2) := by decide +kernel

/-- A lease frame of type `typ` for `who` from `leaser`. -/
def leaseFrame (typ who leaser a : Nat) : Frame := mkFrame typ 1 0x3FFFF 0x3FFFF 0 0 0 0 (discPayload who leaser a 1000)

theorem wit_LeasesTaken :
    let me := up.fuses.uid.toNat
    let on (leased : Bool) (f : Trib → Trib) : State := { fab leased with trib := f up.trib }
    let server := on false fun t => { t with service := true, poolBase := 0x3FFFE, poolCount := 1, open_ := [(77, 0x3FFFE, 0)] }
    ((fab false).ready = true ∧ (fab false).accepts 7 6 (leaseFrame 6 77 0 0) = true ∧ (fab false).trib.service = false) ∧
    (server.ready = true ∧ server.accepts 7 6 (leaseFrame 6 77 0 0) = true ∧ server.offerAddr 77 = some 0x3FFFE ∧
      (let s := on false fun t => { t with service := true, table := [(77, 0x3FFFE)] }
       s.accepts 7 8 (leaseFrame 8 77 me 0x3FFFE) = true ∧ s.trib.open_.find? (fun e => e.1 == 77) = none ∧
       s.trib.table.find? (fun e => e.1 == 77) = some (77, 0x3FFFE)) ∧
      (fab false).trib.table.find? (fun e => e.1 == 77) = none ∧ (fab false).trib.open_.find? (fun e => e.1 == 77) = none ∧
      server.accepts 7 8 (leaseFrame 8 77 me 0x3FFFE) = true ∧ discLeaser (leaseFrame 8 77 me 0x3FFFE) = me ∧
      server.trib.open_.find? (fun e => e.1 == BitVec.ofNat 128 (discUid (leaseFrame 8 77 me 0x3FFFE))) = some (77, 0x3FFFE, 0)) ∧
    ((fab true).ready = true ∧ (fab true).accepts 7 7 (leaseFrame 7 me 77 3) = true ∧ (fab true).fabric.isSome = true ∧
      (fab true).accepts 7 8 (leaseFrame 8 77 78 3) = true ∧ discLeaser (leaseFrame 8 77 78 3) ≠ me ∧
      (fab true).accepts 7 9 (leaseFrame 9 77 78 3) = true ∧ discUid (leaseFrame 9 77 78 3) ≠ me) ∧
    ((fab false).accepts 7 7 (leaseFrame 7 me 77 3) = true ∧ (fab false).fabric = none ∧ discUid (leaseFrame 7 me 77 3) = me ∧ (fab false).trib.requested = none) ∧
    (let s := on false fun t => { t with requested := some 77 }
     let f := leaseFrame 9 me 77 0x3FFFE
     s.ready = true ∧ s.accepts 7 9 f = true ∧ discUid f = me ∧ discAddr f ≠ 0x3FFFF ∧ BitVec.ofNat 128 (discLeaser f) = 77 ∧
     s.trib.requested = some 77) ∧
    ((fab false).accepts 7 9 (leaseFrame 9 me 77 0x3FFFF) = true ∧ discAddr (leaseFrame 9 me 77 0x3FFFF) = 0x3FFFF ∧
      (fab false).accepts 7 9 (leaseFrame 9 me 77 3) = true ∧ (fab false).trib.requested ≠ some 77 ∧ (fab false).fabric = none) ∧
    (let s := on true fun t => { t with leaser := 77 }
     s.accepts 7 9 (leaseFrame 9 me 77 3) = true ∧ s.fabric.isSome = true ∧ s.trib.leaser = 77) ∧
    (let s : State := { on false fun t => { t with firstOffer := some 0, offers := [⟨77, 3, 1000, 7⟩] } with time := { up.time with ticks := 491520 } }
     s.ready = true ∧ s.trib.firstOffer = some 0 ∧ 0 + 491520 ≤ s.time.ticks ∧ s.trib.offers = [⟨77, 3, 1000, 7⟩]) ∧
    (fab true).trib.firstOffer = none ∧
    (let s : State := { on true fun t => { t with leaseMs := 1 } with time := { up.time with ticks := 122880 } }
     s.ready = true ∧ s.fabric = some 9 ∧ s.trib.leasedAt + s.trib.leaseMs * 245760 / 2 ≤ s.time.ticks ∧
     s.time.ticks < s.trib.leasedAt + s.trib.leaseMs * 245760) ∧
    (let s : State := { on true fun t => { t with leaseMs := 1 } with time := { up.time with ticks := 245760 } }
     s.ready = true ∧ s.fabric.isSome = true ∧ s.trib.leasedAt + s.trib.leaseMs * 245760 ≤ s.time.ticks) := by
  decide +kernel
/-! ## Ports and fronthaul -/

/-- A fronthaul carrier of one antenna and two PRBs. -/
def fhRec : CarrierRec := { carrier with fronthaul := true }

/-- Port 7 up in fronthaul mode, carrier 15 fronthaul, its receive entry 511 for eAxC 0x1234, transmit entry 1023 to peer 15. -/
def fhUp (prbs : List (Nat × SymId × Nat × Nat)) : State :=
  let s := up.setReg (Reg.CP_CFG 7) 3
  let c := ((s.ctl.setArr bankEaxcEff 511 (0x11234 + 15 * 2 ^ 17)).setArr bankEaxcEff 1023 (0x10000 + 15 * 2 ^ 26 + 15 * 2 ^ 17)).setArr bankPeerHiEff 15 0x80070000
  carrying 15 { s with ctl := c, ports := [(7, { up.port 7 with link := true })], fh := { up.fh with prbs := prbs } } fhRec

/-- A message of a symbol with a section of one PRB at `prb`. -/
def uMsg (prb : Nat) (y : SymId) : UMsg := ⟨true, true, 0x1234, 255, y, [⟨prb, [(0, List.replicate 24 1)]⟩]⟩

/-- That device `ns` after the start of frame 0. -/
def fhAt (ns : Nat) : State := { fhUp [] with time := { up.time with sub := ns * 2 ^ 40 } }

/-- Port 7 forwards to port 6, which is up in fronthaul mode. -/
def fhFwd : State := ((fhUp []).setReg (Reg.CP_CFG 7) 0x1A3).setReg (Reg.CP_CFG 6) 3

/-- Frame 0 begins: its first symbol is inside its window, the second early; 30,001 ns later the last of frame 1,023 is late. -/
theorem wit_UplinkDelivered :
    let s := fhUp []
    let m := uMsg 1 ⟨0, 0, 0⟩
    let early (s : State) (y : SymId) : Bool := decide (s.sinceTime (symStart (s.muOfCarrier 15) y) < (s.reg Reg.FH_RX_WIN_OPEN).toInt * 2 ^ 40)
    let late (s : State) (y : SymId) : Bool :=
      decide (((s.reg Reg.FH_RX_WIN_CLOSE).toNat : Int) * 2 ^ 40 < s.sinceTime (symEnd (s.muOfCarrier 15) y))
    (up.ready = true ∧ up.fhUp 7 = false ∧ up.isFronthaul 15 = false) ∧
    (s.ready = true ∧ s.fhUp 7 = true ∧ s.cpCfg 7 5 5 = 0 ∧ { m with known := false }.known = false ∧ { m with inSubset := false }.inSubset = false ∧
      s.eaxcFind 0 (fun e => bits e 15 0 == (0x1235 : BitVec 16).toNat) = none) ∧
    (s.eaxcFind 0 (fun e => bits e 15 0 == m.pcid.toNat) = some 511 ∧ m.sections = [⟨1, [(0, List.replicate 24 1)]⟩] ∧
      bits (s.ctl.arr bankEaxcEff 511).toNat 20 17 = 15 ∧ early s ⟨0, 0, 0⟩ = false ∧ late s ⟨0, 0, 0⟩ = false ∧ early s ⟨0, 0, 1⟩ = true ∧
      (fhAt 30001).ready = true ∧ early (fhAt 30001) ⟨1023, 9, 13⟩ = false ∧ late (fhAt 30001) ⟨1023, 9, 13⟩ = true ∧
      ¬s.gridRbs 15 < 1 + 1 ∧ s.gridRbs 15 < 2 + 1 ∧ s.carrierOf 15 = some fhRec ∧
      bits (s.ctl.arr bankEaxcEff 511).toNat 25 21 < s.gridAnts fhRec ∧ s.gridAnts fhRec ≤ 16 ∧
      ((State.rxSpots fhRec).map fun x => gridAddr x.2.2.cluster.val x.2.2.block.val ⟨0, 0, 0⟩).Nodup ∧
      (∀ x ∈ State.rxSpots fhRec, s.fence 5 x.2.2.cluster.val = 0 ∧ s.mirrorOn x.2.2.cluster.val fhRec.mu.val ⟨0, 0, 0⟩ = false) ∧
      State.gridPlace fhRec (12 * 1 + 11) = some (0, 0, 23) ∧ (15, ⟨0, 0, 0⟩, 0, 1) ∉ s.fh.prbs ∧
      (15, ⟨0, 0, 0⟩, 0, 1) ∈ (fhUp [(15, ⟨0, 0, 0⟩, 0, 1)]).fh.prbs) := by
  decide +kernel

theorem wit_UplinkDelivered_window :
    (fhFwd.ready = true ∧ fhFwd.fhUp 7 = true ∧ fhFwd.cpCfg 7 5 5 = 1 ∧ fhFwd.cpCfg 7 8 6 = 6 ∧ fhFwd.portOn 6 = true ∧ fhFwd.portFh 6 = true ∧
      (((fhFwd.port 6).fwd.filter fun x => x.from_ == 7).map (·.size)).sum + 64 ≤ 262144) ∧
    (let s : State := { fhAt 30000 with fh := { up.fh with prbs := [(15, ⟨1023, 9, 13⟩, 0, 1)] } }
     s.ready = true ∧ s.isFronthaul 15 = true ∧ s.windowDue 15 ⟨1023, 9, 13⟩ = true ∧ s.windowDue 15 ⟨0, 0, 0⟩ = false ∧
     s.carrierOf 15 = some fhRec ∧ (15, ⟨1023, 9, 13⟩, 0, 0) ∉ s.fh.prbs ∧ (posSpan fhRec.group (12 * fhRec.nrb) 0 0).2 ≤ 255 ∧
     ∀ x ∈ State.rxSpots fhRec, s.mirrorOn x.2.2.cluster.val fhRec.mu.val ⟨1023, 9, 13⟩ = false) := by
  decide +kernel

/-- An Ethernet frame of `size` bytes. -/
def eth (size : Nat) (etype : BitVec 16) (pfc : Option (Fin 8 × Bool)) (buf : PortUpset := .none) : EthFrame :=
  ⟨size, true, 1, etype, 0, 0, pfc, false, 1, 1, buf, []⟩

theorem wit_SymbolsLeave :
    (up.ready = true ∧ up.leadDue (symStart (up.muOfCarrier 15) ⟨0, 0, 1⟩) 0 = false ∧ up.leadDue (symStart (up.muOfCarrier 15) ⟨0, 0, 0⟩) 0 = true ∧
      up.downOn 0 = false ∧ up.peerOf 15 = none) ∧
    (let s := carrying 15 (front aligned aligned)
     s.ready = true ∧ s.leadDue (symStart (s.muOfCarrier 15) ⟨0, 0, 0⟩) 0 = true ∧ s.downOn 0 = true ∧ s.isFronthaul 15 = false) ∧
    (let s := fhUp []
     let e := (s.ctl.arr bankEaxcEff 1023).toNat
     s.ready = true ∧ s.leadDue (symStart (s.muOfCarrier 15) ⟨0, 0, 0⟩) 0 = true ∧ s.downOn 0 = true ∧ s.isFronthaul 15 = true ∧
     s.symHanded 15 ⟨0, 0, 0⟩ = false ∧ s.carrierOf 15 = some fhRec ∧ fhRec.txStreams = 1 ∧
     s.eaxcFind 512 (fun e => bits e 20 17 == 15 && bits e 25 21 == 0) = some 1023 ∧ s.peerOf (bits e 29 26) = some (0, 7) ∧ 0 < fhRec.nrb ∧
     fhRec.nrb ≤ 9000 / (24 * s.iqWidth / 8 + 1) ∧ bits e 29 26 = 15 ∧ bitOf e 16 = true) := by decide +kernel

theorem wit_FramesForwarded :
    (up.ready = true ∧ ¬(up.portOn 7 = true ∧ (up.port 7).link = true ∧ up.fence 4 7 = 0) ∧
      up.fhUp 7 = false ∧ (up.port 7).link = false ∧ up.portOn 7 = false) ∧
    (let s := fhUp []
     s.ready = true ∧ (s.portOn 7 = true ∧ (s.port 7).link = true ∧ s.fence 4 7 = 0) ∧ s.etypeTaken 7 0xAEFE = true ∧ s.etypeTaken 7 0x800 = false ∧
     s.cpCfg 7 9 9 = 0 ∧ { eth 64 0 none with fcsOk := false }.fcsOk = false ∧ (eth 63 0 none).size < 64 ∧ (eth 9216 0 none).size ≤ 9216 ∧
     (eth 64 0 none).tags ≤ 1 ∧ (eth 64 0 none .uncorrectable).buf = .uncorrectable ∧ s.cpCfg 7 5 5 = 0) ∧
    ((fab true).portOn 7 = true ∧ (fab true).etypeTaken 7 0x88F7 = true ∧ (fab true).portFh 7 = false) ∧
    (let s := (fhUp []).setReg (Reg.CP_CFG 7) 0x1E03; s.ready = true ∧ s.fence 4 7 = 0 ∧ s.cpCfg 7 9 9 = 1 ∧ (7 : Fin 8).val = s.cpCfg 7 12 10) ∧
    (let s := fhFwd
     let full : State := { s with ports := s.ports ++ [(6, { up.port 6 with fwd := List.replicate 4 ⟨7, 65536, 0, 0, true, []⟩ })] }
     s.ready = true ∧ s.portFh 7 = true ∧ { eth 64 0xAEFE none with dstMac := 1 }.dstMac.toNat ≠ s.portMac 7 ∧ s.cpCfg 7 5 5 = 1 ∧ s.cpCfg 7 8 6 = 6 ∧ s.portOn 6 = true ∧
     s.portFh 6 = true ∧ (s.port 6).fwd = [] ∧ full.ready = true ∧
     262144 < (((full.port 6).fwd.filter fun x => x.from_ == 7).map (·.size)).sum + 64) ∧
    (let s : State := { fhUp [] with ports := [(7, { up.port 7 with link := true, fwd := [⟨6, 64, 0, 0, true, []⟩] })] }
     s.ready = true ∧ s.fhUp 7 = true ∧ s.txStopped 7 = false ∧ (s.port 7).fwd = [⟨6, 64, 0, 0, true, []⟩] ∧ (s.port 7).paused = false) ∧
    (let s := ptpUp 0x70
     s.ready = true ∧ (s.port 7).link = true ∧ s.portOn 7 = true ∧ s.fence 4 7 = 0 ∧ s.ptpPort 7 = true ∧ (ptpUp 0x60).ptpPort 7 = false) ∧
    (let s : State := { ptpUp 0x70 with time := { (ptpUp 0x70).time with clock := 1 } }; s.ready = true ∧ s.time.clock = 1) := by
  decide +kernel
/-! ## Transmit codewords -/

/-- A downlink descriptor of TBS 24 for carrier `carrier` and slot 9 of frame 0, its payload in the pool. -/
def dl (carrier : Byte) : List Byte := poolBytes ++ leBytes 3 24 ++ [carrier, 0, 2] ++ leBytes 2 300 ++ List.replicate 8 0 ++ leBytes 4 9 ++ List.replicate 4 0

/-- The same, encoded on rank 3. -/
def dl3 : List Byte := (dl 15).set 22 0xC

/-- Its codeword as posted, of twelve subcarriers in symbol 2. -/
def cw (st : CwSt) : TxCw where
  id := 3
  basin := 7
  d := dlDescOf (dl 15)
  alloc := ⟨[(2, List.range 12)]⟩
  st := st
  blocks := []
  bits := []
  zeroFrom := none
  late := []
  posted := false

/-- Slot 9 of frame 0 and its encode launch, with the producer indices then. -/
def slot9 : SlotId := ⟨0, 9⟩
def launch9 (prod : Nat) : TxLaunch := ⟨0, 9, List.replicate 8 prod⟩

/-- The device at that launch, with a codeword posted. -/
def launching (c : TxCw) : State := { up with tx := { up.tx with cws := [c] }, time := { up.time with sub := (9000000 - 100000) * 2 ^ 40 } }

theorem wit_CodewordsEncoded :
    let s (c : Byte) (l : List TxLaunch) : State := { up with basins := [(7, { bas with st := 1, f0 := [dl c] })], tx := { up.tx with launched := l } }
    let before (s : State) (l : TxLaunch) : Bool :=
      decide ((l.prods.getD 7 0 + 65535 - ((s.basin 7).sq0.cons + 65536 - (s.basin 7).f0.length % 65536) % 65536) % 65536 < 32768)
    (up.ready = true ∧ (up.basin 7).f0 = [] ∧ up.encQueue 7 = [] ∧ up.encodeDue 0 slot9 = false) ∧
    ((s 15 []).ready = true ∧ ((s 15 []).basin 7).f0 = dl 15 :: [] ∧ (dlDescOf (dl 15)).bad = false ∧
      (s 15 []).launchOf (dlDescOf (dl 15)).carrier (dlDescOf (dl 15)).slot = none) ∧
    ((s 16 []).ready = true ∧ (dlDescOf (dl 16)).bad = true) ∧
    (let t := s 15 [launch9 65535]
     t.ready = true ∧ t.launchOf (dlDescOf (dl 15)).carrier (dlDescOf (dl 15)).slot = some (launch9 65535) ∧ before t (launch9 65535) = false) ∧
    (let t := s 15 [launch9 0]
     t.ready = true ∧ t.launchOf (dlDescOf (dl 15)).carrier (dlDescOf (dl 15)).slot = some (launch9 0) ∧ before t (launch9 0) = true) ∧
    (let t : State := { up with basins := [(7, { bas with st := 1, f0 := [dl3] })], tx := { up.tx with launched := [launch9 0] } }
     t.ready = true ∧ (dlDescOf dl3).bad = false ∧ t.launchOf (dlDescOf dl3).carrier (dlDescOf dl3).slot = some (launch9 0) ∧
     before t (launch9 0) = true ∧ (dlDescOf dl3).encRank ≠ t.groupRank ∧ t.tx.cws = []) ∧
    (let t := launching (cw .posted)
     t.ready = true ∧ t.encodeDue 0 slot9 = true ∧ t.tx.cws = [cw .posted] ∧ (cw .posted).d.slot = State.slotField slot9 ∧
     t.muOf (cw .posted).d.carrier = 0 ∧ (cw .posted).d.encRank = t.groupRank ∧
     (t.place (cw .posted).d.source).1 = .mem 0x100000000000 ∧ ((cw .posted).d.tbs + 7) / 8 ≤ (t.place (cw .posted).d.source).2 ∧
     t.poisoned 0x100000000000 (((cw .posted).d.tbs + 7) / 8) = [] ∧ 0 < ((cw .posted).d.tbs + 7) / 8 ∧
     (txBlocks (cw .posted).d (cw .posted).alloc).length = 1 ∧
     (let p : State := { t with poison := [State.protKey 0x100000000000] }; p.ready = true ∧ p.poisoned 0x100000000000 3 ≠ [])) ∧
    (let t := (launching (cw .posted)).setReg (Reg.WEIR_ENGINE_EN 0) 0xFF
     ((t.setReg (Reg.WEIR_ENGINE_EN 1) 0xFF).setReg (Reg.WEIR_ENGINE_EN 2) 0xFF |>.setReg (Reg.WEIR_ENGINE_EN 3) 0xFF).encodeDue 0 slot9 = true ∧
     ∀ j, j < 8 → ((t.setReg (Reg.WEIR_ENGINE_EN 1) 0xFF).setReg (Reg.WEIR_ENGINE_EN 2) 0xFF |>.setReg (Reg.WEIR_ENGINE_EN 3) 0xFF).encoderOn j = true) := by
  decide +kernel

theorem wit_CodewordsEncoded_done :
    (let c := { cw .posted with d := { (cw .posted).d with encRank := 3 } }
     let t := launching c
     t.ready = true ∧ t.encodeDue 0 slot9 = true ∧ t.tx.cws = [c] ∧ c.d.slot = State.slotField slot9 ∧ c.d.encRank ≠ t.groupRank) ∧
    (let c := { cw .taken with blocks := [⟨2, 20, none⟩], bits := List.replicate 40 true }
     let t : State := { launching c with tx := { up.tx with cws := [c], queues := [(7, [(3, 0)]), (6, [(4, 0)])] } }
     t.ready = true ∧ t.encQueue 7 = (3, 0) :: [] ∧ t.cwOf 3 = some c ∧ c.blocks[0]? = some ⟨2, 20, none⟩ ∧
     t.encQueue 6 = (4, 0) :: [] ∧ t.cwOf 4 = none ∧ t.encodeDue 0 slot9 = true ∧ ∀ c ∈ t.tx.cws, c.st ≠ .posted) := by decide +kernel
/-! ## Weir -/

/-- A decode descriptor of TBS 24 in quad 3, with soft buffer `hbuf`, for slot 9 of frame 1,023. -/
def dec (hbuf : Nat) (reserved : Byte := 0) (scr : Nat := 0x4000) : List Byte :=
  poolBytes ++ leBytes 3 24 ++ [0, 0, 2] ++ leBytes 2 300 ++ leBytes 2 0x4601 ++ leBytes 2 scr ++ leBytes 4 hbuf ++ leBytes 3 (1023 * 128 + 9) ++
    [3 * 4] ++ leBytes 2 0 ++ leBytes 2 7 ++ List.replicate 10 0 ++ [reserved] ++ List.replicate 21 0

/-- Ten data resource elements of two LLRs each. -/
def shape : AllocShape := ⟨0, [], [(2, List.range 10)]⟩

/-- Its transport block with blocks `bs`, on a graph without checks. -/
def tb (bs : List CBlk) : DecTb where
  id := 9
  basin := 7
  d := decDescOf (dec 0)
  sh := shape
  g := ⟨1, 0, 1, 0, 0, 0, 0⟩
  newData := true
  mism := false
  rounds := 0
  got := []
  blocks := bs
  uciDone := false
  table := none
  deadline := false
  entry := none

/-- A code block in state `st` after `n` iterations. -/
def blk (st : CbSt) (n : Nat) : CBlk := ⟨20, 0, st, 1, [], [], [], n, false, false, false, []⟩

/-- The device with quad 3 as `w`. -/
def quad3 (w : Weir) (s : State := up) : State := { s with weir := [(3, w)] }

theorem wit_DescriptorsDecoded :
    let s (e : List Byte) (w : Weir) : State := quad3 w { booted with basins := [(7, { bas with st := 1, f1 := [e] })] }
    let e := dec 0
    let d := decDescOf e
    let again := dec 0 0 0
    let bytes (s : State) : List Byte := readBytes s.mem ((decDescOf again).hbuf * 64) 64
    (up.ready = true ∧ (up.basin 7).f1 = []) ∧
    ((s e Weir.reset).ready = true ∧ ((s e Weir.reset).basin 7).f1 = e :: [] ∧ d.quad = 3 ∧ d.bad (s e Weir.reset).dramTop = false ∧
      ((s e Weir.reset).quad 3).tbs = [] ∧ d.ndi = true ∧ (s e Weir.reset).readyBlks 3 = [] ∧ mkBlocks d d.segm shape ≠ [] ∧
      ∀ y ∈ mkBlocks d d.segm shape, ((ulPositions d shape).drop y.off).take y.e ≠ []) ∧
    (let t := s e { Weir.reset with tbs := [tb []] }; t.ready = true ∧ ((t.quad 3).tbs.any fun x => x.d.hbuf == d.hbuf) = true) ∧
    (let d := decDescOf (dec (booted.dramTop / 64))
     (decDescOf (dec 0 2)).bad booted.dramTop = true ∧ d.bad booted.dramTop = true ∧ (decDescOf (dec (booted.dramTop / 64 - 1))).bad booted.dramTop = false) ∧
    (let t := s again Weir.reset
     let d := decDescOf again
     t.ready = true ∧ d.bad t.dramTop = false ∧ d.ndi = false ∧ d.hbuf * 64 + 64 ≤ t.dramTop ∧ t.poisoned (d.hbuf * 64) 64 = [] ∧
     State.harqAgrees d d.segm (bytes t) = false) := by decide +kernel

/-- A segment descriptor at offset 0 of quad 3's ring that names sixteen LLRs. -/
def segMem (s : State) : State := { s with mem := [(llrRing 3 + 4, 16)] }

theorem wit_SegmentsTaken :
    let w (bs : List CBlk) : Weir := { Weir.reset with tbs := [tb bs], eng := [(5, 9 * 256)] }
    let slot : SlotId := ⟨1023, 9⟩
    let due (s : State) (wait : Nat) : Bool := s.afterData 0 (State.slotField slot) (s.ctl.inForce wait).toNat
    let late (s : State) : State := { s with time := { s.time with sub := 100000 * 2 ^ 40 } }
    let plain (t : DecTb) : Prop := t.newData = true ∧ t.d.gAck = 0 ∧ t.d.gCsi1 = 0 ∧ t.d.gCsi2 = 0
    (up.ready = true ∧ up.poisoned (llrRing 3) 16 = [] ∧ up.poisoned (llrRing 3 + fieldAt (List.replicate 16 0) 0 4) (llrBytes 0) = [] ∧
      up.segTb 3 0 0 = none ∧ due up (Reg.WEIR_LLR_WAIT 3) = false ∧
      due up (Reg.WEIR_DEADLINE 3) = false ∧ up.slotTbs 3 ⟨1023, 9⟩ 0 = [] ∧ up.readyBlks 3 = [] ∧ tfind (up.quad 3).eng 5 = none) ∧
    (let s := segMem (quad3 (w [blk .waiting 0]))
     let bytes := readBytes s.mem (llrRing 3) 16
     let at_ := llrRing 3 + fieldAt bytes 0 4
     s.ready = true ∧ s.poisoned (llrRing 3) 16 = [] ∧ s.poisoned at_ (llrBytes (fieldAt bytes 4 3)) = [] ∧
     s.segTb 3 (fieldAt bytes 11 1) (fieldAt bytes 12 1) = some (tb [blk .waiting 0]) ∧ s.tbOf 3 9 = some (tb [blk .waiting 0]) ∧
     plain (tb [blk .waiting 0]) ∧ (unpackLlr (fieldAt bytes 4 3) (readBytes s.mem at_ (llrBytes (fieldAt bytes 4 3)))).length = 16 ∧
     (∀ y ∈ (tb [blk .waiting 0]).blocks, y.st = .waiting)) ∧
    (let s := late (quad3 (w [blk .waiting 0]))
     s.ready = true ∧ due s (Reg.WEIR_LLR_WAIT 3) = true ∧ s.slotTbs 3 ⟨1023, 9⟩ 0 = [9] ∧ s.tbOf 3 9 = some (tb [blk .waiting 0]) ∧
     (tb [blk .waiting 0]).blocks[0]? = some (blk .waiting 0)) ∧
    (∀ y ∈ [blk .decoding 3, { blk .decoding 3 with dead := true }, blk .ready 0], let s := late (quad3 (w [y]))
      s.ready = true ∧ due s (Reg.WEIR_DEADLINE 3) = true ∧ s.slotTbs 3 ⟨1023, 9⟩ 0 = [9] ∧ s.tbOf 3 9 = some (tb [y])) := by decide +kernel

theorem wit_IterationsEnd :
    let w (bs : List CBlk) : Weir := { Weir.reset with tbs := [tb bs], eng := [(5, 9 * 256)] }
    let held (s : State) (y : CBlk) : Bool := s.ready && tfind (s.quad 3).eng 5 == some (9 * 256) && s.tbOf 3 (9 * 256 / 256) == some (tb [y])
      && (tb [y]).blocks[9 * 256 % 256]? == some y
    (up.ready = true ∧ tfind (up.quad 3).eng 5 = none ∧ up.readyBlks 3 = []) ∧
    (let y := blk .decoding 0
     let s := quad3 (w [y]) { up with ctl := { up.ctl with eff := [(Reg.WEIR_CFG 3, 0x10000)] } }
     held s y = true ∧ s.eff = false ∧
     unsatisfied (tb [y]).g (layersOf (tb [y]).g y.soft) (iterate (tb [y]).g ((tb [y]).table.getD (s.quad 3).table) (layersOf (tb [y]).g y.soft) 0 (y.app, y.msg)).1 = 0) ∧
    (let y := blk .decoding 0
     let s := (quad3 (w [y]) started).setReg Reg.DET_STRICT 0x101
     held s y = true ∧ s.eff = true ∧ y.dead = false ∧ ¬s.weirCfg 3 20 16 ≤ y.iters + 1) ∧
    (let y := { blk .decoding 0 with dead := true }; held (quad3 (w [y])) y = true ∧ y.dead = true) ∧
    (let y := blk .decoding 15
     let s := (quad3 (w [y]) started).setReg Reg.DET_STRICT 0x101
     held s y = true ∧ s.eff = true ∧ s.weirCfg 3 20 16 ≤ 15 + 1) := by decide +kernel

/-- A request of one coded bit whose LLRs are to come from CSR space. -/
def polarReq : Nat := 0xFFFFDF0000000000

/-- One whose LLRs and whose result stand in the pool. -/
def polarMem : Nat := poolAt + poolAt * 2 ^ 64 + 1 * 2 ^ 128

theorem wit_PolarServed :
    (let s := quad3 { Weir.reset with polar := List.replicate 16 (polarReq, 0) }; s.ready = true ∧ 16 ≤ (s.quad 3).polar.length) ∧
    (let s := quad3 { Weir.reset with polar := List.replicate 15 (polarReq, 0) }; s.ready = true ∧ (s.quad 3).polar.length < 16 ∧ s.fence 3 3 = 0) ∧
    (let s : State := { up with fences := [(3 * 64 + 3, 1)] }; s.ready = true ∧ s.fence 3 3 ≠ 0 ∧ (s.quad 3).polar.length < 16) ∧
    (up.ready = true ∧ (up.quad 3).polar = []) ∧
    (let s := (quad3 { Weir.reset with polar := [(polarReq, 15)] }).setReg (Reg.WEIR_ENGINE_EN 3) 0xFF
     s.ready = true ∧ bitOf (s.reg (Reg.WEIR_ENGINE_EN 3)).toNat 8 = false) ∧
    (let s := quad3 { Weir.reset with polar := [(polarReq, 15)] }
     s.ready = true ∧ (s.quad 3).polar = (polarReq, 15) :: [] ∧ (s.quad 3).polarWait = [] ∧ bitOf (s.reg (Reg.WEIR_ENGINE_EN 3)).toNat 8 = true) ∧
    (let src := bits polarMem 63 0
     let s := quad3 { Weir.reset with polar := [(polarMem, 0)] }
     (s.place src).1 = .mem 0x100000000000 ∧ llrBytes (bits polarMem 151 128) ≤ (s.place src).2 ∧ s.poisoned 0x100000000000 (llrBytes (bits polarMem 151 128)) = [] ∧
     (s.place (bits polarMem 127 64)).1 = .mem 0x100000000000) := by decide +kernel

/-- A block offered for its labels, of a carrier with one position, and the Backwater allowance of the encoders. -/
def offer (limit : Nat) (queues : Tab (List (Nat × Nat))) : State :=
  let o : Offered := ⟨9, 15, 0, 0, 7, decDescOf (dec 0), shape, (tb []).g, 0, 20, []⟩
  carrying 15 { quad3 { Weir.reset with offered := [o] } booted with
    tx := { up.tx with queues := queues }, sched := { up.sched with budget := [(budgetKey 4 1 + 1, limit)] }, img := ⟨some img⟩ }

theorem wit_LabelsWritten :
    (up.ready = true ∧ (up.quad 3).offered[0]? = none) ∧
    (let s := offer 0 [(6, [(4, 0)]), (7, [(4, 0)])]
     s.ready = true ∧ ((s.quad 3).offered[0]?).isSome = true ∧ ∀ e ∈ [2 * 3, 2 * 3 + 1], s.encoderOn e = false ∨ s.encQueue e ≠ []) ∧
    (∀ limit ∈ [348, 347], let s := offer limit []
      s.ready = true ∧ ((s.quad 3).offered[0]?).isSome = true ∧ s.encoderOn 6 = true ∧ s.encQueue 6 = [] ∧ s.maxOf 4 1 = limit ∧ s.used 4 6 1 = 0) ∧
    32 + max (if (tb []).g.bg = 1 then 316 else 197) ((20 + 511) / 512) = 348 := by decide +kernel

theorem wit_LabelsWritten_staging :
    let s := offer 348 []
    (s.carrierOf 15 = some carrier ∧ carrier.group = false ∧ tfind s.bkw.gridSlot carrier.mu.val = none ∧ s.fileArea (·.staging) = 0) ∧
    (∀ a, 0 ≤ a → a < 0 + 0x5400000 → s.landsAt a 1 a) ∧
    ((State.rxSpots carrier).map fun x => (x.2.2.cluster, x.2.2.block)) = [(0, 0)] ∧ (symsOf 9)[2]? = some ⟨0, 9, 2⟩ ∧
    (posSpan false (12 * carrier.nrb) 0 0).1 ≤ 9 ∧ 9 < (posSpan false (12 * carrier.nrb) 0 0).1 + (posSpan false (12 * carrier.nrb) 0 0).2 := by
  refine ⟨by decide +kernel, fun a _ h => ?_, by decide +kernel, by decide +kernel, by decide +kernel, by decide +kernel⟩
  have ht : (offer 348 []).dramTop = 1006632960 := by decide +kernel
  have := State.place_dram (offer 348 []) (a := a) (by omega) (by omega)
  exact ⟨by rw [this], by rw [this]; simp only [ht]; omega⟩

/-- Its labels are ten resource elements of layer place 0, whatever its coded bits. -/
theorem wit_LabelsWritten_labels (coded : List Bool) :
    (State.blockLabels ⟨9, 15, 0, 0, 7, decDescOf (dec 0), shape, (tb []).g, 0, 20, []⟩ coded).map (fun l => (l.1, l.2.1, l.2.2.1)) =
      (List.range 10).map fun i => (2, i, 0) := by rfl
/-! ## Carriers and Backwater -/

/-- CARRIER_CONFIG of carrier 15, its record of 64 bytes at `src`. -/
def carrierCmd (carrier : Byte) (src : List Byte) : List Byte := [0x18, 0, 0, 0, carrier] ++ src ++ leBytes 4 64

theorem wit_CarriersStaged :
    let s := srv 0 (carrierCmd 15 poolBytes)
    let f := srv 0 (carrierCmd 15 csrBytes)
    let b (s : State) : State × List Byte × Bool := State.readG reqWellhead 0 (s.par 0 13 4) s.clearOuts (s.par 0 5 8) (s.par 0 13 4)
    let refused (s : State) (r : CarrierRec) : Option Nat := (b s).1.recordRefusal ((tset s.records 15 r).map (·.2)) s.flt.checkNext r
    ((srv 0 (carrierCmd 16 poolBytes)).serves 0 0x18 = true ∧ (srv 0 (carrierCmd 16 poolBytes)).par 0 4 1 = 16) ∧
    (f.serves 0 0x18 = true ∧ f.par 0 4 1 = 15 ∧ (b f).2.2 = false) ∧
    (s.serves 0 0x18 = true ∧ s.par 0 4 1 = 15 ∧ s.par 0 13 4 = 64 ∧ (b s).2.2 = true ∧
      { fhRec with wellFormed := false }.wellFormed = false ∧ fhRec.wellFormed = true ∧
      refused s { fhRec with dmrsFirst := false } = some rcDmrs ∧
      refused s { fhRec with uplink := false, downlink := false } = none) := by decide +kernel

/-- Region 15 alone at numerology 3, of kind 2 or 1, in no quad and no cluster. -/
def decl15 (kind2 : Bool) : RegionDecl := regionOf kind2 [3] [] 9 0x10000 0x20000 0x30000 []

/-- The image with that region. -/
def img15 (kind2 : Bool) : ImageFile := { img with regions := List.replicate 15 (regionOf true [] [] 0 0 0 0 []) ++ [decl15 kind2] }

/-- Region 15 as `r`, its image's region of kind 2 or 1. -/
def region15 (r : Region) (kind2 : Bool := true) (s : State := up) : State :=
  { s with img := ⟨some (img15 kind2)⟩, bkw := { s.bkw with regions := [(15, r)] } }

/-- MODEL_UPDATE of a region, its record good for each kind. -/
def upd (region kind : Byte) : List Byte :=
  [0x40, 0, 0, 0, region, kind] ++ leBytes 2 1 ++ leBytes 4 1 ++ poolBytes ++ leBytes 4 0x3F800000 ++ [1, 1, 1, 1] ++ leBytes 4 0 ++ leBytes 2 16

/-- That command at its server, with region 15 as `r`. -/
def updating (cmd : List Byte) (r : Region := Region.reset) (kind2 : Bool := true) : State :=
  srv 0 cmd (region15 r kind2 (basins.setReg Reg.BKW_CTRL 2))

/-- MODEL_UPDATE of region 15 with a good record is at its server, its row of kind `k`; and the region runs it. -/
def updReady (s : State) (k : Nat) : Bool :=
  let r := updRecOf (((s.mailbox 0).latched.drop 4).take 48)
  s.serves 0 0x40 && s.updKind 0 == k && updOk r && r.region == 15
def updRuns (s : State) (k : Nat) (kind2 : Bool := true) : Bool :=
  updReady s k && decide (s.regionDecl 15 = some (decl15 kind2)) && (k != 1 || s.bkwCtl 1)

theorem wit_UpdatesTaken_refused :
    ((updating (upd 16 1)).serves 0 0x40 = true ∧ (updating (upd 16 1)).updKind 0 = 1 ∧
      updOk (updRecOf ((((updating (upd 16 1)).mailbox 0).latched.drop 4).take 48)) = false ∧
      (Instr.train 0, 1) ∈ [(Instr.train 0, 1), (Instr.load 0, 2), (Instr.swap 0, 3)]) ∧
    (updReady (srv 0 (upd 15 3)) 3 = true ∧ (srv 0 (upd 15 3)).regionDecl 15 = none) ∧
    (let s := (updating (upd 15 1)).setReg Reg.BKW_CTRL 0; updReady s 1 = true ∧ s.bkwCtl 1 = false) := by decide +kernel

theorem wit_UpdatesTaken :
    let x : Upd := ⟨trainRec, 0, 0, false⟩
    (updRuns (updating (upd 15 2) { Region.reset with run := some x }) 2 = true ∧
      updRuns (updating (upd 15 3) { Region.reset with run := some x, queue := some x }) 3 = true) ∧
    (let s := updating (upd 15 1)
     updRuns s 1 = true ∧ (s.region 15).run = none ∧ (s.region 15).stateVer ≠ some (s.slotVersion (decl15 true) 0)) ∧
    (let s := updating (upd 15 1) { Region.reset with stateVer := some 0 }
     updRuns s 1 = true ∧ (s.region 15).run = none ∧ (s.region 15).active = 0 ∧ (s.region 15).stateVer = some (s.slotVersion (decl15 true) 0)) ∧
    (updRuns (updating (upd 15 2)) 2 = true ∧ ((updating (upd 15 2)).region 15).run = none) ∧
    (let s := updating (upd 15 3)
     updRuns s 3 = true ∧ (s.region 15).run = none ∧ (s.region 15).pend = none ∧ s.slotGood (decl15 true) 1 = true) ∧
    (let s := updating (upd 15 3) Region.reset false
     updRuns s 3 false = true ∧ (s.region 15).run = none ∧ s.slotGood (decl15 false) 1 = false) := by
  decide +kernel
/-- The device with capture on, reference stream 3 on carrier 15, half of the labels asked for, and a cache of `size` granules at
granule 4 of its DRAM; carrier 15 is of two resource blocks in cluster 3. -/
def caching (size : Nat) (f : Bkw → Bkw := id) (s : State := up) : State :=
  let s := (((s.setReg Reg.BKW_CTRL 1).setReg Reg.BKW_CACHE_SIZE (BitVec.ofNat 32 size)).setReg Reg.BKW_CACHE_BASE 4).setReg Reg.DRAM_TOP 64
  { s with
    func := { s.func with applied := [(15, carrier)] }
    ctl := { s.ctl with eff := [(Reg.BKW_CAPCFG, 0x800000), (Reg.BKW_REFSIG0 + 12, 0x8F000000)] }
    bkw := f s.bkw }

/-- An uplink allocation with one layer, on subcarrier 1 of symbol 13. -/
def ulAlloc : UlAlloc := ⟨15, 0, 2, 1, 0, 0, 3, [2], false, true, true, 7, [(13, [1])]⟩
def capSym : SymId := ⟨1023, 9, 13⟩
def capReach (allocs : List UlAlloc) (occ : Option (Nat × SymId)) : CapReach := ⟨3, 0, 15, capSym, 0, 5, 0, allocs, occ, 2, 7, [], 0, 0⟩

/-- The one place of that reach, labelled. -/
def labelled (s : State) : State :=
  { s with mem := writeBytes [] (State.labelAddr 3 5 capSym + 16 * 4) (leBytes 1 3 ++ leBytes 3 (State.labelTag 0 (State.slotOfSym 0 capSym))) }

/-- The occasion of that reach, with its record; and a record in the way. -/
def occ15 : OccRec := ⟨3, 15, 1023 * 128 + 9, 0, 1, 0, 0⟩
def inWay15 : CacheRec := ⟨5, 5, 0, 0, 2, false, 0⟩

/-- A reach that was captured from up to here, and whose occasion is known. -/
def reached (r : CapReach) (s : State := labelled (caching 12)) : State := { s with bkw := { s.bkw with caps := [r] } }
def knowing (s : State) (f : Bkw → Bkw := id) : State := { s with bkw := f { s.bkw with occasions := [occ15] } }

/-- Whether a reach has labels enough. -/
def labelsEnough (s : State) (r : CapReach) : Bool :=
  let places := s.allocPlaces r
  let n := (places.filter fun p => (s.labelAt r.cluster r.block r.mu capSym (p.1 * 16 + p.2.1)).isSome).length
  decide (bits (s.ctl.inForce Reg.BKW_CAPCFG).toNat 23 16 * places.length ≤ n * 256)

/-- The reach is found, and it is eligible or not, with labels enough or not. -/
def reachIs (s : State) (r : CapReach) (eligible enough : Bool) : Bool :=
  s.ready && decide ((s.bkw.caps.find? fun r => r.carrier == 15 && r.sym == capSym && r.position == 0) = some r)
    && s.eligible r == eligible && labelsEnough s r == enough

/-- The occasion of `capReach` is this one. -/
def isOcc (s : State) (x : OccRec) : Bool :=
  x.cluster == 3 && x.carrier == 15 && x.slot == State.slotField ⟨capSym.sfn, capSym.slot⟩ && x.position == 0 && x.occasion == 1
    && x.epoch == (s.reg Reg.BKW_EPOCH).toNat

theorem wit_ReachesCaptured_kept :
    let r := capReach [ulAlloc] (some (1, capSym))
    let zeroed : CapReach := { r with flags := 2 }
    ((caching 12).ready = true ∧ (caching 12).bkw.caps = []) ∧
    (reachIs (reached zeroed) zeroed false true = true) ∧
    (reachIs (reached r (caching 12)) r true false = true) ∧
    (let q := capReach [ulAlloc] none; reachIs (reached q) q true true = true ∧ q.occ = none) := by decide +kernel

theorem wit_ReachesCaptured_known :
    let r := capReach [ulAlloc] (some (1, capSym))
    let wide (s : State) : State := { s with dramPairs := [0], sched := { s.sched with used := [(usedKey 2 0 1, 2 ^ 20)] } }
    let s := knowing (reached r)
    let d := wide s
    (reachIs s r true true = true ∧ s.bkw.occasions.find? (isOcc s) = some occ15 ∧ s.bkw.wp = 0 ∧ s.bkw.recs = [] ∧
      5 ≤ bits (s.reg Reg.BKW_CACHE_SIZE).toNat 21 0 ∧ (s.clearOuts.chargeDram (s.granuleAddr 0) (5 * 8192) 1).isSome = true) ∧
    (reachIs d r true true = true ∧ d.bkw.occasions.find? (isOcc d) = some occ15 ∧ d.bkw.wp = 0 ∧ d.bkw.recs = [] ∧
      5 ≤ bits (d.reg Reg.BKW_CACHE_SIZE).toNat 21 0 ∧ d.clearOuts.chargeDram (d.granuleAddr 0) (5 * 8192) 1 = none) ∧
    (let p := knowing (reached r) fun b => { b with recs := [{ inWay15 with granule := 4 }], regions := [(15, { Region.reset with st := 1, run := some ⟨trainRec, 0, 0, false⟩ })] }
     reachIs p r true true = true ∧ p.bkw.occasions.find? (isOcc p) = some occ15 ∧ p.bkw.wp = 0 ∧ 5 ≤ bits (p.reg Reg.BKW_CACHE_SIZE).toNat 21 0 ∧
      { inWay15 with granule := 4 } ∈ p.bkw.recs ∧ p.pinned 0 = true) := by decide +kernel

theorem wit_ReachesCaptured_new :
    let r := capReach [ulAlloc] (some (1, capSym))
    let s := reached r
    let w := s.clearOuts.chargeDram (s.granuleAddr 0) (7 * 8192) 1
    reachIs s r true true = true ∧ s.bkw.occasions = [] ∧ s.bkw.wp = 0 ∧ s.bkw.recs = [] ∧ 12 ≤ bits (s.reg Reg.BKW_CACHE_SIZE).toNat 21 0 ∧
    w.isSome = true ∧ ((w.bind fun w => w.chargeDram (s.granuleAddr 7) (5 * 8192) 1)).isSome = true := by decide +kernel

theorem wit_ReachesCaptured_room :
    (reached (capReach [ulAlloc] (some (1, capSym)))).place (State.selfAddr (4 * 8192)) = (.mem (4 * 8192), 64 * 2 ^ 20 - 4 * 8192) := by decide +kernel

/-- That reach's occasion of the stream at carrier 15, with the DRAM ring on for its cluster or off. -/
def streaming (wins : Tab ImgWin) (gridSlot : Tab Nat := []) (eff : Word := 4) (size : Nat := 17) : State :=
  let s := reached (capReach [ulAlloc] none) (caching size)
  { s with
    ctl := { s.ctl with eff := [(Reg.BKW_CAPCFG, 0x800000), (Reg.BKW_REFSIG0 + 12, 0x8F000000), (Reg.RXP_MONCFG 3, eff)] }
    bkw := { s.bkw with wins := wins, gridSlot := gridSlot } }

/-- A window of stream 3 with `n` occasions. -/
def win15 (n : Nat) : ImgWin := ⟨capSym, 15, 2, 2, 7, [], 0, 0, List.replicate n ⟨[], [], [], []⟩⟩

/-- The occasion of the stream at carrier 15 has a reach of its port, in time or late, in the ring or not. -/
def streamIs (s : State) (late mirror : Bool) : Bool :=
  let cfg := (s.ctl.inForce (Reg.BKW_REFSIG0 + 4 * 3)).toNat
  s.ready && bitOf cfg 31 && s.bkwCtl 0 && bits cfg 27 24 == 15 && s.carrierOf 15 == some carrier
    && (s.bkw.caps.find? fun r => r.carrier == 15 && r.sym.sfn == capSym.sfn && r.sym.slot == capSym.slot
      && r.allocs.any fun a => a.layerBase.val == bits cfg 23 20).isSome
    && s.capLate 0 (State.slotOfSym 0 capSym) == late && s.mirrorOn 3 0 capSym == mirror

theorem wit_ImagesCaptured_none :
    let off : State := (streaming []).setReg Reg.BKW_CTRL 0
    let gone : State := { streaming [] with func := up.func }
    let none_ : State := { streaming [] with bkw := up.bkw }
    (off.ready = true ∧ off.bkwCtl 0 = false) ∧
    (gone.ready = true ∧ gone.carrierOf 15 = none) ∧
    (none_.ready = true ∧ none_.bkw.caps = [] ∧ none_.bkwCtl 0 = true ∧ none_.carrierOf 15 = some carrier) := by decide +kernel

theorem wit_ImagesCaptured :
    let n := State.slotOfSym 0 capSym
    let pilots : List (Nat × Word) := List.replicate 64 (1, 1)
    (((pilots.take 63).drop 0).take 64).length < 64 ∧ 64 ≤ ((pilots.drop 0).take 64).length ∧ bits (0x8F000000 : Word).toNat 19 8 = 0 ∧
    (streamIs (streaming [] [(0, n + 2)]) true true = true) ∧
    (streamIs (streaming [] [] 0) false false = true) ∧
    (streamIs (streaming [(3, win15 14)]) false true = true ∧ tfind (streaming [(3, win15 14)]).bkw.wins 3 = some (win15 14)) ∧
    (streamIs (streaming []) false true = true ∧ tfind (streaming []).bkw.wins 3 = none) ∧
    (let s := streaming [(3, win15 15)]
     streamIs s false true = true ∧ tfind s.bkw.wins 3 = some (win15 15) ∧ (win15 15).rows.length = 15 ∧ s.bkw.wp = 0 ∧ s.bkw.recs = [] ∧
     17 ≤ bits (s.reg Reg.BKW_CACHE_SIZE).toNat 21 0 ∧ s.place (State.selfAddr (s.granuleAddr 0)) = (.mem (4 * 8192), 64 * 2 ^ 20 - 4 * 8192) ∧
     (s.chargeDram (s.granuleAddr 0) (17 * 8192) 1).isSome = true) := by decide +kernel

/-- The TRAIN of region 15 with `k` more samples, and the region at its first step. -/
def trainOf (k : Nat) : UpdateRec := { trainRec with samples := k + 1 }
def atStep (runs : List StepRes) (discards : Nat := 0) (k : Nat := 0) (abort : Bool := false) : Region :=
  { Region.reset with st := 1, run := some ⟨trainOf k, 0, 0, false⟩, window := some 51, runs := runs, discards := discards, abort := abort }

/-- The device with every step or few checked, with no replay configured; and with the window closed. -/
def stepping (r : Region) (check : Bool := false) : State :=
  region15 r true { up with flt := { up.flt with check := if check then 50 else 3 }, ctl := { up.ctl with eff := [(Reg.BKW_REPLAY_CFG, 0)] } }
def closing (r : Region) (check : Bool := false) : State := (stepping r check).clearOuts.setRegion 15 { r with window := none }

/-- A read whose first byte lands in a hole answers no byte. -/
theorem readG_hole {s : State} {req basin k n addr : Nat} {h : State.HoleAt} (ha : (s.place addr).1 = .hole h) (hn : 0 < n) :
    State.readG req basin (k + 1) s addr n = (s.hole h, [], false) := by
  simp only [State.readG, if_neg (show n ≠ 0 by omega), ha]

theorem stepSamples15 (runs : List StepRes) (n k : Nat) (ab check : Bool) :
    (closing (atStep runs n k ab) check).stepSamples 15 ⟨trainOf k, 0, 0, false⟩ (decl15 true)
      = ((closing (atStep runs n k ab) check).hole .trib, [], 1) := by
  have hp : ((closing (atStep runs n k ab) check).place 0).1 = .hole .trib := by
    have h : closing (atStep runs n k ab) check = { closing (atStep []) check with
        mem := (closing (atStep []) check).mem, bkw := (closing (atStep runs n k ab) check).bkw, sched := (closing (atStep []) check).sched } := rfl
    rw [h, State.place_mem]
    cases check <;> decide +kernel
  have hr : (closing (atStep runs n k ab) check).region 15 = { atStep runs n k ab with window := none } := rfl
  rw [State.stepSamples, hr]
  have h1 : min (trainOf k).batch ((trainOf k).samples - (atStep runs n k ab).step * (trainOf k).batch) = 1 := by
    show min 1 (k + 1 - 0 * 1) = 1
    omega
  simp only [h1, show List.range 1 = [0] from rfl, List.foldl]
  have h2 : ((trainOf k).source.toNat + ((atStep runs n k ab).epochs * (trainOf k).samples + (atStep runs n k ab).step * (trainOf k).batch + 0) * 32) % 2 ^ 64
      = 0 := by
    show (0 + (0 * (k + 1) + 0 * 1 + 0) * 32) % 2 ^ 64 = 0
    simp
  simp only [h2]
  rw [readG_hole hp (by decide)]
  rfl

/-- The loss of that step's samples, none. -/
def loss15 : BitVec 64 := Config.trainLoss 7 15 (readBytes [] 0 2240) [] []

theorem runResult15 (runs : List StepRes) (n k : Nat) (ab check : Bool) (y : StepRun) :
    (closing (atStep runs n k ab) check).runResult 15 ⟨trainOf k, 0, 0, false⟩ (decl15 true) y
      = ((closing (atStep runs n k ab) check).hole .trib, ⟨[], loss15 ^^^ y.lossFlip, y.cores⟩) := by
  rw [State.runResult, stepSamples15]
  rfl

/-- A run of core 51, and a result of an earlier run of its step on core 50, of the same loss or not. -/
def run51 : StepRun := ⟨[51], [], 0⟩
def run50 (same : Bool) : StepRes := ⟨[], if same then loss15 else loss15 + 1, [50]⟩

theorem runsAgree15 (runs : List StepRes) (n k : Nat) (ab check same : Bool) :
    runsAgree (run50 same) ((closing (atStep runs n k ab) check).runResult 15 ⟨trainOf k, 0, 0, false⟩ (decl15 true) run51).2 = same := by
  rw [runResult15]
  have h : loss15 ^^^ run51.lossFlip = loss15 := BitVec.xor_zero
  cases same
  · simp [runsAgree, run50, h]
  · simp [runsAgree, run50, h]

theorem stepping_ready (r : Region) (check : Bool) : (stepping r check).ready = true := by
  have h : (stepping r check).settled = (stepping Region.reset check).settled := State.settled_of_regs rfl rfl rfl rfl rfl rfl
  have h' : (stepping r check).ready = (stepping Region.reset check).ready := by
    rw [State.ready, State.ready, h]
    rfl
  rw [h']
  cases check <;> decide +kernel

/-- What a run's suspicion rests on. -/
theorem suspectStep_congr {s t : State} {r q : Region} {x y : StepRes} (d : RegionDecl) (h1 : s.ctl.eff = t.ctl.eff) (h2 : s.flt.check = t.flt.check)
    (h3 : s.cores = t.cores) (h4 : r.lastShift = q.lastShift) (h5 : r.n = q.n) (h6 : x.grad = y.grad) (h7 : x.cores = y.cores) :
    s.suspectStep r d x = t.suspectStep q d y := by
  simp only [State.suspectStep, State.coreChk, State.core, Ctl.inForce, h1, h2, h3, h4, h5, h6, h7]
  rfl

theorem suspectStep15 (runs : List StepRes) (n k : Nat) (ab b : Bool) :
    let s := closing (atStep runs n k ab) b
    let y := s.runResult 15 ⟨trainOf k, 0, 0, false⟩ (decl15 true) run51
    y.1.suspectStep (atStep runs n k ab) (decl15 true) y.2 = b := by
  intro s y
  have hy : y = (s.hole .trib, ⟨[], loss15 ^^^ run51.lossFlip, run51.cores⟩) := runResult15 _ _ _ _ _ _
  have h : (s.hole .trib).suspectStep (atStep runs n k ab) (decl15 true) ⟨[], loss15 ^^^ run51.lossFlip, run51.cores⟩
      = ((closing (atStep []) b).hole .trib).suspectStep (atStep []) (decl15 true) ⟨[], 0, run51.cores⟩ :=
    suspectStep_congr _ (by show Ctl.eff (Ctl.count (Ctl.event _ _ _ _) _ _) = Ctl.eff (Ctl.count (Ctl.event _ _ _ _) _ _); rfl) rfl rfl rfl rfl rfl rfl
  rw [hy, h]
  cases b <;> decide +kernel

theorem wit_StepsCommitted_none :
    (up.ready = true ∧ (up.region 15).run = none) ∧
    (let r := atStep [⟨[], 0, [51]⟩]
     (stepping r).ready = true ∧ (stepping r).region 15 = r ∧ (stepping r).regionDecl 15 = some (decl15 true) ∧ r.run.isSome = true ∧ r.st = 1 ∧
      r.window.isSome = true ∧ (r.runs.all fun a => otherCores a run51.cores) = false) :=
  ⟨by decide +kernel, stepping_ready _ _, rfl, rfl, rfl, rfl, rfl, rfl⟩

/-- Region 15 is `r` at a step of its update `v`. -/
def stepOf (r : Region) (v : Upd) (check : Bool := false) : Prop :=
  (stepping r check).ready = true ∧ (stepping r check).region 15 = r ∧ (stepping r check).regionDecl 15 = some (decl15 true) ∧
  r.run = some v ∧ r.st = 1 ∧ r.window = some 51 ∧ r.queue = none

theorem atStep_stepOf (runs : List StepRes) (n k : Nat) (ab check : Bool) : stepOf (atStep runs n k ab) ⟨trainOf k, 0, 0, false⟩ check :=
  ⟨stepping_ready _ _, rfl, rfl, rfl, rfl, rfl, rfl⟩

/-- A first run that is suspect or not; a replay that agrees or not; a third run that agrees with either, both or none of two. -/
theorem wit_StepsCommitted (b same : Bool) (n : Nat) :
    let v : Upd := ⟨trainOf 0, 0, 0, false⟩
    let res (r : Region) (check : Bool) : State × StepRes := (closing r check).runResult 15 v (decl15 true) run51
    (let r := atStep []
     stepOf r v b ∧ r.abort = false ∧ r.runs = [] ∧ (res r b).1.suspectStep r (decl15 true) (res r b).2 = b) ∧
    (let r := atStep [run50 same]
     stepOf r v ∧ r.abort = false ∧ (r.runs.all fun a => otherCores a run51.cores) = true ∧ r.runs = [run50 same] ∧
      runsAgree (run50 same) (res r false).2 = same) ∧
    (let r := atStep [run50 same, run50 b] n
     stepOf r v ∧ r.abort = false ∧ (r.runs.all fun a => otherCores a run51.cores) = true ∧ r.runs = [run50 same, run50 b] ∧ r.discards = n ∧
      runsAgree (run50 same) (res r false).2 = same ∧ runsAgree (run50 b) (res r false).2 = b) :=
  ⟨⟨atStep_stepOf .., rfl, rfl, suspectStep15 ..⟩, ⟨atStep_stepOf .., rfl, rfl, rfl, runsAgree15 ..⟩,
    ⟨atStep_stepOf .., rfl, rfl, rfl, rfl, runsAgree15 .., runsAgree15 ..⟩⟩

theorem wit_StepsCommitted_aborted :
    let v : Upd := ⟨trainOf 1, 0, 0, false⟩
    let r := atStep [] 0 1 true
    let x := (closing r).runResult 15 v (decl15 true) run51
    stepOf r v ∧ r.runs = [] ∧ v.rec_.kind = 1 ∧ r.abort = true ∧ x.1.suspectStep r (decl15 true) x.2 = false ∧ r.step + 1 < updSteps v.rec_ :=
  ⟨atStep_stepOf .., rfl, rfl, rfl, suspectStep15 [] 0 1 true false, by decide⟩

/-- A model slot of 0x100 bytes for model 9 under the image's flow tag. -/
def slotImage : List Byte := leBytes 4 0x4F484D31 ++ leBytes 2 1 ++ leBytes 2 9 ++ leBytes 8 3 ++ leBytes 4 0x100 ++ leBytes 4 0 ++ leBytes 4 7

/-- A LOAD from the pool, validating or not, and a region with it in state `st`. -/
def loadRec (flags : Nat) : UpdateRec := { trainRec with kind := 2, source := BitVec.ofNat 64 poolAt, flags := flags, valCount := 16 }
def loading (st flags : Nat) : Region := { Region.reset with st := st, run := some ⟨loadRec flags, 0, 0, false⟩ }

/-- The device with that image in its pool and that region in its image of kind 1. -/
def staging15 (st flags : Nat) : State := region15 (loading st flags) false { up with mem := writeBytes [] 0x100000000000 slotImage }

theorem wit_CandidatesChecked_staging :
    let u (flags : Nat) : State := (staging15 2 flags).clearOuts
    let h (flags : Nat) : State × List Byte × Bool := State.readG reqWellhead 0 0x100 (u flags) (loadRec flags).source.toNat 0x100
    let b (flags : Nat) : State × List Byte × Bool := State.readG reqWellhead 0 0x100 (h flags).1 (loadRec flags).source.toNat 0x100
    (up.ready = true ∧ (up.region 15).run = none ∧ (up.region 15).st ≠ 3) ∧
    ((staging15 2 0).ready = true ∧ ((staging15 2 0).region 15) = loading 2 0 ∧ (loading 2 0).queue = none ∧ (loading 2 0).st = 2 ∧
      (staging15 2 0).regionDecl 15 = some (decl15 false)) ∧
    ((staging15 2 2).ready = true ∧ (h 2).2.2 = true ∧ min 0x100000 (max 0x100 (fieldAt (h 2).2.1 0x10 4)) = 0x100 ∧ (b 2).2.2 = true ∧
      State.slotOk (b 2).1.flowTag (some (decl15 false).modelId.toNat) (b 2).2.1 = true ∧ bitOf (loadRec 2).flags 1 = true) ∧
    ((h 0).2.2 = true ∧ (b 0).2.2 = true ∧ State.slotOk (b 0).1.flowTag (some (decl15 false).modelId.toNat) (b 0).2.1 = true ∧
      bitOf (loadRec 0).flags 1 = false) := by decide +kernel

/-- One held-out record of an image, and memory that holds it at granule 0 with a checksum. -/
def held15 : CacheRec := ⟨0, 1, 5, 0, 3, true, 0⟩
def heldMem (c : Word) : Tab Byte :=
  writeBytes (writeBytes [] 0 (leBytes 4 0x4F484F58 ++ [3, 0, 0, 0] ++ leBytes 4 5)) 120 (leBytes 4 c.toNat)

/-- The region validates with `n` times that record as its set. -/
def validating (c : Word) (n : Nat) : State :=
  let s := region15 { loading 3 2 with vals := List.replicate n held15 } false { up.setReg Reg.DRAM_TOP 64 with mem := heldMem c }
  { s with bkw := { s.bkw with recs := [held15] } }

theorem readBytes_drop (m : Tab Byte) (k a n : Nat) : (readBytes m a (k + n)).drop k = readBytes m (a + k) n := by
  induction k generalizing a with
  | zero => simp
  | succ k ih => rw [Nat.add_right_comm, readBytes, List.drop_succ_cons, ih, Nat.add_assoc, Nat.add_comm 1]

theorem readBytes_take (m : Tab Byte) (k a n : Nat) : (readBytes m a (k + n)).take k = readBytes m a k := by
  induction k generalizing a with
  | zero => rfl
  | succ k ih => rw [Nat.add_right_comm, readBytes, List.take_succ_cons, ih, readBytes]

/-- A byte of that memory. -/
theorem tget_heldMem (c : Word) (i : Nat) : tget zeroByte (heldMem c) i = if 120 ≤ i ∧ i < 124 then (leBytes 4 c.toNat).getD (i - 120) 0
    else if i < 12 then [0x58, 0x4F, 0x48, 0x4F, 3, 0, 0, 0, 5, 0, 0, (0 : Byte)].getD i 0 else 0 := by
  rw [heldMem, tget_writeBytes, tget_writeBytes]
  by_cases h : i < 12
  · simp only [show (leBytes 4 c.toNat).length = 4 from rfl, show (leBytes 4 0x4F484F58 ++ [3, 0, 0, 0] ++ leBytes 4 5)
      = [0x58, 0x4F, 0x48, 0x4F, 3, 0, 0, 0, 5, 0, 0, (0 : Byte)] from by decide, Nat.sub_zero]
    simp [h]
  · simp only [show (leBytes 4 c.toNat).length = 4 from rfl, show (leBytes 4 0x4F484F58 ++ [3, 0, 0, 0] ++ leBytes 4 5).length = 12 from rfl]
    simp [h]
    rfl

/-- The record's sections are zero. -/
theorem heldMem_zero (c : Word) (n a : Nat) (h : 124 ≤ a) : readBytes (heldMem c) a n = List.replicate n 0 := by
  induction n generalizing a with
  | zero => rfl
  | succ n ih => rw [readBytes, ih _ (by omega), tget_heldMem, if_neg (by omega), if_neg (by omega), List.replicate_succ]

theorem heldMem_crc {c : Word} (h : c = crc32c (List.replicate 7936 0)) : crc32c ((readBytes (heldMem c) 0 8192).drop 256) = c := by
  rw [readBytes_drop (heldMem c) 256 0 7936, heldMem_zero _ _ _ (by omega), h]

theorem fieldAt_readBytes (m : Tab Byte) {i n k : Nat} (h : i + n ≤ k) : fieldAt (readBytes m 0 k) i n = leNat (readBytes m i n) := by
  obtain ⟨j, rfl⟩ := Nat.exists_eq_add_of_le h
  rw [Nat.add_assoc, fieldAt, readBytes_drop, readBytes_take, Nat.zero_add]

theorem heldMem_head (c : Word) : (fieldAt (readBytes (heldMem c) 0 8192) 0 4 == 0x4F484F58 && fieldAt (readBytes (heldMem c) 0 8192) 4 1 == 3
    && fieldAt (readBytes (heldMem c) 0 8192) 8 4 == 5 && fieldAt (readBytes (heldMem c) 0 8192) 120 4 == c.toNat) = true := by
  have hc : leNat (readBytes (heldMem c) 120 4) = c.toNat := by
    have := c.isLt
    simp [readBytes, tget_heldMem, leBytes, leNat]
    omega
  rw [fieldAt_readBytes _ (by omega), fieldAt_readBytes _ (by omega), fieldAt_readBytes _ (by omega), fieldAt_readBytes _ (by omega), hc]
  simp [readBytes, tget_heldMem, leNat]

/-- That record reads back whole with the right checksum, so each of the set is a sample. -/
theorem sampleOf15 {c : Word} (h : c = crc32c (List.replicate 7936 0)) (n : Nat) : (validating c n).clearOuts.sampleOf 3 0 5 = ((validating c n).clearOuts, some (readBytes (heldMem c) 0 8192, [])) := by
  have hr : (validating c n).clearOuts.readMem 0 8192 = ((validating c n).clearOuts, readBytes (heldMem c) 0 8192, true) := rfl
  have hf : (validating c n).clearOuts.bkw.recs.find? (fun e => e.granule == 0 && e.tag == 5) = some held15 := rfl
  have hg : (validating c n).clearOuts.granuleAddr 0 = 0 := by
    show (validating 0 0).granuleAddr 0 = 0
    decide +kernel
  simp only [State.sampleOf, State.usable, hf, hg, show held15.len * 8192 = 8192 from rfl, hr, heldMem_crc h]
  simp only [Bool.true_and, heldMem_head]
  rfl

theorem valSamples15 {c : Word} (h : c = crc32c (List.replicate 7936 0)) (n : Nat) : (validating c n).clearOuts.valSamples 15
    = ((validating c n).clearOuts, List.replicate n (readBytes (heldMem c) 0 8192)) := by
  have hv : ((validating c n).clearOuts.region 15).vals = List.replicate n held15 := rfl
  have hk : ∀ (k : Nat) (bs : List (List Byte)), (List.replicate k held15).foldl (fun (t : State × List (List Byte)) c =>
      let x := t.1.sampleOf c.kind c.granule c.tag
      match x.2 with
      | some b => (x.1, t.2 ++ [b.1 ++ b.2])
      | none => ((x.1.count Reg.BKW_AUG_SKIP_CNT 1).event Reg.BKW_STATUS Ev.BKW_AUG_SKIP, t.2)) ((validating c n).clearOuts, bs)
      = ((validating c n).clearOuts, bs ++ List.replicate k (readBytes (heldMem c) 0 8192)) := by
    intro k
    induction k with
    | zero => intro bs; simp
    | succ k ih =>
      intro bs
      rw [List.replicate_succ, List.foldl_cons]
      simp only [show held15.kind = 3 from rfl, show held15.granule = 0 from rfl, show held15.tag = 5 from rfl, sampleOf15 h]
      rw [ih]
      simp [List.replicate_succ]
  rw [State.valSamples, hv]
  exact hk n []

/-- Sixteen samples, whether the new image is as good or not; and fifteen. -/
theorem wit_CandidatesChecked_validation {c : Word} (hc : c = crc32c (List.replicate 7936 0)) :
    let v : Upd := ⟨loadRec 2, 0, 0, false⟩
    let s := validating c 16
    let x := s.clearOuts.valSamples 15
    let new := x.1.newImage 15 (decl15 false)
    let old := x.1.slotImage (decl15 false) 0
    let good := (Config.valErrors x.1.flowTag 15 new x.2).toNat * 256 ≤ (Config.valErrors x.1.flowTag 15 old x.2).toNat * (256 - v.rec_.margin)
      ∧ (Config.valLoss x.1.flowTag 15 new x.2).toNat ≤ (Config.valLoss x.1.flowTag 15 old x.2).toNat
    (s.ready = true ∧ (s.region 15).run = some v ∧ s.regionDecl 15 = some (decl15 false) ∧ (s.region 15).st = 3 ∧ (s.region 15).active = 0 ∧
      (s.region 15).queue = none ∧ s.bkwCtl 3 = false ∧ 16 ≤ x.2.length ∧ (good ∨ ¬good)) ∧
    (let s := validating c 15
     s.ready = true ∧ (s.region 15).run = some v ∧ s.regionDecl 15 = some (decl15 false) ∧ (s.region 15).st = 3 ∧ s.bkwCtl 3 = false ∧
      (s.region 15).queue = none ∧ (s.clearOuts.valSamples 15).2.length < 16) := by
  have hr (n : Nat) : (validating c n).ready = true := by
    have h : (validating c n).settled = (validating 0 0).settled := State.settled_of_regs rfl rfl rfl rfl rfl rfl
    have h' : (validating c n).ready = (validating 0 0).ready := by
      rw [State.ready, State.ready, h]
      rfl
    rw [h']
    decide +kernel
  have hb : ∀ n, (validating c n).bkwCtl 3 = false := fun n => show (validating 0 0).bkwCtl 3 = false by decide +kernel
  refine ⟨⟨hr _, rfl, rfl, rfl, rfl, rfl, hb _, ?_, Classical.em _⟩, hr _, rfl, rfl, rfl, hb _, rfl, ?_⟩
  · rw [valSamples15 hc]; simp
  · rw [valSamples15 hc]; simp

theorem wit_CandidatesChecked_held : (up.setReg Reg.BKW_CTRL 8).ready = true ∧ (up.setReg Reg.BKW_CTRL 8).bkwCtl 3 = true := by decide +kernel

/-- A swap of the LOAD, its SWAP_AT given by bit 0 of the flags. -/
def swapUpd (flags swapAt : Nat) (missed : Bool := false) (kind : Nat := 2) : Upd :=
  ⟨{ loadRec flags with swapAt := swapAt, kind := kind }, 0, 0, missed⟩

/-- The region commits that update. -/
def committing (u : Upd) (writing : Bool) (pend : Option (Upd × Nat) := none) : Region :=
  { Region.reset with st := 4, run := some u, writing := writing, staged := if u.rec_.kind = 1 then [] else [1, 2], pend := pend }

/-- The device at the latch point before a slot boundary of numerology 3. -/
def latching (r : Region) (kind2 : Bool) : State :=
  let s := region15 r kind2
  { s with time := { s.time with sub := 125000 * 2 ^ 40 - s.swapLead } }

theorem wit_SwapsTaken_commit :
    let u := swapUpd 0 0
    (up.ready = true ∧ (up.region 15).st ≠ 4 ∧ (up.region 15).run = none) ∧
    (let s := region15 (committing u false); s.ready = true ∧ s.region 15 = committing u false ∧ (committing u false).latch = none ∧ s.bkwCtl 3 = false) ∧
    (let r := committing u false (some (u, 1))
     let s := region15 r; s.ready = true ∧ s.region 15 = r ∧ r.latch = none ∧ s.bkwCtl 3 = false ∧ r.pend = some (u, 1)) ∧
    (∀ v ∈ [u, swapUpd 0 0 true, swapUpd 0 0 false 1], let r := committing v true
     let s := region15 r false
     s.ready = true ∧ s.region 15 = r ∧ r.run = some v ∧ s.regionDecl 15 = some (decl15 false) ∧ s.bkwCtl 3 = false ∧ r.pend = none ∧ r.queue = none ∧
      s.slotAddrs (decl15 false) (1 - r.active) = [0x20000]) := by decide +kernel

theorem wit_SwapsTaken_candidate :
    16 ≤ ((region15 (committing (swapUpd 0 0 false 1) true) false).newImage 15 (decl15 false)).length := by
  have h : ((region15 (committing (swapUpd 0 0 false 1) true) false).region 15).staged = [] := rfl
  simp only [State.newImage, h, List.isEmpty_nil, if_true, State.candidate, readBytes_length]
  rw [State.slotImage, readBytes_length, show (decl15 false).kind2 = false from rfl]
  simp only [Bool.false_eq_true, if_false]
  omega

theorem wit_SwapsTaken_latch :
    let r (flags at_ : Nat) : Region := { Region.reset with pend := some (swapUpd flags at_, 1) }
    (up.latchDue 3 = false ∧ up.ready = true) ∧
    (let s := latching Region.reset true; s.ready = true ∧ s.latchDue 3 = true ∧ ∀ x ∈ s.regionsOf 3, (s.region x.1).pend = none) ∧
    (∀ k ∈ [true, false], let s := latching (r 0 0) k
     s.ready = true ∧ s.latchDue 3 = true ∧ s.regionsOf 3 = [(15, decl15 k)] ∧ s.region 15 = r 0 0 ∧ bitOf (swapUpd 0 0).rec_.flags 0 = false) ∧
    (let s := latching (r 1 1) true
     s.ready = true ∧ s.latchDue 3 = true ∧ s.regionsOf 3 = [(15, decl15 true)] ∧ s.region 15 = r 1 1 ∧ bitOf (swapUpd 1 1).rec_.flags 0 = true ∧
      (swapUpd 1 1).rec_.swapAt = s.nextSlotField 3) := by decide +kernel

theorem wit_SwapsTaken_boundary :
    (∀ ok ∈ [true, false], ∀ b ∈ [0, 1], let r : Region := { Region.reset with latch := some (swapUpd 0 0, 1, b, ok) }
     let s := region15 r
     s.ready = true ∧ s.regionsOf 3 = [(15, decl15 true)] ∧ s.region 15 = r ∧ r.pend = none ∧ r.run = none ∧ r.queue = none ∧ s.slotField' 3 = 0) ∧
    (let r : Region := { Region.reset with pend := some (swapUpd 1 0, 1) }
     let s := region15 r
     s.ready = true ∧ s.regionsOf 3 = [(15, decl15 true)] ∧ s.region 15 = r ∧ r.run = none ∧ r.queue = none ∧ r.latch = none ∧
      bitOf (swapUpd 1 0).rec_.flags 0 = true ∧ (swapUpd 1 0).rec_.swapAt = s.slotField' 3) := by decide +kernel
/-! ## Jobs and tests -/

/-- The image with the catchment 3 of logical core 47 (physical 50), of function `f`. -/
def img47 (f : Option (Fin 2)) : ImageFile := { img with catchments := [⟨3, false, f, [⟨0x3FFFF, 47, []⟩]⟩] }

/-- A job record: catchment, flags, batch. -/
def jobRec (c flags : Byte) (batch : Nat) : List Byte :=
  [c, flags] ++ leBytes 2 4095 ++ leBytes 4 2000 ++ leBytes 8 (2 ^ 64 - 1) ++ leBytes 2 batch ++ leBytes 2 0 ++ leBytes 4 0 ++ leBytes 4 0 ++ List.replicate 36 0

theorem wit_RecordsTaken :
    let s (e : List Byte) : State :=
      { up with img := ⟨some (img47 none)⟩, basins := [(7, { bas with st := 1, f2 := [e], catchments := 8, nextJob := 2 ^ 48 - 1 })] }
    (up.ready = true ∧ (up.basin 7).f2 = []) ∧ (let t : State := { up with basins := [(7, { bas with st := 2 })] }; t.ready = true ∧ (t.basin 7).st = 2) ∧
    ((s (jobRec 3 2 4096)).ready = true ∧ ((s (jobRec 3 2 4096)).basin 7).f2 = jobRec 3 2 4096 :: [] ∧ ((s (jobRec 3 2 4096)).basin 7).st ≠ 2 ∧
      (s (jobRec 3 2 4096)).jobBad 7 (jobRec 3 2 4096) = false) ∧
    ((s (jobRec 3 2 4097)).ready = true ∧ (s (jobRec 3 2 4097)).jobBad 7 (jobRec 3 2 4097) = true ∧
      (s (jobRec 4 0 1)).jobBad 7 (jobRec 4 0 1) = true ∧ (s (jobRec 3 4 1)).jobBad 7 (jobRec 3 4 1) = true) := by decide +kernel

/-- Job 9 of basin 7 in state `st` with a launch `ahead` of now, and its record. -/
def job9 (st : JobState) (ahead : Nat) (leaves : List (Nat × Nat) := []) (preempted : Bool := false) : Job :=
  ⟨7, 9, 5, 0, (booted.ns32.toNat + ahead) % 2 ^ 32, st, leaves, preempted⟩
def rec9 (preempt : Bool) : JobRec := ⟨7, 3, false, preempt, 4095, 0, 2 ^ 64 - 1, 4096, 0, 0, 1, false⟩

/-- The device with those jobs. -/
def jobs (js : List Job) (preempt : Bool := false) (f : Option (Fin 2) := none) (s : State := booted) : State :=
  { s with img := ⟨some (img47 f)⟩, sched := { s.sched with jobs := js, recs := [(5, rec9 preempt)] } }

/-- The catchment of `img47`, and a fetched job of it with `n` nanoseconds to its launch. -/
def catch47 (f : Option (Fin 2)) : Catchment := ⟨3, false, f, [⟨0x3FFFF, 47, []⟩]⟩
def ahead (n : Nat) (s : State) (pre : Bool := false) (f : Option (Fin 2) := none) : Bool :=
  s.ready && s.jobOf 7 (9 : BitVec 48).toNat == some (job9 .fetched n) && s.jobRec 5 == some (rec9 pre) &&
    s.catchment (rec9 pre).catch_ == some (catch47 f) && s.localLeaves (catch47 f) == [(50, 0)] && s.nsAhead (job9 .fetched n).launch == n

theorem wit_JobsArmed :
    (up.ready = true ∧ up.jobOf 7 9 = none) ∧
    (let s := jobs [job9 .armed 3000]; s.ready = true ∧ s.jobOf 7 9 = some (job9 .armed 3000)) ∧
    (∀ n ∈ [20001, 20000, 2000, 1999], ahead n (jobs [job9 .fetched n]) = true) ∧
    ((rec9 false).repeat_ = false ∧ (rec9 false).basin = 7 ∧ (up.basin 7).st ≠ 2 ∧
      ∀ k ∈ (jobs [job9 .fetched 2000]).sched.jobs, k.leaves = []) ∧
    (let s := jobs [job9 .fetched 20000] false (some 1); ahead 20000 s false (some 1) = true ∧ s.mayArm 1 (job9 .fetched 20000).launch = false) := by
  decide +kernel

theorem wit_JobsArmed_preempt :
    let k : Job := { job9 .running 0 [(50, 1)] with num := 8 }
    let s := jobs [job9 .fetched 2000, k] true
    ahead 2000 s true = true ∧ (rec9 true).preempt = true ∧ k ∈ s.sched.jobs ∧ ¬(k.basin = 7 ∧ k.num = 9) ∧ k.st = .running ∧ k.preempted = false ∧
      (50, 1) ∈ k.leaves := by decide +kernel

theorem wit_JobsArmed_resume :
    let j := job9 .running 0 [(50, 1)] true
    let x : SpillSlot := ⟨[(3, 4)], [], [], 1, 0, 2, (up.core 50).gate, 15, 4095, []⟩
    let s : State := { jobs [j] with sched := { (jobs [j]).sched with spills := [(50, x)] } }
    let resume := booted.ns32 + 2000
    s.ready = true ∧ s.jobOf 7 9 = some j ∧ j.st = .running ∧ j.leaves = [(50, 1)] ∧ tfind s.sched.spills 50 = some x ∧ 2000 ≤ s.nsAhead resume.toNat ∧
      s.coreFenced 50 = false ∧ (∀ k ∈ s.sched.jobs, k.preempted = true) := by decide +kernel

/-- JOB_CANCEL of job 9 written into basin 7's mailbox, and the state its doorbell finds. -/
def cancelling (j : Job) : State :=
  let s := jobs [j] false none { basins with mbx := [(8, { box with cmd := padTo 64 ([0x31, 0, 1, 0] ++ leBytes 6 9) })] }
  { s with cores := [(51, armWellhead s.ns32 3000 0 false Core.reset)] }

theorem wit_JobsCancelled :
    let x (s : State) : Mbx := s.mailbox 8
    let w (s : State) : State := s.clearOuts.setMailbox 8
      { x s with latched := (x s).cmd, accepted := 1, st := 1, overrun := false, reject := false, pre := none }
    let ok (s : State) (j : Job) : Prop := s.ready = true ∧ s.fnServes .pf 8 = true ∧ (x s).st ≠ 1 ∧ 1 = fieldAt (x s).cmd 2 2 ∧ 1 = ((x s).accepted + 1) % 65536 ∧
      fieldAt (x s).cmd 0 1 = 0x31 ∧ (w s).refusal 8 = none ∧ s.wq = [] ∧ (w s).cancelArgs 8 = (7, 9) ∧ s.jobOf 7 9 = some j
    ((srv 8 [0x31]).serves 8 0x31 = true) ∧ ok (cancelling (job9 .running 0 [(51, 1)])) (job9 .running 0 [(51, 1)]) ∧
    (let j := job9 .armed 3000 [(51, 0)]
     ok (cancelling j) j ∧ ((cancelling j).basin 7).st ≠ 2 ∧
     ((cancelling j).core 51).gate.wh = true ∧ ((cancelling j).core 51).gate.armed = true) := by decide +kernel

theorem wit_LeavesSpilled :
    let c : Core := { Core.reset with run := .halted .preempted }
    let waits (k : Nat) : State := { with_ 51 { alive with preempt := true } with
      sched := { up.sched with asked := [(51, k)] }, ctl := (up.setReg Reg.SCHED_PREEMPT_WAIT 1000).ctl }
    let waited (s : State) : Nat := (s.ns32.toNat + 2 ^ 32 - tget (fun _ => 0) s.sched.asked 51) % 2 ^ 32
    (up.ready = true ∧ (up.core 51).preempt = false ∧ (up.core 51).run ≠ .halted .preempted ∧ up.sched.jobs = []) ∧
    (∀ k ∈ [999, 1000], let s := waits (2 ^ 32 - k)
     s.ready = true ∧ (s.core 51).preempt = true ∧ waited s = k ∧ bits (s.reg Reg.SCHED_PREEMPT_WAIT).toNat 19 0 = 1000) ∧
    (let j := job9 .running 0 [(51, 1)]
     let s := jobs [j] false none (with_ 51 c)
     s.ready = true ∧ s.sched.jobs = [j] ∧ j.st = .running ∧ j.preempted = false ∧ j.leaves = [(51, 1)] ∧ (s.core 51).run = .halted .preempted ∧
     c.pass = none ∧ c.eddy = none ∧ c.ldprog = [] ∧ c.si = [] ∧ c.so = [] ∧ c.flight = [] ∧ tfind s.sched.spills 51 = none) := by decide +kernel

theorem wit_TestsEnd_idle : ∀ seg, up.flt.test ≠ some (51, seg) := by
  intro seg h
  cases h

theorem wit_TestsEnd :
    let t (seg : Nat) (mism : List (Nat × Nat)) (queue : List Nat := []) : State :=
      { up with flt := { up.flt with test := some (51, seg), mism := mism, queue := queue } }
    up.ready = true ∧ (t 3 []).ready = true ∧ (t 3 []).flt.test = some (51, 3) ∧ (t 3 []).flt.queue.head? ≠ some 51 ∧
    ((t 0 [] [51, 2]).ready = true ∧ (t 0 [] [51, 2]).flt.queue = 51 :: [2]) ∧
    ((51, 3) ∉ (t 3 []).flt.mism) ∧ ((t 3 [(51, 3)]).ready = true ∧ (51, 3) ∈ (t 3 [(51, 3)]).flt.mism) := by
  decide +kernel

/-- The Weir's known-answer tests: off; on with an allowance, for a unit of each kind, its answer wrong before or not. -/
theorem wit_TestsEnd_weir :
    let s (kat : List Nat) : State := { up with
      flt := { up.flt with kat := kat }
      sched := { up.sched with budget := [(budgetKey 3 2 + 1, 12288), (budgetKey 4 2 + 1, 12288)] }
      ctl := { up.ctl with eff := [(Reg.FAULT_TEST_CFG, 1)] } }
    let on (s : State) (q unit : Nat) : Bool := bitOf (s.ctl.inForce Reg.FAULT_TEST_CFG).toNat 0 &&
      (if unit < 6 then s.fence 1 (6 * q + unit) == 0 && s.allowed 3 (6 * q + unit) 2 1
      else s.fence 2 (2 * q + unit - 6) == 0 && s.allowed 4 (2 * q + unit - 6) 2 1)
    let off : State := { up with ctl := { up.ctl with eff := [(Reg.FAULT_TEST_CFG, 0)] } }
    (off.ready = true ∧ on off 3 7 = false) ∧
    (∀ unit ∈ [5, 7], (s []).ready = true ∧ on (s []) 3 unit = true ∧ (s []).flt.kat = [] ∧
      (s [3 * 16 + unit]).ready = true ∧ on (s [3 * 16 + unit]) 3 unit = true ∧ 3 * 16 + unit ∈ (s [3 * 16 + unit]).flt.kat) := by
  decide +kernel

/-! ## The other ill-formed commands -/

theorem test_wf_bursts : (Instr.arbiterGrant 63 [⟨0, 0, 1024, true, [], 0⟩] none).wellFormed = false ∧
    (Instr.burstComplete 63 [.uncorrectable 0 (List.replicate 7 0)]).wellFormed = false ∧
    (Instr.poolScrubRead 3 [.uncorrectable 0 []]).wellFormed = false ∧ (Instr.dramScrubRead [.uncorrectable 0 (List.replicate 8 0)]).wellFormed = false := by
  decide

theorem test_wf_blocks : (Instr.agcBlock 31 (List.replicate 63 (0, 0, false))).wellFormed = false ∧
    (Instr.registerWrite .bar2 0xFFFFFF [0, 0]).wellFormed = false ∧ (Instr.registerWrite .bar2 0 []).wellFormed = false ∧
    (Instr.pcieLinkUp 3 1 8 []).wellFormed = false ∧ (Instr.pcieLinkUp 1 0 8 []).wellFormed = false := by decide

theorem test_reset_mem_wf : State.reset.memWf = true := by decide

end Sys2Proof.Tests
end

section
/-! PROOFS. Launches (12 R474 to R477; 05 R178, R180, R191; 04 R153, R155): what the gate's evaluations leave of a core, and that they
leave the rest of the device alone. -/
namespace Sys2Proof.Machine

/-- A fold in which only the step at `p` acts, once, makes that one step. -/
theorem foldl_acts_once {α β : Type} (f : α → β → α) {a a' : α} {p : β} {l : List β} (hp : p ∈ l)
    (h : ∀ x ∈ l, x ≠ p → f a x = a) (hpa : f a p = a') (h' : ∀ x ∈ l, f a' x = a') : l.foldl f a = a' := by
  classical
  induction l with
  | nil => cases hp
  | cons x xs ih =>
    rw [List.foldl_cons]
    have h'xs : ∀ y ∈ xs, f a' y = a' := fun y hy => h' y (List.mem_cons_of_mem _ hy)
    by_cases hx : x = p
    · rw [hx, hpa]
      exact foldl_fixed f a' xs h'xs
    · rw [h x (List.mem_cons_self ..) hx]
      exact ih ((List.mem_cons.1 hp).resolve_left (Ne.symm hx)) (fun y hy => h y (List.mem_cons_of_mem _ hy)) h'xs

/-- An event's bit is set in its status word (17 R646). -/
theorem bitOf_evSet {w : Word} {b : Nat} (h : b < 24) : bitOf (evSet w b).toNat b = true := by
  have hlow : w.toNat % 2 ^ 24 ||| 2 ^ b < 2 ^ 24 :=
    Nat.or_lt_two_pow (Nat.mod_lt _ (by decide)) (Nat.pow_lt_pow_right (by decide) h)
  have hseq : (w.toNat / 2 ^ 24 + 1) % 256 < 256 := Nat.mod_lt _ (by decide)
  have hmod : (evSet w b).toNat = (w.toNat / 2 ^ 24 + 1) % 256 * 2 ^ 24 + (w.toNat % 2 ^ 24 ||| 2 ^ b) := by
    rw [evSet, BitVec.toNat_ofNat]
    exact Nat.mod_eq_of_lt (by omega)
  rw [bitOf, hmod, beq_iff_eq, Nat.mul_comm]
  have := Nat.testBit_two_pow_mul_add ((w.toNat / 2 ^ 24 + 1) % 256) hlow b
  rw [if_pos h, Nat.testBit_or, Nat.testBit_two_pow_self, Bool.or_true, Nat.testBit_eq_decide_div_mod_eq, decide_eq_true_eq] at this
  exact this

/-! ## Arrivals, banks and events of a core -/
namespace Core

/-- A result that lands changes a register (05 R168). -/
theorem land_eq (c : Core) (f : InFlight) :
    ∃ g a dv lm, c.land f = { c with g := g, a := a, decVis := dv, lmask := lm } := by
  unfold land
  split <;> exact ⟨_, _, _, _, rfl⟩

theorem lands_eq (l : List InFlight) (c : Core) :
    ∃ g a dv lm, l.foldl land c = { c with g := g, a := a, decVis := dv, lmask := lm } := by
  induction l generalizing c with
  | nil => exact ⟨_, _, _, _, rfl⟩
  | cons f l ih =>
    obtain ⟨g, a, dv, lm, h⟩ := land_eq c f
    obtain ⟨g', a', dv', lm', h'⟩ := ih (c.land f)
    exact ⟨g', a', dv', lm', by rw [List.foldl_cons, h', h]⟩

/-- The results that are not due in a cycle. -/
def undue (c : Core) : List InFlight := c.flight.filter fun f => !decide (f.land ≤ c.cyc)

/-- Arrivals change registers and the results in flight alone. -/
theorem arrive_eq (c : Core) :
    ∃ g a dv lm, c.arrive = { c with g := g, a := a, decVis := dv, lmask := lm, flight := c.undue } := by
  obtain ⟨g, a, dv, lm, h⟩ := lands_eq (c.flight.filter fun f => decide (f.land ≤ c.cyc)) { c with flight := c.undue }
  exact ⟨g, a, dv, lm, h⟩

theorem arrive_of_undue {c : Core} (h : ∀ f ∈ c.flight, c.cyc < f.land) : c.arrive = c := by
  have hdue : (c.flight.filter fun f => decide (f.land ≤ c.cyc)) = [] :=
    List.filter_eq_nil_iff.2 fun f hf => by simpa using h f hf
  have hkept : (c.flight.filter fun f => !decide (f.land ≤ c.cyc)) = c.flight :=
    List.filter_eq_self.2 fun f hf => by simpa using h f hf
  simp only [arrive, hdue, hkept, List.foldl_nil]

theorem land_run (r : RunState) (c : Core) (f : InFlight) : land { c with run := r } f = { c.land f with run := r } := by
  unfold land
  split <;> rfl

theorem arrive_run (r : RunState) (c : Core) : arrive { c with run := r } = { c.arrive with run := r } := by
  have fold (l : List InFlight) (c : Core) : l.foldl land { c with run := r } = { l.foldl land c with run := r } := by
    induction l generalizing c with
    | nil => rfl
    | cons f l ih => rw [List.foldl_cons, land_run, ih, List.foldl_cons]
  exact fold _ { c with flight := c.undue }

/-- A core after a cycle that nothing but its bundle has used (16 R593; 12 R475). -/
def cycled (ticks : Nat) (c : Core) : Core := { c with cyc := c.cyc + 1, raised := 0, taken := [], tickSeen := ticks }

/-- Nothing but the core's own bundle asks for its banks: no request waits, and no run writes lines. -/
structure BanksFree (c : Core) : Prop where
  bankWait : c.bankWait = []
  eddy : ∀ r, c.eddy = some r → r.toLines = false

theorem eddyLines_free {c : Core} (h : c.BanksFree) : eddyLines c = c := by
  unfold eddyLines
  split
  · next r hr => rw [h.eddy r hr]; rfl
  · rfl

theorem bankEnd_free {c : Core} (h : c.BanksFree) : State.bankEnd [] c = { c with taken := [] } := by
  have hover : c.overBanks = [] := by rw [overBanks, h.bankWait]; rfl
  have hhit (l : List Nat) : (l.any fun b => List.contains [] b) = false := by
    rw [List.any_eq_false]; intro b _; simp
  have hturn (used : List Nat) : c.bankTurn [] used = c := by rw [bankTurn, h.bankWait]; rfl
  simp only [State.bankEnd, hover, hturn, hhit, Bool.false_eq_true, if_false, eddyLines_free h]

/-- An event changes the CORE block, where its bit is set, and is kept for the device (04 R157, R158). -/
theorem raise_eq (bit unit bundle : Nat) (addr : Word) (c : Core) : ∃ regs, raise bit unit bundle addr c =
    { c with regs := regs, evs := c.evs ++ [bit] } ∧ tget Blk.coreB.rst regs cFAULTWORD = evSet (c.reg cFAULTWORD) bit := by
  unfold raise
  dsimp only
  split
  · refine ⟨_, rfl, ?_⟩
    simp only [setReg, tget_tput]
    rfl
  · refine ⟨_, rfl, ?_⟩
    simp only [setReg, tget_tput, if_true]

end Core

/-! ## The empty gated bundle, and the cut of an abandoning gate -/

/-- The gated bundle whose slots are empty (05 R161). -/
def emptyGated : Bundle := ⟨true, false, false, 0, 0, 0, 0, 0, 0⟩

theorem bundleOf_emptyGated : bundleOf (BitVec.ofNat 128 (2 ^ 127)) = emptyGated := by decide

theorem controlOk_emptyGated {c : Core} (hd : c.delay = 0) (hr : c.reps = []) : controlOk c emptyGated = true := by
  rw [controlOk, hd, hr]; rfl

namespace Core

/-- A core once an empty gated bundle has issued: the gate is disarmed, CORE.MODE is taken (05 R191; 04 R159). -/
def launched (c : Core) : Core :=
  { c with
    gate := { c.gate with armed := false, past := false, late := false, opened := false }, mode := (c.reg cMODE).toNat % 2
    run := .running, stall := 0, served := 0, parked := false, raised := 0, pc := (c.pc + 1) % 4096 }

theorem launched_xnum (c : Core) : c.launched.xnum = c.xnum := rfl

/-- A core whose gated bundle must wait once its launch has come: the stall counts in `ks` (04 R153). -/
def heldOpen (ks : List Nat) (c : Core) : Core :=
  { ks.foldl (fun d k => d.count k 1) c with stall := c.stall + 1, gate := { c.gate with opened := true }, run := .waiting }

theorem counts_eq (ks : List Nat) (c : Core) : ∃ regs, ks.foldl (fun d k => d.count k 1) c = { c with regs := regs } := by
  induction ks generalizing c with
  | nil => exact ⟨_, rfl⟩
  | cons k ks ih =>
    obtain ⟨regs, h⟩ := ih (c.count k 1)
    exact ⟨regs, by rw [List.foldl_cons, h]; rfl⟩

end Core

theorem issue_emptyGated (e : CoreEnv) {c : Core} (hd : c.delay = 0) (hr : c.reps = []) :
    issue e emptyGated true c = (c.launched, false) := by
  cases c
  subst hd hr
  rfl

theorem marks_eq (ts : List Nat) (st : TileState) (c : Core) :
    ∃ tiles, ts.foldl (fun c t => c.markTile t st) c = { c with tiles := tiles } := by
  induction ts generalizing c with
  | nil => exact ⟨_, rfl⟩
  | cons t ts ih =>
    obtain ⟨tiles, h⟩ := ih (c.markTile t st)
    exact ⟨tiles, by rw [List.foldl_cons, h]; rfl⟩

theorem setTiles_eq (x : Tile) (ts : List Nat) (c : Core) :
    ∃ tiles, ts.foldl (fun c t => c.setTile t x) c = { c with tiles := tiles } := by
  induction ts generalizing c with
  | nil => exact ⟨_, rfl⟩
  | cons t ts ih =>
    obtain ⟨tiles, h⟩ := ih (c.setTile t x)
    exact ⟨tiles, by rw [List.foldl_cons, h]; rfl⟩

/-- What an abandoning gate's cut leaves of a core (04 R155). -/
theorem abandonAll_eq (i : Nat) (c : Core) : ∃ tiles er held regs, abandonAll i c = { c with
    tiles := tiles, er := er, held := held, regs := regs, pass := none, eddy := none, queue := [], delay := 0, target := none,
    reps := [], stall := 0, served := 0, pc := c.gate.tgt, flags := c.flags ||| flAbandon, raised := c.raised ||| flAbandon,
    evs := c.evs ++ [12] } ∧ tget Blk.coreB.rst regs cFAULTWORD = evSet (c.reg cFAULTWORD) 12 := by
  unfold abandonAll
  extract_lets undef c1 c2 c3 c4
  have h1 : ∃ tiles, c1 = { c with tiles := tiles, pass := none } := by
    subst c1
    cases hp : c.pass with
    | none =>
      have hsame : { c with pass := none } = c := by rw [← hp]
      exact ⟨c.tiles, hsame.symm⟩
    | some p => exact ⟨_, rfl⟩
  have h2 : ∃ tiles er held, c2 = { c1 with tiles := tiles, er := er, held := held, eddy := none } := by
    subst c2
    cases he : c1.eddy with
    | none =>
      have hsame : { c1 with eddy := none } = c1 := by rw [← he]
      exact ⟨c1.tiles, c1.er, c1.held, hsame.symm⟩
    | some r =>
      cases hs : r.started with
      | false => exact ⟨c1.tiles, c1.er, c1.held, by simp [hs]⟩
      | true =>
        obtain ⟨tiles, h⟩ := setTiles_eq ⟨[], .free, some i⟩ r.tiles c1
        have h : r.tiles.foldl (fun c t => undef t c) c1 = { c1 with tiles := tiles } := h
        simp only [hs, if_true, h]
        exact ⟨_, _, _, rfl⟩
  have h3 : ∃ tiles, c3 = { c2 with tiles := tiles, queue := [] } := marks_eq c2.queue .free { c2 with queue := [] }
  obtain ⟨_, h1⟩ := h1
  obtain ⟨_, _, _, h2⟩ := h2
  obtain ⟨_, h3⟩ := h3
  obtain ⟨regs, h, hreg⟩ := Core.raise_eq 12 6 c4.gate.tgt 0 (c4.flag flAbandon)
  have h4 : c4 = { c3 with delay := 0, target := none, reps := [], stall := 0, served := 0, pc := c3.gate.tgt } := rfl
  rw [h3, h2, h1] at h4
  rw [h4] at h hreg ⊢
  exact ⟨_, _, _, regs, h, hreg⟩

theorem waitOf_emptyGated (c : Core) : waitOf c emptyGated = [] := rfl
theorem copiedOk_emptyGated (c : Core) : copiedOk c emptyGated = true := rfl
theorem bankReqs_emptyGated (c : Core) : bankReqs c emptyGated = [] := rfl

theorem bankServe_emptyGated (c : Core) : (c.bankServe emptyGated).1 = c.served := by
  rw [Core.bankServe, bankReqs_emptyGated, List.drop_nil]; rfl

/-! ## What a command on one core leaves alone -/

namespace State

/-- What is left alone by a command that acts on core `p`: other cores, memory, time, jobs, fences, functions, basins, fault
handling, and the registers on which it depends whether anything is left undone. -/
structure CoreOnly (p : Nat) (s t : State) : Prop where
  others : ∀ q, q ≠ p → t.core q = s.core q
  mem : t.mem = s.mem
  time : t.time = s.time
  sched : t.sched = s.sched
  fences : t.fences = s.fences
  func : t.func = s.func
  basins : t.basins = s.basins
  flt : t.flt = s.flt
  pwr_bubble : t.pwr.bubble = s.pwr.bubble
  watched : ∀ a ∈ State.watched, t.reg a = s.reg a

namespace CoreOnly

variable {p : Nat} {s t u : State}

theorem refl : CoreOnly p s s := ⟨fun _ _ => rfl, rfl, rfl, rfl, rfl, rfl, rfl, rfl, rfl, fun _ _ => rfl⟩

theorem trans (h : CoreOnly p s t) (h' : CoreOnly p t u) : CoreOnly p s u where
  others q hq := (h'.others q hq).trans (h.others q hq)
  mem := h'.mem.trans h.mem
  time := h'.time.trans h.time
  sched := h'.sched.trans h.sched
  fences := h'.fences.trans h.fences
  func := h'.func.trans h.func
  basins := h'.basins.trans h.basins
  flt := h'.flt.trans h.flt
  pwr_bubble := h'.pwr_bubble.trans h.pwr_bubble
  watched a ha := (h'.watched a ha).trans (h.watched a ha)

theorem setCore (c : Core) : CoreOnly p s (s.setCore p c) :=
  { (refl : CoreOnly p s s) with others := fun _ hq => setCore_core_ne s c hq }

theorem clearOuts : CoreOnly p s s.clearOuts := { (refl : CoreOnly p s s) with }

theorem withPending (q : List Instr) : CoreOnly p s (s.withPending q) := { (refl : CoreOnly p s s) with }

theorem event {a b : Nat} (ha : a ∉ State.watched) : CoreOnly p s (s.event a b) :=
  { (refl : CoreOnly p s s) with watched := fun _ hi => reg_event s a b (ne_watched ha hi) (watched_not_log hi) }

theorem count {a n : Nat} (ha : a ∉ State.watched) : CoreOnly p s (s.count a n) :=
  { (refl : CoreOnly p s s) with watched := fun _ hi => by rw [reg_count, if_neg (ne_watched ha hi)] }

theorem settled (h : CoreOnly p s t) (hs : s.settled = true) (he : (t.core p).evs = []) : t.settled = true := by
  have hrest : ({ t with cores := s.cores } : State).settled = s.settled :=
    settled_congr rfl h.fences h.watched h.func (by rw [h.flt]) h.basins
  rw [hs] at hrest
  simp only [State.settled, State.handled, Bool.and_eq_true] at hrest hs ⊢
  obtain ⟨⟨hquiet, -⟩, -⟩ := hs
  obtain ⟨⟨-, hfenced⟩, hstrict⟩ := hrest
  refine ⟨⟨List.all_eq_true.2 fun q hq => ?_, hfenced⟩, hstrict⟩
  by_cases hqp : q = p
  · rw [hqp, he]; rfl
  · rw [h.others q hqp]; exact List.all_eq_true.1 hquiet q hq

end CoreOnly

/-- The registers that a fault-log entry changes (15 R560). -/
def logRegs : List Nat := [Reg.FAULT_LOG_HEAD, Reg.FAULT_LOG_OVF, Reg.FAULT_STATUS]

/-- A register outside the fault log reads after an event as after its bit has been set. -/
theorem reg_event_raw (s : State) (a b : Nat) {i : Nat} (h : i ∉ logRegs) :
    (s.event a b).reg i = (s.ctl.rawEvent a b).reg i := by
  show (Ctl.event s.ns32 s.ctl a b).reg i = _
  unfold Ctl.event
  dsimp only
  split
  · rfl
  · next r _ =>
    generalize (if bitOf r.fen b = true then 2 else if bitOf r.recov b = true then 1 else 0) = cls
    split
    · split
      · rfl
      · exact Ctl.reg_logEntry _ _ h
    · rfl

theorem reg_event_self (s : State) {a b : Nat} (h : a ∉ logRegs) : (s.event a b).reg a = evSet (s.reg a) b := by
  rw [reg_event_raw s a b h, Ctl.reg_rawEvent, if_pos rfl]
  rfl

/-- `t` is `s` but for what is recorded outside the cores: fault log, catchments, interrupts. -/
def Recorded (s t : State) : Prop := ∃ c : Ctl, t = { s with ctl := c } ∧ ∀ a, a ∉ logRegs → c.reg a = s.ctl.reg a

namespace Recorded

variable {s t u : State}

theorem refl : Recorded s s := ⟨s.ctl, rfl, fun _ _ => rfl⟩

theorem trans (h : Recorded s t) (h' : Recorded t u) : Recorded s u := by
  obtain ⟨c, rfl, hc⟩ := h
  obtain ⟨d, rfl, hd⟩ := h'
  exact ⟨d, rfl, fun a ha => (hd a ha).trans (hc a ha)⟩

theorem cores (h : Recorded s t) : t.cores = s.cores := by
  obtain ⟨c, rfl, -⟩ := h; rfl

theorem core (h : Recorded s t) (q : Nat) : t.core q = s.core q := by rw [State.core, h.cores]; rfl

theorem coreOnly (h : Recorded s t) (p : Nat) : CoreOnly p s t := by
  obtain ⟨c, rfl, hc⟩ := h
  exact { (CoreOnly.refl : CoreOnly p s s) with watched := fun a ha => hc a (watched_not_log ha) }

theorem catchEvent (b k : Nat) : Recorded s (s.catchEvent b k) := by
  unfold State.catchEvent
  generalize s.catchments = l
  induction l generalizing s with
  | nil => exact refl
  | cons x l ih =>
    rw [List.foldl_cons]
    refine Recorded.trans ?_ ih
    split
    · exact ⟨_, rfl, fun _ _ => rfl⟩
    · exact refl

theorem catchPhys (b p : Nat) : Recorded s (s.catchPhys b p) := by
  unfold State.catchPhys
  split
  · exact catchEvent b _
  · exact refl

theorem logPut (key kind cls unit : Nat) (word info addr : Word) (basin : Nat) :
    Recorded s (s.logPut key kind cls unit word info addr basin) :=
  ⟨_, rfl, fun _ ha => Ctl.reg_logEntry _ _ ha⟩

theorem sortLog : Recorded s s.sortLog := by
  obtain ⟨l, h⟩ := sortLog_eq s
  exact ⟨_, h, fun _ _ => rfl⟩

/-- A recoverable event of a core that marks no suspect is recorded, and nothing more (04 R157; 15 R560, R573). -/
theorem coreEvent {p b : Nat} (hcls : coreClass b = 1) (hsuspect : ¬(b = 1 ∨ b = 2 ∨ b = 6)) :
    Recorded s (s.coreEvent p b) := by
  unfold State.coreEvent
  extract_lets c cls s1 key _ s2 s3 s4
  have hcls : cls = 1 := hcls
  have h1 : Recorded s s1 := by
    subst s1
    split
    · exact refl
    · exact catchPhys _ p
  have h2 : Recorded s1 s2 := by
    subst s2
    split
    · exact ⟨_, rfl, fun _ _ => rfl⟩
    · exact refl
  have h3 : Recorded s2 s3 := by
    subst s3
    split
    · exact logPut ..
    · exact refl
  have h4 : s4 = s3 := if_neg hsuspect
  rw [if_neg (by rw [hcls]; decide), h4]
  exact (h1.trans h2).trans h3

end Recorded

/-- The wrapper of a command adds nothing: it clears the outputs, orders the log and puts the queue back. -/
theorem CoreOnly.answered {p : Nat} {s t : State} (h : CoreOnly p s.clearOuts t) (q : List Instr) :
    CoreOnly p s (t.sortLog.withPending q) :=
  ((CoreOnly.clearOuts.trans h).trans (Recorded.sortLog.coreOnly p)).trans (.withPending q)

/-! The wrapper of a command that acts on one core -/

theorem ready_iff {s : State} : s.ready = true ↔ s.mode = .running ∧ s.settled = true ∧ s.logOrdered = true := by
  simp only [State.ready, Bool.and_eq_true, beq_iff_eq, and_assoc]

theorem ready_awake {s : State} (hr : s.ready = true) : s.clearOuts.awake = true := by
  obtain ⟨hmode, -, -⟩ := ready_iff.1 hr
  simp only [awake, clearOuts_mode, hmode, beq_self_eq_true, Bool.true_or]

theorem ready_settled {s : State} (hr : s.ready = true) : s.clearOuts.settled = true :=
  (clearOuts_settled s).trans (ready_iff.1 hr).2.1

/-- No core of a device with nothing left undone holds an event. -/
theorem ready_evs {s : State} (hr : s.ready = true) {q : Nat} (hq : q < 52) : (s.core q).evs = [] := by
  obtain ⟨-, hs, -⟩ := ready_iff.1 hr
  simp only [settled, handled, Bool.and_eq_true] at hs
  obtain ⟨⟨hquiet, -⟩, -⟩ := hs
  exact List.isEmpty_iff.1 (List.all_eq_true.1 hquiet q (List.mem_range.2 hq))

/-- The effect of a command that leaves no event in its core stands as it is. -/
theorem run_coreOnly {s : State} {f : State → State} {p : Nat} (hr : s.ready = true)
    (h : CoreOnly p s.clearOuts (f s.clearOuts)) (he : ((f s.clearOuts).core p).evs = []) :
    ∃ t, s.run f = .next t ∧ t.core p = (f s.clearOuts).core p ∧ CoreOnly p s t ∧ ∀ a, t.reg a = (f s.clearOuts).reg a := by
  have hsettled := h.settled (ready_settled hr) he
  exact ⟨_, run_sorted (ready_awake hr) hsettled, Recorded.sortLog.core p, h.answered _, sortLog_reg _⟩

/-- The events of core `p` are taken from it. -/
def takeEvents (p : Nat) (s : State) : State := s.setCore p { s.core p with evs := [] }

/-- Where one core alone holds an event, the event is taken and the core's list of events emptied (15 R561). -/
theorem settleCores_single {s : State} {p b : Nat} (hp : p < 52) (hb : b < 15) (he : (s.core p).evs = [b])
    (hquiet : ∀ q < 52, q ≠ p → (s.core q).evs = [])
    (hrec : Recorded (s.takeEvents p) ((s.takeEvents p).coreEvent p b)) : s.settleCores = (s.takeEvents p).coreEvent p b := by
  have hlists : ∀ k < 15, ((List.range 15).flatMap fun i => [k].filter (· == i)) = [k] := by decide
  have hlist := hlists b hb
  refine foldl_acts_once _ (List.mem_range.2 hp) (fun q hq hqp => ?_) ?_ (fun q hq => ?_)
  · simp only [hquiet q (List.mem_range.1 hq) hqp, List.isEmpty_nil, if_true]
  · simp only [he, List.isEmpty_cons, Bool.false_eq_true, if_false, hlist, List.foldl_cons, List.foldl_nil]
    rfl
  · have : (((s.takeEvents p).coreEvent p b).core q).evs = [] := by
      rw [hrec.core, takeEvents]
      by_cases hqp : q = p
      · rw [hqp, setCore_core_self]
      · rw [setCore_core_ne _ _ hqp]; exact hquiet q (List.mem_range.1 hq) hqp
    simp only [this, List.isEmpty_nil, if_true]

/-- The effect of a command that leaves one recoverable event in its core stands, but for the core's list of events. -/
theorem run_coreEvent {s : State} {f : State → State} {p b : Nat} (hr : s.ready = true) (hp : p < 52)
    (h : CoreOnly p s.clearOuts (f s.clearOuts)) (hb : b < 15) (he : ((f s.clearOuts).core p).evs = [b])
    (hcls : coreClass b = 1) (hsuspect : ¬(b = 1 ∨ b = 2 ∨ b = 6)) :
    ∃ t, s.run f = .next t ∧ t.core p = { (f s.clearOuts).core p with evs := [] } ∧ CoreOnly p s t := by
  have hquiet : ∀ q < 52, q ≠ p → ((f s.clearOuts).core q).evs = [] := fun q hq hqp => by
    rw [h.others q hqp]
    exact ready_evs hr hq
  generalize hv : f s.clearOuts = v at h he hquiet ⊢
  have hrec : Recorded (v.takeEvents p) ((v.takeEvents p).coreEvent p b) := .coreEvent hcls hsuspect
  have hcores := settleCores_single hp hb he hquiet hrec
  generalize (v.takeEvents p).coreEvent p b = t at hrec hcores
  have hcore : t.core p = { v.core p with evs := [] } := (hrec.core p).trans (setCore_core_self v p _)
  have hst : CoreOnly p s.clearOuts t := (h.trans (.setCore _)).trans (hrec.coreOnly p)
  have hsettled : t.settled = true := hst.settled (ready_settled hr) (by rw [hcore])
  have hsettle : v.settle = t.sortLog := by
    have hq : t.settleCores = t := by
      simp only [State.settled, State.handled, Bool.and_eq_true] at hsettled
      obtain ⟨⟨hquiet, -⟩, -⟩ := hsettled
      exact settleCores_quiet hquiet
    rw [← settle_sorted hsettled, settle, settle, hcores, hq]
  refine ⟨t.sortLog.withPending s.pending, ?_, (Recorded.sortLog.core p).trans hcore, hst.answered _⟩
  rw [run, if_pos (ready_awake hr), hv, hsettle]

end State

/-! ## A core cycle at the gate -/

namespace State

variable {s : State} {p : Nat}

/-! The issue of a gated bundle -/

/-- Without jobs no leaf changes its state. -/
theorem leafTo_noJobs (hj : s.sched.jobs = []) (frm next : Nat) : s.leafTo p frm next = s := by
  simp only [leafTo, hj, List.findIdx_nil, List.getElem?_nil]

/-- An empty gated bundle issues at once (05 R163, R191; 04 R153). -/
theorem tryIssue_emptyGated (hj : s.sched.jobs = []) (hb : (s.core p).bundle (s.core p).pc = BitVec.ofNat 128 (2 ^ 127))
    (hd : (s.core p).delay = 0) (hr : (s.core p).reps = []) :
    ∃ banks, s.tryIssue p true [] = s.setCore p { s.core p with taken := banks }.launched := by
  have hissue : issue (s.coreEnv p) emptyGated true { s.core p with taken := ((s.core p).bankServe emptyGated).2 } =
      ({ s.core p with taken := ((s.core p).bankServe emptyGated).2 }.launched, false) := issue_emptyGated _ hd hr
  refine ⟨((s.core p).bankServe emptyGated).2, ?_⟩
  have hleaf (d : Core) : (s.setCore p d).leafIssues p = s.setCore p d := leafTo_noJobs (s := s.setCore p d) hj 0 1
  have hbundle : bundleOf ((s.core p).bundle (s.core p).pc) = emptyGated := by rw [hb, bundleOf_emptyGated]
  unfold tryIssue
  simp only [hbundle, controlOk_emptyGated hd hr, waitOf_emptyGated, copiedOk_emptyGated, bankServe_emptyGated, bankReqs_emptyGated,
    show emptyGated.decodeOk = true from rfl, List.length_nil, Nat.not_lt_zero, Bool.not_true, Bool.or_self, Bool.false_eq_true,
    if_false, List.filter_nil, Core.upsets, List.foldl_nil, hissue, hleaf, ite_self, Core.launched_xnum, if_true]

/-- A gated bundle that must wait is held with its gate opened (04 R153; 05 R191). -/
theorem tryIssue_held {k : Nat} {ks : List Nat} (hdec : (bundleOf ((s.core p).bundle (s.core p).pc)).decodeOk = true)
    (hctl : controlOk (s.core p) (bundleOf ((s.core p).bundle (s.core p).pc)) = true)
    (hwait : waitOf (s.core p) (bundleOf ((s.core p).bundle (s.core p).pc)) = k :: ks) :
    s.tryIssue p true [] = s.setCore p ((s.core p).heldOpen (k :: ks)) := by
  unfold tryIssue
  simp only [hdec, hctl, hwait, Bool.not_true, Bool.or_self, Bool.false_eq_true, if_false, if_true]
  rfl

/-! The end of a cycle and the cycle of a gated bundle -/

/-- The registers that a core cycle can change: the ramp limiter's and those of the fault log (16 R601). -/
def cycleRegs : List Nat := [Reg.PWR_RAMP_OVER_CNT, Reg.PWR_STATUS] ++ logRegs

/-- The end of a cycle of a core whose banks are free, while no bubble holds the Lane Row. -/
theorem cycleEnd_spec (hbub : s.pwr.bubble = 0) (hfree : (s.core p).BanksFree) :
    (s.cycleEnd p []).core p = (s.core p).cycled s.time.ticks ∧ CoreOnly p s (s.cycleEnd p []) ∧
    ∀ a, a ∉ cycleRegs → (s.cycleEnd p []).reg a = s.reg a := by
  unfold cycleEnd
  extract_lets c bubble busy f w _ g last d t z _ v
  have hbubble : bubble = false := by subst bubble; rw [hbub]; rfl
  have hd : d = (s.core p).cycled s.time.ticks := by
    subst d c
    rw [hbubble, Core.bankEnd_free hfree]
    rfl
  have hv : v.core p = (s.core p).cycled s.time.ticks := by rw [← hd]; exact setCore_core_self s p d
  have hsv : CoreOnly p s v := { (CoreOnly.setCore d : CoreOnly p s (s.setCore p d)) with }
  split
  · refine ⟨hv, (hsv.trans (.count ?_)).trans (.event ?_), fun a ha => ?_⟩
    · decide
    · decide
    · simp only [cycleRegs, List.mem_append, List.mem_cons, List.not_mem_nil, or_false, not_or] at ha
      obtain ⟨⟨hcnt, hstatus⟩, hlog⟩ := ha
      rw [reg_event _ _ _ hstatus hlog, reg_count, if_neg hcnt]
      rfl
  · exact ⟨hv, hsv, fun _ _ => rfl⟩

/-- The cycle of a gated bundle, of which `tryIssue` says what it leaves of the core. -/
theorem gateCycle_spec {d : Core} (hbub : s.pwr.bubble = 0) (hfree : d.BanksFree)
    (htry : (s.onCore p Core.arrive).tryIssue p true [] = (s.onCore p Core.arrive).setCore p d) :
    (s.gateCycle p).core p = d.cycled s.time.ticks ∧ CoreOnly p s (s.gateCycle p) ∧
    ∀ a, a ∉ cycleRegs → (s.gateCycle p).reg a = s.reg a := by
  have hcore : ((s.onCore p Core.arrive).setCore p d).core p = d := setCore_core_self _ p d
  obtain ⟨hd, honly, hreg⟩ := cycleEnd_spec (s := (s.onCore p Core.arrive).setCore p d) (p := p) hbub (by rwa [hcore])
  unfold gateCycle
  rw [htry]
  rw [hcore] at hd
  exact ⟨hd, (CoreOnly.trans (.setCore _) (.setCore d)).trans honly, hreg⟩

/-- The cycle in which an empty gated bundle issues. -/
theorem gateCycle_emptyGated (hj : s.sched.jobs = []) (hbub : s.pwr.bubble = 0) (hfree : (s.core p).BanksFree)
    (hb : (s.core p).bundle (s.core p).pc = BitVec.ofNat 128 (2 ^ 127)) (hd : (s.core p).delay = 0) (hr : (s.core p).reps = []) :
    (s.gateCycle p).core p = (s.core p).arrive.launched.cycled s.time.ticks ∧ CoreOnly p s (s.gateCycle p) ∧
    ∀ a, a ∉ cycleRegs → (s.gateCycle p).reg a = s.reg a := by
  have hcore : (s.onCore p Core.arrive).core p = (s.core p).arrive := setCore_core_self s p _
  obtain ⟨g, a, dv, lm, ha⟩ := (s.core p).arrive_eq
  obtain ⟨banks, htry⟩ := tryIssue_emptyGated (s := s.onCore p Core.arrive) (p := p) hj
    (by rw [hcore, ha]; exact hb) (by rw [hcore, ha]; exact hd) (by rw [hcore, ha]; exact hr)
  have hfree' : ({ (s.onCore p Core.arrive).core p with taken := banks }.launched).BanksFree := by
    rw [hcore, ha]
    exact ⟨hfree.bankWait, hfree.eddy⟩
  obtain ⟨hissued, hrest⟩ := gateCycle_spec hbub hfree' htry
  exact ⟨by rw [hissued, hcore]; rfl, hrest⟩

/-- The cycle in which a gated bundle waits. -/
theorem gateCycle_held {k : Nat} {ks : List Nat} {b : Bundle} (hbub : s.pwr.bubble = 0) (hfree : (s.core p).BanksFree)
    (hb : bundleOf ((s.core p).bundle (s.core p).pc) = b) (hdec : b.decodeOk = true)
    (hctl : controlOk (s.core p).arrive b = true) (hwait : waitOf (s.core p).arrive b = k :: ks) :
    (s.gateCycle p).core p = ((s.core p).arrive.heldOpen (k :: ks)).cycled s.time.ticks ∧ CoreOnly p s (s.gateCycle p) := by
  have hcore : (s.onCore p Core.arrive).core p = (s.core p).arrive := setCore_core_self s p _
  obtain ⟨g, a, dv, lm, ha⟩ := (s.core p).arrive_eq
  have hbundle : bundleOf (((s.onCore p Core.arrive).core p).bundle ((s.onCore p Core.arrive).core p).pc) = b := by
    rw [hcore, ha]; exact hb
  have htry := tryIssue_held (s := s.onCore p Core.arrive) (p := p) (by rw [hbundle]; exact hdec)
    (by rw [hbundle, hcore]; exact hctl) (by rw [hbundle, hcore]; exact hwait)
  rw [hcore] at htry
  have hfree' : ((s.core p).arrive.heldOpen (k :: ks)).BanksFree := by
    obtain ⟨regs, hregs⟩ := Core.counts_eq (k :: ks) (s.core p).arrive
    rw [Core.heldOpen, hregs, ha]
    exact ⟨hfree.bankWait, hfree.eddy⟩
  obtain ⟨hheld, honly, -⟩ := gateCycle_spec hbub hfree' htry
  exact ⟨hheld, honly⟩

end State

/-! ## The evaluations of the launch gate (12 R474 to R477) -/

namespace State

variable {s : State} {p : Nat}


/-- Nothing but its gate holds off a core that is asked neither to halt nor to yield at this bundle (05 R178, R179). -/
theorem heldOff_none {c : Core} (hh : c.haltReq = false) (hp : (c.preempt && (bundleOf (c.bundle c.pc)).cp) = false) :
    heldOff c = none := by
  simp only [heldOff, hh, hp, Bool.false_eq_true, if_false, ite_self]

theorem heldOff_halt {c : Core} (hh : c.haltReq = true) (hb : c.boundary = true) : heldOff c = some .ctrl := by
  simp only [heldOff, hh, hb, Bool.not_true, Bool.false_eq_true, if_false, if_true]

theorem waitsAtGate_iff {c : Core} : waitsAtGate c = true ↔ c.run = .waiting ∧ c.gate.armed = true ∧ c.pc = c.gate.tgt := by
  simp only [waitsAtGate, Bool.and_eq_true, beq_iff_eq, and_assoc]

/-- The core whose gate's launch comes, once it waits at it. -/
def awaits (p : Nat) (s : State) : State :=
  if s.reachesNow (s.core p) then s.onCore p fun c => { c with run := .waiting } else s

/-- The launch time of the gate has come, and the core waits at its gate or reaches it in this cycle (12 R474, R475). -/
structure AtGate (s : State) (p : Nat) : Prop where
  due : s.launchNow (s.core p).gate = true
  inService : s.coreFenced p = false
  here : waitsAtGate (s.core p) = true ∨ s.reachesNow (s.core p) = true

theorem awaits_core (h : waitsAtGate (s.core p) = true ∨ s.reachesNow (s.core p) = true) :
    (s.awaits p).core p = { s.core p with run := .waiting } := by
  unfold awaits
  split
  · exact setCore_core_self _ p _
  · next hn =>
    have hw := h.resolve_right hn
    obtain ⟨hrun, -, -⟩ := waitsAtGate_iff.1 hw
    rw [← hrun]

theorem awaits_only : CoreOnly p s (s.awaits p) := by
  unfold awaits
  split
  · exact .setCore _
  · exact .refl

theorem awaits_launchNow (g : Gate) : (s.awaits p).launchNow g = s.launchNow g := by
  unfold awaits
  split <;> rfl

theorem awaits_coreFenced : (s.awaits p).coreFenced p = s.coreFenced p := by
  unfold awaits
  split <;> rfl

theorem AtGate.pc_eq (h : AtGate s p) : (s.core p).pc = (s.core p).gate.tgt := by
  rcases h.here with hw | hr
  · obtain ⟨-, -, hpc⟩ := waitsAtGate_iff.1 hw
    exact hpc
  · simp only [reachesNow, Bool.and_eq_true, beq_iff_eq] at hr
    obtain ⟨⟨-, hpc⟩, -⟩ := hr
    exact hpc.symm

theorem launchNow_armed {g : Gate} (h : s.launchNow g = true) : g.armed = true := by
  simp only [launchNow, Bool.and_eq_true] at h
  obtain ⟨⟨⟨⟨harm, -⟩, -⟩, -⟩, -⟩ := h
  exact harm

theorem AtGate.waits (h : AtGate s p) : waitsAtGate { s.core p with run := .waiting } = true :=
  waitsAtGate_iff.2 ⟨rfl, launchNow_armed h.due, h.pc_eq⟩

/-- At the launch a core that waits at its gate, or reaches it, is held off or issues its gated bundle (12 R475; 05 R178). -/
theorem launchCore_atGate (h : AtGate s p) :
    (∀ why, heldOff (s.core p) = some why → s.launchCore p = ((s.awaits p).holdOff p why, false)) ∧
    (heldOff (s.core p) = none → s.launchCore p = ((s.awaits p).gateCycle p, true)) := by
  unfold launchCore
  extract_lets t c
  have hc : c = { s.core p with run := .waiting } := awaits_core h.here
  have hdue : t.launchNow c.gate = true := by rw [hc]; exact (awaits_launchNow _).trans h.due
  have hin : t.coreFenced p = false := awaits_coreFenced.trans h.inService
  have hwaits : waitsAtGate c = true := by rw [hc]; exact h.waits
  have hheld : heldOff c = heldOff (s.core p) := by rw [hc]; rfl
  refine ⟨fun why hw => ?_, fun hw => ?_⟩
  · simp only [hdue, hin, hwaits, hheld, hw, Bool.not_true, Bool.false_eq_true, if_false, if_true]
    rfl
  · simp only [hdue, hin, hwaits, hheld, hw, Bool.not_true, Bool.false_eq_true, if_false, if_true]
    rfl

theorem reachesNow_due {c : Core} (h : s.launchNow c.gate = false) : s.reachesNow c = false := by
  simp only [reachesNow, h, Bool.and_false]

theorem reachesNow_running {c : Core} (h : c.run ≠ .running) : s.reachesNow c = false := by
  have : (c.run == .running) = false := beq_eq_false_iff_ne.2 h
  simp only [reachesNow, this, Bool.false_and]

theorem awaits_stay (h : s.reachesNow (s.core p) = false) : s.awaits p = s := by
  simp only [awaits, h, Bool.false_eq_true, if_false]

theorem launchCore_notDue (h : s.launchNow (s.core p).gate = false) : s.launchCore p = (s, false) := by
  simp only [launchCore, reachesNow_due h, h, Bool.false_eq_true, if_false, Bool.not_false, if_true]

/-- A gate's launch on a core out of service that does not run: the gate is lost (15 R563; 01 R28). -/
theorem launchCore_fenced (hj : s.sched.jobs = []) (hdue : s.launchNow (s.core p).gate = true) (hf : s.coreFenced p = true)
    (hrun : (s.core p).run ≠ .running) :
    s.launchCore p = ((s.setCore p (disarm (s.core p))).catchPhys Ev.CATCHFW_LAUNCH_MISSED p, false) := by
  have hleaf : ((s.setCore p (disarm (s.core p))).catchPhys Ev.CATCHFW_LAUNCH_MISSED p).leafMisses p =
      (s.setCore p (disarm (s.core p))).catchPhys Ev.CATCHFW_LAUNCH_MISSED p := by
    have hrec : Recorded (s.setCore p (disarm (s.core p)))
        ((s.setCore p (disarm (s.core p))).catchPhys Ev.CATCHFW_LAUNCH_MISSED p) := .catchPhys _ p
    exact leafTo_noJobs (by rw [(hrec.coreOnly p).sched]; exact hj) 0 3
  simp only [launchCore, reachesNow_running hrun, hdue, hf, hleaf, Bool.false_eq_true, if_false, Bool.not_true, if_true]

/-- A late gate acts on a core that waits at it and that nothing holds off, recorded as late (12 R476). -/
theorem lateCore_waits (hw : waitsAtGate (s.core p) = true) (hl : (s.core p).gate.late = true)
    (ho : (s.core p).gate.opened = false) (hh : heldOff (s.core p) = none) :
    s.lateCore p = ((s.count Reg.TIME_GATE_LATE_CNT 1).event Reg.TIME_STATUS Ev.TIME_GATE_LATE).gateCycle p := by
  obtain ⟨-, harm, -⟩ := waitsAtGate_iff.1 hw
  simp only [lateCore, harm, hl, ho, hw, hh, Bool.not_false, Bool.and_true, Bool.not_true, Bool.false_eq_true, if_false, if_true]

/-- An abandoning gate's launch on a running core that is elsewhere cuts what it did (05 R180). -/
theorem abandonCore_cuts (hdue : s.launchNow (s.core p).gate = true) (hf : s.coreFenced p = false) (ha : (s.core p).gate.abn = true)
    (hrun : (s.core p).run = .running) (hre : s.reachesNow (s.core p) = false) : s.abandonCore p = (s.cutCycle p, true) := by
  simp only [abandonCore, hdue, hf, ha, hrun, hre, beq_self_eq_true, Bool.not_false, Bool.and_true, Bool.true_or, if_true]

theorem abandonCore_notDue (h : s.launchNow (s.core p).gate = false) : s.abandonCore p = (s, false) := by
  simp only [abandonCore, h, Bool.false_and, Bool.false_eq_true, if_false]

/-! The effects of the commands where no scheduled work comes with the gate -/

theorem gateLaunches_plain : s.gateLaunches p .plain = (s.launchCore p).1 := by
  simp only [gateLaunches, workAt, refusedWindow, Bool.and_false, Bool.false_and, Bool.false_eq_true, if_false, launchWork,
    missedWork, ite_self]

theorem gateLates_plain : s.gateLates p .plain =
    if (s.core p).gate.armed && (s.core p).gate.late && !(s.core p).gate.opened then s.lateCore p else s := by
  simp only [gateLates, launchWork, missedWork, ite_self]

theorem gateAbandons_none : s.gateAbandons p .none = (s.abandonCore p).1 := by
  simp only [gateAbandons, ite_self]

end State

/-! ## The cores that the cycles at the gate leave -/

namespace Core

theorem arrive_evs (c : Core) : c.arrive.evs = c.evs := by
  obtain ⟨g, a, dv, lm, h⟩ := c.arrive_eq
  rw [h]

theorem counts_run (r : RunState) (ks : List Nat) (c : Core) :
    ks.foldl (fun d k => count k 1 d) { c with run := r } = { ks.foldl (fun d k => count k 1 d) c with run := r } := by
  induction ks generalizing c with
  | nil => rfl
  | cons k ks ih => exact ih (count k 1 c)

/-- What the cycle of an empty gated bundle leaves of a core. -/
theorem arrive_launched_cycled (r : RunState) (ticks : Nat) (c : Core) :
    (arrive { c with run := r }).launched.cycled ticks = { c.arrive with
      gate := { c.gate with armed := false, past := false, late := false, opened := false }, mode := (c.reg cMODE).toNat % 2
      run := .running, stall := 0, served := 0, parked := false, pc := (c.pc + 1) % 4096
      cyc := c.cyc + 1, raised := 0, taken := [], tickSeen := ticks } := by
  obtain ⟨g, a, dv, lm, h⟩ := c.arrive_eq
  rw [arrive_run, h]
  rfl

/-- What the cycle of a gated bundle that must wait leaves of a core. -/
theorem arrive_heldOpen_cycled (r : RunState) (ticks : Nat) (ks : List Nat) (c : Core) :
    ((arrive { c with run := r }).heldOpen ks).cycled ticks = { ks.foldl (fun d k => d.count k 1) c.arrive with
      stall := c.stall + 1, gate := { c.gate with opened := true }, run := .waiting
      cyc := c.cyc + 1, raised := 0, taken := [], tickSeen := ticks } := by
  obtain ⟨g, a, dv, lm, h⟩ := c.arrive_eq
  obtain ⟨regs, hregs⟩ := counts_eq ks c.arrive
  rw [arrive_run, heldOpen, counts_run, hregs, h]
  rfl

theorem heldOpen_evs (ks : List Nat) (c : Core) : (c.heldOpen ks).evs = c.evs := by
  obtain ⟨regs, h⟩ := counts_eq ks c
  rw [heldOpen, h]

/-- A core that an abandoning gate has cut, after the cycle of its empty bundle, its event taken. -/
def cutLaunched (i ticks : Nat) (c : Core) : Core := { (abandonAll i c.arrive).launched.cycled ticks with evs := [] }

/-- `d` runs on behind the target of the abandoning gate that has cut `c`: nothing is left of what ran, registers and stores
stay, and the cut is flagged and recorded (04 R155; 05 R180). -/
structure CutFrom (c d : Core) : Prop where
  pass : d.pass = none
  eddy : d.eddy = none
  queue : d.queue = []
  delay : d.delay = 0
  reps : d.reps = []
  pc : d.pc = (c.gate.tgt + 1) % 4096
  run : d.run = .running
  disarmed : d.gate.armed = false
  abandon : bitOf d.flags 4 = true
  g : d.g = c.arrive.g
  ls : d.ls = c.ls
  lm : d.lm = c.lm
  faultword : bitOf (d.reg cFAULTWORD).toNat 12 = true

theorem bitOf_or_flAbandon (f : Nat) : bitOf (f ||| flAbandon) 4 = true := by
  have h : Nat.testBit (f ||| 2 ^ 4) 4 = true := by rw [Nat.testBit_or, Nat.testBit_two_pow_self, Bool.or_true]
  rw [Nat.testBit_eq_decide_div_mod_eq, decide_eq_true_eq] at h
  exact beq_iff_eq.2 h

theorem cutLaunched_cutFrom (i ticks : Nat) (c : Core) : c.CutFrom (c.cutLaunched i ticks) := by
  obtain ⟨tiles, er, held, regs, hcut, hfault⟩ := abandonAll_eq i c.arrive
  obtain ⟨g, a, dv, lm, harr⟩ := c.arrive_eq
  have hword : bitOf (tget Blk.coreB.rst regs cFAULTWORD).toNat 12 = true := by rw [hfault]; exact bitOf_evSet (by decide)
  rw [cutLaunched, hcut]
  constructor <;> rw [harr]
  case abandon => exact bitOf_or_flAbandon _
  case faultword => exact hword
  all_goals rfl

theorem BanksFree.withRun {c : Core} (h : c.BanksFree) (r : RunState) : ({ c with run := r } : Core).BanksFree :=
  ⟨h.bankWait, h.eddy⟩

end Core

/-! ## The commands -/

namespace State

variable {s : State} {p : Fin 52}

/-- GATE_LAUNCH on a core that acts at its gate answers the state after the gated bundle's cycle. -/
theorem gateLaunch_cycle (hr : s.ready = true) (hg : AtGate s p.val) (hh : heldOff (s.core p.val) = none) {d : Core}
    (hcore : ((s.clearOuts.awaits p.val).gateCycle p.val).core p.val = d) (hevs : d.evs = [])
    (honly : CoreOnly p.val (s.clearOuts.awaits p.val) ((s.clearOuts.awaits p.val).gateCycle p.val)) :
    ∃ t, exec (.gateLaunch p .plain) s = .next t ∧ t.core p.val = d ∧ CoreOnly p.val s t := by
  have hgu : AtGate s.clearOuts p.val := ⟨hg.due, hg.inService, hg.here⟩
  have heffect : s.clearOuts.gateLaunches p.val .plain = (s.clearOuts.awaits p.val).gateCycle p.val := by
    rw [gateLaunches_plain, (launchCore_atGate hgu).2 hh]
  obtain ⟨t, ht, htcore, htonly, -⟩ := run_coreOnly (f := gateLaunches p.val .plain) (p := p.val) hr
    (by rw [heffect]; exact awaits_only.trans honly) (by rw [heffect, hcore, hevs])
  exact ⟨t, ht, by rw [htcore, heffect, hcore], htonly⟩

section
variable (hr : s.ready = true) (hj : s.sched.jobs = []) (hbub : s.pwr.bubble = 0) (hfree : (s.core p.val).BanksFree)
include hr hbub hfree

include hj in
/-- An empty gated bundle issues at its launch (01 R30; 12 R475; 05 R191). -/
theorem gateLaunch_issues (hg : AtGate s p.val) (hh : (s.core p.val).haltReq = false) (hd : (s.core p.val).delay = 0)
    (hreps : (s.core p.val).reps = []) (hb : (s.core p.val).bundle (s.core p.val).pc = BitVec.ofNat 128 (2 ^ 127)) :
    ∃ t, exec (.gateLaunch p .plain) s = .next t ∧
      t.core p.val = (Core.arrive { s.core p.val with run := .waiting }).launched.cycled s.time.ticks ∧ CoreOnly p.val s t := by
  have hnone : heldOff (s.core p.val) = none := heldOff_none hh (by rw [hb, bundleOf_emptyGated]; exact Bool.and_false _)
  have honly : CoreOnly p.val s.clearOuts (s.clearOuts.awaits p.val) := awaits_only
  have hcore : (s.clearOuts.awaits p.val).core p.val = { s.core p.val with run := .waiting } := awaits_core (s := s.clearOuts) hg.here
  obtain ⟨hissued, hcycle, -⟩ := gateCycle_emptyGated (s := s.clearOuts.awaits p.val) (p := p.val) (by rw [honly.sched]; exact hj)
    (by rw [honly.pwr_bubble]; exact hbub) (by rw [hcore]; exact hfree.withRun _) (by rw [hcore]; exact hb) (by rw [hcore]; exact hd)
    (by rw [hcore]; exact hreps)
  rw [hcore, honly.time] at hissued
  exact gateLaunch_cycle hr hg hnone hissued ((Core.arrive_evs _).trans (ready_evs hr p.isLt)) hcycle

/-- A gated bundle that must wait at its launch is held with its gate opened (04 R153; 05 R191). -/
theorem gateLaunch_holds {k : Nat} {ks : List Nat} {b : Bundle} (hg : AtGate s p.val) (hh : (s.core p.val).haltReq = false)
    (hpre : (s.core p.val).preempt = false) (hb : bundleOf ((s.core p.val).bundle (s.core p.val).pc) = b) (hdec : b.decodeOk = true)
    (hctl : controlOk (s.core p.val).arrive b = true) (hwait : waitOf (s.core p.val).arrive b = k :: ks) :
    ∃ t, exec (.gateLaunch p .plain) s = .next t ∧
      t.core p.val = ((Core.arrive { s.core p.val with run := .waiting }).heldOpen (k :: ks)).cycled s.time.ticks ∧
      CoreOnly p.val s t := by
  have hnone : heldOff (s.core p.val) = none := heldOff_none hh (by rw [hpre]; rfl)
  have honly : CoreOnly p.val s.clearOuts (s.clearOuts.awaits p.val) := awaits_only
  have hcore : (s.clearOuts.awaits p.val).core p.val = { s.core p.val with run := .waiting } := awaits_core (s := s.clearOuts) hg.here
  obtain ⟨hheld, hcycle⟩ := gateCycle_held (s := s.clearOuts.awaits p.val) (p := p.val) (k := k) (ks := ks) (b := b)
    (by rw [honly.pwr_bubble]; exact hbub) (by rw [hcore]; exact hfree.withRun _) (by rw [hcore]; exact hb) hdec
    (by rw [hcore, Core.arrive_run]; exact hctl) (by rw [hcore, Core.arrive_run]; exact hwait)
  rw [hcore, honly.time] at hheld
  exact gateLaunch_cycle hr hg hnone hheld (((Core.heldOpen_evs _ _).trans (Core.arrive_evs _)).trans (ready_evs hr p.isLt)) hcycle

include hj in
/-- A late gate acts on a core that waits at it, and is recorded (12 R476). -/
theorem gateLate_issues (hw : waitsAtGate (s.core p.val) = true) (hl : (s.core p.val).gate.late = true)
    (ho : (s.core p.val).gate.opened = false) (hh : (s.core p.val).haltReq = false) (hd : (s.core p.val).delay = 0)
    (hreps : (s.core p.val).reps = []) (hb : (s.core p.val).bundle (s.core p.val).pc = BitVec.ofNat 128 (2 ^ 127)) :
    ∃ t, exec (.gateLate p .plain) s = .next t ∧ t.core p.val = (s.core p.val).arrive.launched.cycled s.time.ticks ∧
      CoreOnly p.val s t ∧ t.reg Reg.TIME_GATE_LATE_CNT = s.reg Reg.TIME_GATE_LATE_CNT + 1 ∧
      bitOf (t.reg Reg.TIME_STATUS).toNat Ev.TIME_GATE_LATE = true := by
  have hnone : heldOff (s.core p.val) = none := heldOff_none hh (by rw [hb, bundleOf_emptyGated]; exact Bool.and_false _)
  obtain ⟨-, harm, -⟩ := waitsAtGate_iff.1 hw
  generalize hv : (s.clearOuts.count Reg.TIME_GATE_LATE_CNT 1).event Reg.TIME_STATUS Ev.TIME_GATE_LATE = v
  have hvcore : v.core p.val = s.core p.val := by rw [← hv]; rfl
  have hvonly : CoreOnly p.val s.clearOuts v := by
    rw [← hv]
    exact CoreOnly.trans (.count (by decide)) (.event (by decide))
  have heffect : s.clearOuts.gateLates p.val .plain = v.gateCycle p.val := by
    rw [gateLates_plain, clearOuts_core_eq, harm, hl, ho, ← hv]
    exact lateCore_waits (s := s.clearOuts) hw hl ho hnone
  obtain ⟨hissued, hcycle, hreg⟩ := gateCycle_emptyGated (s := v) (p := p.val) (by rw [hvonly.sched]; exact hj)
    (by rw [hvonly.pwr_bubble]; exact hbub) (by rw [hvcore]; exact hfree) (by rw [hvcore]; exact hb) (by rw [hvcore]; exact hd)
    (by rw [hvcore]; exact hreps)
  rw [hvcore, hvonly.time] at hissued
  obtain ⟨t, ht, htcore, htonly, htreg⟩ := run_coreOnly (f := gateLates p.val .plain) (p := p.val) hr
    (by rw [heffect]; exact hvonly.trans hcycle) (by rw [heffect, hissued]; exact (Core.arrive_evs _).trans (ready_evs hr p.isLt))
  refine ⟨t, ht, by rw [htcore, heffect, hissued]; rfl, htonly, ?_, ?_⟩
  · rw [htreg, heffect, hreg _ (by decide), ← hv, reg_event _ _ _ (by decide) (by decide), reg_count, if_pos rfl]
    rfl
  · rw [htreg, heffect, hreg _ (by decide), ← hv, reg_event_self _ (by decide)]
    exact bitOf_evSet (by decide)

/-- An abandoning gate cuts what a running core did elsewhere, and its empty bundle issues (04 R155; 05 R180). -/
theorem abandoningGate_cuts (hj : s.sched.jobs = []) (hdue : s.launchNow (s.core p.val).gate = true)
    (hf : s.coreFenced p.val = false) (ha : (s.core p.val).gate.abn = true) (hrun : (s.core p.val).run = .running)
    (hre : s.reachesNow (s.core p.val) = false) (hb : (s.core p.val).bundle (s.core p.val).gate.tgt = BitVec.ofNat 128 (2 ^ 127)) :
    ∃ t, exec (.abandoningGate p .none) s = .next t ∧ CoreOnly p.val s t ∧
      t.core p.val = (s.core p.val).cutLaunched s.freeCtr s.time.ticks := by
  have heffect : s.clearOuts.gateAbandons p.val .none = s.clearOuts.cutCycle p.val := by
    rw [gateAbandons_none, abandonCore_cuts (s := s.clearOuts) hdue hf ha hrun hre]
  obtain ⟨g, a, dv, lm, harr⟩ := (s.core p.val).arrive_eq
  generalize hcut : abandonAll s.freeCtr (s.core p.val).arrive = d
  obtain ⟨tiles, er, held, regs, hd, -⟩ := abandonAll_eq s.freeCtr (s.core p.val).arrive
  rw [hcut, harr] at hd
  generalize hv : ({ s.clearOuts with freeCtr := s.freeCtr + 1 + 2 } : State).onCore p.val
    (fun c => abandonAll s.freeCtr c.arrive) = v
  have hvcore : v.core p.val = d := by rw [← hv, ← hcut]; exact setCore_core_self _ _ _
  have hvonly : CoreOnly p.val s.clearOuts v := by
    rw [← hv]
    exact CoreOnly.trans (t := { s.clearOuts with freeCtr := s.freeCtr + 1 + 2 }) { (CoreOnly.refl : CoreOnly p.val s s) with }
      (.setCore _)
  have hflight : d.arrive = d := Core.arrive_of_undue fun f hf => by
    rw [hd] at hf ⊢
    simpa [Core.undue] using (List.mem_filter.1 hf).2
  obtain ⟨hissued, hcycle, -⟩ := gateCycle_emptyGated (s := v) (p := p.val) (by rw [hvonly.sched]; exact hj)
    (by rw [hvonly.pwr_bubble]; exact hbub) (by rw [hvcore, hd]; exact ⟨hfree.bankWait, fun _ h => nomatch h⟩)
    (by rw [hvcore, hd]; exact hb) (by rw [hvcore, hd]) (by rw [hvcore, hd])
  rw [hvcore, hvonly.time, hflight] at hissued
  have hend : s.clearOuts.cutCycle p.val = v.gateCycle p.val := by rw [← hv]; rfl
  obtain ⟨t, ht, htcore, htonly⟩ := run_coreEvent (f := gateAbandons p.val .none) (p := p.val) (b := 12) hr p.isLt
    (by rw [heffect, hend]; exact hvonly.trans hcycle) (by decide)
    (by rw [heffect, hend, hissued, hd]; exact congrArg (· ++ [12]) (ready_evs hr p.isLt)) rfl (by decide)
  refine ⟨t, ht, htonly, ?_⟩
  rw [htcore, heffect, hend, hissued, Core.cutLaunched, hcut]
  rfl

end

/-- A command whose effect leaves a settled device as it is answers that device. -/
theorem run_unchanged (hr : s.ready = true) {f : State → State} (h : f s.clearOuts = s.clearOuts) :
    s.run f = .next s.clearOuts := by
  obtain ⟨-, -, hlog⟩ := ready_iff.1 hr
  rw [run_ready (ready_awake hr) (by rw [h, ready_settled hr]) (by rw [h]; exact hlog), h]
  rfl

/-- Before its time a gate does nothing (12 R474). -/
theorem gateLaunch_notDue (hr : s.ready = true) (h : s.launchNow (s.core p.val).gate = false) :
    exec (.gateLaunch p .plain) s = .next s.clearOuts :=
  run_unchanged hr (by rw [gateLaunches_plain, launchCore_notDue (s := s.clearOuts) h])

theorem abandoningGate_notDue (hr : s.ready = true) (h : s.launchNow (s.core p.val).gate = false) :
    exec (.abandoningGate p .none) s = .next s.clearOuts :=
  run_unchanged hr (by rw [gateAbandons_none, abandonCore_notDue (s := s.clearOuts) h])

/-- A gate that is not late has no late evaluation (12 R476). -/
theorem gateLate_notLate (hr : s.ready = true) (h : (s.core p.val).gate.late = false) :
    exec (.gateLate p .plain) s = .next s.clearOuts :=
  run_unchanged hr (by rw [gateLates_plain, clearOuts_core_eq, h, Bool.and_false, Bool.false_and]; rfl)

/-- A core with HALT set halts at its gate (05 R178). -/
theorem gateLaunch_halts (hr : s.ready = true) (hg : AtGate s p.val) (hw : waitsAtGate (s.core p.val) = true)
    (hh : (s.core p.val).haltReq = true) (hb : (s.core p.val).boundary = true) :
    exec (.gateLaunch p .plain) s = .next (s.clearOuts.setCore p.val { s.core p.val with run := .halted .ctrl }) := by
  have hgu : AtGate s.clearOuts p.val := ⟨hg.due, hg.inService, hg.here⟩
  have hstay : s.clearOuts.awaits p.val = s.clearOuts :=
    awaits_stay (reachesNow_running (by rw [clearOuts_core_eq, (waitsAtGate_iff.1 hw).1]; decide))
  have heffect : s.clearOuts.gateLaunches p.val .plain =
      s.clearOuts.setCore p.val { s.core p.val with run := .halted .ctrl } := by
    rw [gateLaunches_plain, (launchCore_atGate hgu).1 .ctrl (heldOff_halt hh hb), hstay]
    have hpre : ((s.core p.val).preempt && HaltWhy.ctrl != .preempted) = (s.core p.val).preempt := Bool.and_true _
    simp only [holdOff, onCore, clearOuts_core_eq, hpre]
  obtain ⟨-, -, hlog⟩ := ready_iff.1 hr
  have hsettled : (s.clearOuts.gateLaunches p.val .plain).settled = true := by
    rw [heffect]
    exact (CoreOnly.setCore _).settled (ready_settled hr) (by rw [setCore_core_self]; exact ready_evs hr p.isLt)
  show s.run (gateLaunches p.val .plain) = _
  rw [run_ready (ready_awake hr) hsettled (by rw [heffect]; exact hlog), heffect]
  rfl

/-- On a fenced core the gate is lost (15 R563). -/
theorem gateLaunch_fenced (hr : s.ready = true) (hj : s.sched.jobs = []) (hdue : s.launchNow (s.core p.val).gate = true)
    (hf : s.coreFenced p.val = true) (hrun : (s.core p.val).run ≠ .running) :
    ∃ t, exec (.gateLaunch p .plain) s = .next t ∧ t.core p.val = disarm (s.core p.val) ∧ CoreOnly p.val s t := by
  generalize hv : (s.clearOuts.setCore p.val (disarm (s.core p.val))).catchPhys Ev.CATCHFW_LAUNCH_MISSED p.val = v
  have hrec : Recorded (s.clearOuts.setCore p.val (disarm (s.core p.val))) v := by rw [← hv]; exact .catchPhys _ _
  have hvcore : v.core p.val = disarm (s.core p.val) := (hrec.core _).trans (setCore_core_self _ _ _)
  have heffect : s.clearOuts.gateLaunches p.val .plain = v := by
    rw [gateLaunches_plain, launchCore_fenced (s := s.clearOuts) hj hdue hf hrun, ← hv]
    rfl
  obtain ⟨t, ht, htcore, htonly, -⟩ := run_coreOnly (f := gateLaunches p.val .plain) (p := p.val) hr
    (by rw [heffect]; exact CoreOnly.trans (.setCore _) (hrec.coreOnly _)) (by rw [heffect, hvcore]; exact ready_evs hr p.isLt)
  exact ⟨t, ht, by rw [htcore, heffect, hvcore], htonly⟩

end State

open State

/-- Settles O26: at an evaluation of its gate a core has the cycle in which the gated bundle issues or is held, or none at all, and
nothing else of the device takes part; one lemma on the command's answer for each clause. -/
theorem gatesAct : Obligations.GatesAct := by
  intro s p hr hj hbub hbank heddy c u a ends issued only emptyAt here
  have hfree : c.BanksFree := ⟨hbank, heddy⟩
  have honly {t : State} {d : Core} (hd : t.core p.val = d) (h : CoreOnly p.val s t) : only t d :=
    ⟨hd, h.others, h.mem, h.time, h.sched⟩
  have hissued : issued = (Core.arrive { c with run := .waiting }).launched.cycled s.time.ticks := by
    rw [Core.arrive_launched_cycled]
  refine ⟨fun hhere hh hd hreps hb => ?_, fun hhere hh hbd hw => ?_, fun k ks hhere hh hpre hdec hctl hwait => ?_, fun hdue => ?_,
    fun hdue hf hrun => ?_, fun hw hl ho hh hd hreps hb => ?_, fun hl hrun => ?_, fun hdue hf habn hrun hre hb => ?_⟩
  · obtain ⟨hdue, hin, hat⟩ := hhere
    obtain ⟨t, ht, hcore, hrest⟩ := gateLaunch_issues hr hj hbub hfree ⟨hdue, hin, hat⟩ hh hd hreps hb
    exact ⟨t, ht, honly (hcore.trans hissued.symm) hrest⟩
  · obtain ⟨hdue, hin, hat⟩ := hhere
    exact gateLaunch_halts hr ⟨hdue, hin, hat⟩ hw hh hbd
  · obtain ⟨hdue, hin, hat⟩ := hhere
    obtain ⟨t, ht, hcore, hrest⟩ := gateLaunch_holds hr hbub hfree ⟨hdue, hin, hat⟩ hh hpre rfl hdec hctl hwait
    refine ⟨t, ht, honly (hcore.trans ?_) hrest⟩
    rw [Core.arrive_heldOpen_cycled]
  · exact ⟨gateLaunch_notDue hr hdue, abandoningGate_notDue hr hdue⟩
  · obtain ⟨t, ht, hcore, hrest⟩ := gateLaunch_fenced hr hj hdue hf (by rw [hrun]; decide)
    exact ⟨t, ht, hcore, hrest.mem⟩
  · obtain ⟨t, ht, hcore, hrest, hcnt, hstatus⟩ := gateLate_issues hr hj hbub hfree hw hl ho hh hd hreps hb
    refine ⟨t, ht, honly (hcore.trans ?_) hrest, hcnt, hstatus⟩
    rw [hissued, ← (waitsAtGate_iff.1 hw).1]
  · exact gateLate_notLate hr hl
  · obtain ⟨t, ht, hrest, hcore⟩ := abandoningGate_cuts hr hbub hfree hj hdue hf habn hrun hre hb
    obtain ⟨hpass, heddy, hqueue, hdelay, hreps, hpc, hrun, harmed, habandon, hg, hls, hlm, hfault⟩ : c.CutFrom (t.core p.val) :=
      hcore ▸ Core.cutLaunched_cutFrom _ _ c
    exact ⟨t, ht, hpass, heddy, hqueue, hdelay, hreps, hpc, hrun, harmed, habandon, hg, hls, hlm, hfault, hrest.others, hrest.mem⟩

end Sys2Proof.Machine
end

section
/-! PROOFS. What accesses, completions, admin events and the records of a core's faults leave alone (07 R240 to R244; 13 R509 to R511;
15 R557 to R567): the commands that wait, the downlink codewords, the units out of service, the collectors and TXP.STATUS. -/
namespace Sys2Proof.Machine
namespace State

/-- The collectors whose bits put a unit out of service, and TXP.STATUS. -/
def codeRegs : List Nat := fencingBits.map (·.1) ++ [Reg.TXP_STATUS]

/-- The collectors and TXP.STATUS by their places within 64 KiB of CSR space (17 R636). -/
theorem codeRegs_place {a : Nat} (h : a ∈ codeRegs) :
    a % 0x10000 = 0x2c ∨ a % 0x10000 = 0x2008 ∨ a % 0x10000 = 0xa000 ∨ a % 0x10000 = 0xb000 := by
  revert a; decide

theorem codeRegs_not_log {a : Nat} (h : a ∈ codeRegs) : a ∉ logRegs := by
  revert a; decide

/-- `t` has the waiting commands, the codewords, the collectors and TXP.STATUS of `s`, and every unit that is out of service in `s` is so
in `t`. -/
structure Untouched (s t : State) : Prop where
  pending : t.pending = s.pending
  cws : t.tx.cws = s.tx.cws
  fenced : ∀ k n, s.fence k n ≠ 0 → t.fence k n ≠ 0
  regs : ∀ a ∈ codeRegs, t.reg a = s.reg a

theorem not_codeRegs_of_place {a : Nat}
    (h : ¬(a % 0x10000 = 0x2c ∨ a % 0x10000 = 0x2008 ∨ a % 0x10000 = 0xa000 ∨ a % 0x10000 = 0xb000)) : a ∉ codeRegs :=
  fun hi => h (codeRegs_place hi)

theorem poolStatus_not_codeRegs (c : Nat) : Reg.POOL_STATUS c ∉ codeRegs :=
  not_codeRegs_of_place (by simp only [Reg.POOL_STATUS]; omega)

theorem poolFaultAddr_not_codeRegs (c : Nat) : Reg.POOL_FAULT_ADDR c ∉ codeRegs :=
  not_codeRegs_of_place (by simp only [Reg.POOL_FAULT_ADDR]; omega)

theorem poolUncorrCnt_not_codeRegs (c : Nat) : Reg.POOL_UNCORR_CNT c ∉ codeRegs :=
  not_codeRegs_of_place (by simp only [Reg.POOL_UNCORR_CNT]; omega)

theorem engineEn_not_codeRegs (q : Nat) : Reg.WEIR_ENGINE_EN q ∉ codeRegs :=
  not_codeRegs_of_place (by simp only [Reg.WEIR_ENGINE_EN]; omega)

theorem txFrames_not_codeRegs (k : Nat) : Reg.CP_TX_FRAMES k ∉ codeRegs :=
  not_codeRegs_of_place (by simp only [Reg.CP_TX_FRAMES]; omega)

theorem ne_codeRegs {a i : Nat} (ha : a ∉ codeRegs) (hi : i ∈ codeRegs) : i ≠ a := by
  rintro rfl
  exact ha hi

namespace Untouched

variable {s t u : State}

theorem of_fields (hp : t.pending = s.pending) (hx : t.tx.cws = s.tx.cws) (hf : t.fences = s.fences) (hr : t.ctl.regs = s.ctl.regs) :
    Untouched s t :=
  ⟨hp, hx, fun k n h => by simpa only [fence, hf] using h, fun a _ => by simp only [reg, Ctl.reg, hr]⟩

theorem refl : Untouched s s := of_fields rfl rfl rfl rfl

theorem trans (h : Untouched s t) (h' : Untouched t u) : Untouched s u where
  pending := h'.pending.trans h.pending
  cws := h'.cws.trans h.cws
  fenced k n hn := h'.fenced k n (h.fenced k n hn)
  regs a ha := (h'.regs a ha).trans (h.regs a ha)

/-- What follows an update of other fields leaves alone what it leaves alone after the update. -/
theorem after (h : Untouched t u) (hp : t.pending = s.pending) (hx : t.tx.cws = s.tx.cws) (hf : t.fences = s.fences)
    (hr : t.ctl.regs = s.ctl.regs) : Untouched s u := (of_fields hp hx hf hr).trans h

theorem of_recorded (h : Recorded s t) : Untouched s t := by
  obtain ⟨c, rfl, hc⟩ := h
  exact { (refl : Untouched s s) with regs := fun a ha => hc a (codeRegs_not_log ha) }

theorem setReg {a : Nat} {v : Word} (ha : a ∉ codeRegs) : Untouched s (s.setReg a v) :=
  { (refl : Untouched s s) with regs := fun _ hi => by rw [reg_setReg, if_neg (ne_codeRegs ha hi)] }

theorem count {a n : Nat} (ha : a ∉ codeRegs) : Untouched s (s.count a n) :=
  { (refl : Untouched s s) with regs := fun _ hi => by rw [reg_count, if_neg (ne_codeRegs ha hi)] }

theorem event {a b : Nat} (ha : a ∉ codeRegs) : Untouched s (s.event a b) :=
  { (refl : Untouched s s) with regs := fun _ hi => reg_event s a b (ne_codeRegs ha hi) (codeRegs_not_log hi) }

theorem latchIf {c : Bool} {a : Nat} {v : Word} (ha : a ∉ codeRegs) : Untouched s (s.latchIf c a v) := by
  unfold State.latchIf
  split
  · exact setReg ha
  · exact refl

/-! ## Accesses -/

theorem hole (h : HoleAt) : Untouched s (s.hole h) := by
  cases h with
  | pool c off => exact (latchIf (poolFaultAddr_not_codeRegs c)).trans (event (poolStatus_not_codeRegs c))
  | dram a => exact ((latchIf (by decide)).trans (latchIf (by decide))).trans (event (by decide))
  | trib => exact (event (by decide)).trans (count (by decide))
  | fault a => exact ((latchIf (by decide)).trans (latchIf (by decide))).trans (event (by decide))
  | none => exact refl

theorem uncorrRead (a : Nat) (ks : List Nat) : Untouched s (s.uncorrRead a ks) := by
  unfold State.uncorrRead
  extract_lets w q c
  split
  · exact refl
  · split
    · exact (((latchIf (by decide)).trans (latchIf (by decide))).trans (count (by decide))).trans
        (event (by decide))
    · exact ((latchIf (poolFaultAddr_not_codeRegs c)).trans (count (poolUncorrCnt_not_codeRegs c))).trans (event (poolStatus_not_codeRegs c))

theorem readMem (a n : Nat) : Untouched s (s.readMem a n).1 := uncorrRead a _

theorem writeMem (a : Nat) (bs : List Byte) : Untouched s (s.writeMem a bs) :=
  (uncorrRead a _).trans (of_fields rfl rfl rfl rfl)

theorem logged (ws : Word → List Word) (key : Nat) : Untouched s { s with ctl := (s.ctl.logEntry ws).keyed key } :=
  of_recorded ⟨_, rfl, fun _ ha => Ctl.reg_logEntry _ _ ha⟩

theorem atuFault (cause level slice addr req entry basin : Nat) : Untouched s (s.atuFault cause level slice addr req entry basin) := by
  unfold State.atuFault
  extract_lets ws s1 s2
  have h1 : Untouched s s1 := count (by decide)
  have h2 : Untouched s1 s2 := event (by decide)
  exact (h1.trans h2).trans (logged ..)

theorem translate (off : Nat) (w : Bool) (req basin : Nat) : Untouched s (s.translate off w req basin).1 := by
  unfold State.translate
  extract_lets slice x a root _ hit table s1
  have h1 : Untouched s s1 := count (by decide)
  split
  · exact atuFault ..
  · split
    · split
      · exact atuFault ..
      · split
        · exact after (atuFault ..) rfl rfl rfl rfl
        · exact of_fields rfl rfl rfl rfl
    · split
      · exact h1.trans (atuFault ..)
      · split
        · exact h1.trans (of_fields rfl rfl rfl rfl)
        · exact h1.trans (atuFault ..)

theorem translate_fst {off req basin : Nat} {w : Bool} {x : Option Nat} (h : s.translate off w req basin = (t, x)) :
    Untouched s t := by
  have := translate (s := s) off w req basin
  rwa [h] at this

theorem readG (req basin fuel : Nat) (s : State) (addr n : Nat) : Untouched s (State.readG req basin fuel s addr n).1 := by
  induction fuel generalizing s addr n with
  | zero => exact refl
  | succ fuel ih =>
    rw [State.readG]
    split
    · exact refl
    · extract_lets pl m go
      have hgo (r : State × List Byte × Bool) : Untouched r.1 (go r).1 := by
        subst go
        dsimp only
        split
        · exact ih ..
        · exact refl
      split
      · extract_lets r
        split
        · exact (readMem ..).trans (hgo r)
        · exact readMem ..
      · exact after (hgo _) rfl rfl rfl rfl
      · exact refl
      · split
        · next h => exact (translate_fst h).trans (hgo (_, _, true))
        · next h => exact translate_fst h
      · split
        · exact after (hgo _) rfl rfl rfl rfl
        · exact of_fields rfl rfl rfl rfl
      · exact hole _

theorem emits (os : List Out) (s : State) : Untouched s (os.foldl (fun (s : State) o => s.emit o) s) := by
  induction os generalizing s with
  | nil => exact refl
  | cons o os ih => exact trans (t := s.emit o) (of_fields rfl rfl rfl rfl) (ih _)

theorem portSend (k : Nat) (os : List Out) : Untouched s (s.portSend k os) := by
  unfold State.portSend
  split
  · exact refl
  · exact (emits os s).trans (count (txFrames_not_codeRegs k))

theorem sendSeq (d k : Nat) (mk : Nat → Nat → Frame) : Untouched s (s.sendSeq d k mk) := by
  unfold State.sendSeq
  extract_lets t f next p fits s1
  have h1 : Untouched s s1 := of_fields rfl rfl rfl rfl
  split
  · exact h1.trans (after (portSend ..) rfl rfl rfl rfl)
  · exact h1

theorem sendPieces (d k typ flags basin xfer : Nat) (ps : List (Nat × List Byte)) (s : State) :
    Untouched s (s.sendPieces d k typ flags basin xfer ps) := by
  induction ps generalizing s with
  | nil => exact refl
  | cons x ps ih => exact (sendSeq ..).trans (ih _)

theorem issueWrite (x d a : Nat) (bs : List Byte) (basin who : Nat) (wh : Bool) : Untouched s (s.issueWrite x d a bs basin who wh) := by
  unfold State.issueWrite
  split
  · exact hole _
  · exact after (sendPieces ..) rfl rfl rfl rfl

theorem writeG (req basin fuel : Nat) (s : State) (addr : Nat) (bs : List Byte) :
    Untouched s (State.writeG req basin fuel s addr bs).1 := by
  induction fuel generalizing s addr bs with
  | zero => exact refl
  | succ fuel ih =>
    rw [State.writeG]
    split
    · exact refl
    · extract_lets pl m rest
      have hrest (s : State) : Untouched s (rest s).1 := ih ..
      split
      · exact (writeMem ..).trans (hrest _)
      · exact after (hrest _) rfl rfl rfl rfl
      · exact refl
      · split
        · next h => exact (translate_fst h).trans (after (hrest _) rfl rfl rfl rfl)
        · next h => exact translate_fst h
      · extract_lets t
        have ht : Untouched s t := after (issueWrite ..) rfl rfl rfl rfl
        split
        · exact ht.trans (hrest t)
        · exact ht
      · exact hole _

/-! ## Rings -/

theorem ringWrite (addr : Nat) (bs : List Byte) : Untouched s (s.ringWrite addr bs) := writeG ..

theorem notifyPut (k : Nat) (r : Ring) : Untouched s (s.notifyPut k r) := by
  unfold State.notifyPut
  split
  · exact refl
  · split
    · exact after (ringWrite ..) rfl rfl rfl rfl
    · exact of_fields rfl rfl rfl rfl

theorem ringPut (k : Nat) (r : Ring) (entry : List Byte) : Untouched s (s.ringPut k r entry).1 := (ringWrite ..).trans (notifyPut ..)

theorem want (f v : Nat) : Untouched s (s.want f v) := by
  refine of_fields rfl rfl rfl ?_
  show (s.ctl.want f v).regs = _
  unfold Ctl.want
  split <;> rfl

theorem cqPut (b : Nat) (entry : List Byte) : Untouched s (s.cqPut b entry) := by
  unfold State.cqPut
  extract_lets x r _ t v
  have ht : Untouched s t := (ringPut ..).trans (of_fields rfl rfl rfl rfl)
  split
  · exact ht.trans (want ..)
  · exact ht

theorem complete (b : Nat) (entry : List Byte) : Untouched s (s.complete b entry) := by
  unfold State.complete
  extract_lets x
  split
  · exact of_fields rfl rfl rfl rfl
  · split
    · exact cqPut ..
    · split
      · exact of_fields rfl rfl rfl rfl
      · exact after ((count (by decide)).trans (event (by decide))) rfl rfl rfl rfl

theorem adminPut (entry : List Byte) : Untouched s (s.adminPut entry) := by
  unfold State.adminPut
  extract_lets r _ t
  have ht : Untouched s t := (ringPut ..).trans (of_fields rfl rfl rfl rfl)
  split
  · exact ht.trans (want ..)
  · exact ht

theorem adminEvent (type code seq mbx : Nat) (detail : List Byte) : Untouched s (s.adminEvent type code seq mbx detail) := by
  unfold State.adminEvent
  extract_lets _ t
  have ht : Untouched s t := by
    subst t
    split
    · exact refl
    · exact (adminPut _).trans (of_fields rfl rfl rfl rfl)
  split
  · exact of_fields rfl rfl rfl rfl
  · split
    · exact ht.trans (of_fields rfl rfl rfl rfl)
    · exact ht.trans (adminPut _)

/-! ## Jobs -/

theorem jobDone (b num result : Nat) : Untouched s (s.jobDone b num result) := after (complete ..) rfl rfl rfl rfl

theorem nextInstance (j : Job) : Untouched s (s.nextInstance j) := by
  unfold State.nextInstance
  split
  · split
    · exact of_fields rfl rfl rfl rfl
    · exact refl
  · exact refl

theorem closeJob (j : Job) : Untouched s (s.closeJob j) := by
  unfold State.closeJob
  extract_lets t
  have ht : Untouched s t := of_fields rfl rfl rfl rfl
  split
  · exact (ht.trans (nextInstance j)).trans (jobDone ..)
  · exact refl

theorem leafTo (p frm next : Nat) : Untouched s (s.leafTo p frm next) := by
  unfold State.leafTo
  extract_lets js i
  split
  · exact refl
  · extract_lets j t
    have ht : Untouched s t := of_fields rfl rfl rfl rfl
    split
    · exact (ht.trans (nextInstance j)).trans (closeJob j)
    · exact ht.trans (closeJob j)

/-! ## Units that go out of service, and the events of cores -/

theorem setFence (kind num how : Nat) : Untouched s (s.setFence kind num how) := by
  refine { (refl : Untouched s s) with fenced := fun k n h => ?_ }
  show tget _ (tset s.fences (kind * 64 + num) (max how 1)) (k * 64 + n) ≠ 0
  by_cases hk : k * 64 + n = kind * 64 + num
  · rw [hk, tget_tset_self]; omega
  · rw [tget_tset_ne _ _ _ hk]; exact h

theorem fenceRecords (kind num how : Nat) : Untouched s (s.fenceRecords kind num how) := by
  unfold State.fenceRecords
  extract_lets t k
  have ht : Untouched s t := event (by decide)
  split
  · exact ht.trans (of_recorded (.logPut ..))
  · exact ht

theorem noSpare (kind num how : Nat) : Untouched s (s.noSpare kind num how) := by
  unfold State.noSpare
  extract_lets t
  have ht : Untouched s t := event (by decide)
  split
  · exact ht
  · exact ht.trans (adminEvent ..)

theorem stopCore (p : Nat) : Untouched s (s.stopCore p) :=
  (((of_fields rfl rfl rfl rfl : Untouched s (s.setCore p _)).trans (of_recorded (.catchPhys ..))).trans (leafTo ..)).trans
    (of_fields rfl rfl rfl rfl)

theorem fenceCore (p how : Nat) : Untouched s (s.fenceCore p how) := by
  unfold State.fenceCore
  extract_lets t
  have ht : Untouched s t := ((stopCore p).trans (setFence ..)).trans (fenceRecords ..)
  split
  · exact refl
  · split
    · exact ht
    · split
      · exact ht.trans (of_fields rfl rfl rfl rfl)
      · exact ht.trans (noSpare ..)

theorem suspect (p : Nat) : Untouched s (s.suspect p) := by
  unfold State.suspect
  extract_lets cfg window marks _ s1 c s2 s3
  have h1 : Untouched s s1 := of_fields rfl rfl rfl rfl
  have h2 : Untouched s1 s2 := event (by decide)
  have h3 : Untouched s2 s3 := of_recorded (.logPut ..)
  split
  · exact ((h1.trans h2).trans h3).trans (fenceCore ..)
  · exact h1

theorem coreEvent (p b : Nat) : Untouched s (s.coreEvent p b) := by
  unfold State.coreEvent
  extract_lets c cls s1 key _ s2 s3 s4
  have h1 : Untouched s s1 := by
    subst s1
    split
    · exact refl
    · exact of_recorded (.catchPhys ..)
  have h2 : Untouched s1 s2 := by
    subst s2
    split
    · exact of_fields rfl rfl rfl rfl
    · exact refl
  have h3 : Untouched s2 s3 := by
    subst s3
    split
    · exact of_recorded (.logPut ..)
    · exact refl
  have h4 : Untouched s3 s4 := by
    subst s4
    split
    · exact suspect p
    · exact refl
  have hall := ((h1.trans h2).trans h3).trans h4
  split
  · exact hall.trans (fenceCore ..)
  · exact hall

/-- A fold each of whose steps leaves these alone does so. -/
theorem foldl {β : Type} {f : State → β → State} (h : ∀ s x, Untouched s (f s x)) (l : List β) (s : State) : Untouched s (l.foldl f s) := by
  induction l generalizing s with
  | nil => exact refl
  | cons x l ih => exact (h s x).trans (ih _)

theorem settleCores : Untouched s s.settleCores := by
  refine foldl (fun s p => ?_) _ s
  extract_lets c t
  split
  · exact refl
  · exact trans (of_fields rfl rfl rfl rfl : Untouched s t) (foldl (fun s b => coreEvent p b) _ t)

/-- With nothing but this between, a device whose broken units are out of service has them so. -/
theorem unitsFenced (h : Untouched s t) (hs : s.unitsFenced = true) : t.unitsFenced = true :=
  unitsFenced_iff.2 fun x hx hb => h.fenced _ _ (unitsFenced_iff.1 hs x hx
    (by rwa [h.regs x.1 (List.mem_append_left _ (List.mem_map_of_mem hx))] at hb))

/-- DET.STRICT is neither a collector nor TXP.STATUS: bringing it up to date leaves these alone. -/
theorem settle_of_units (h : s.settleCores.settleUnits = t) : Untouched t s.settle := by
  unfold State.settle
  rw [h]
  extract_lets v
  have hv : Untouched t v := of_recorded .sortLog
  split
  · exact hv
  · exact hv.trans (setReg (by decide))

/-- What a command leaves behind, where it has put no unit out of service. -/
theorem settle (h : Untouched s t) (hs : s.unitsFenced = true) : Untouched s t.settle :=
  (h.trans settleCores).trans (settle_of_units (settleUnits_fenced ((h.trans settleCores).unitsFenced hs)))

end Untouched
end State
end Sys2Proof.Machine
end

section
/-! PROOFS. Encoders (08 R309 to R311; 15 R563): one that breaks goes out of service, and nothing else does. -/
namespace Sys2Proof.Machine

theorem bitOf_eq_testBit (v b : Nat) : bitOf v b = v.testBit b := by
  rw [bitOf, Nat.testBit_eq_decide_div_mod_eq, ← Bool.beq_eq_decide_eq]

/-- An event leaves the other event bits of its status word as they are (17 R646). -/
theorem bitOf_evSet_ne {w : Word} {b j : Nat} (hb : b < 24) (hj : j < 24) (h : b ≠ j) :
    bitOf (evSet w b).toNat j = bitOf w.toNat j := by
  have hlow : w.toNat % 2 ^ 24 ||| 2 ^ b < 2 ^ 24 :=
    Nat.or_lt_two_pow (Nat.mod_lt _ (by decide)) (Nat.pow_lt_pow_right (by decide) hb)
  have hword : (evSet w b).toNat = 2 ^ 24 * ((w.toNat / 2 ^ 24 + 1) % 256) + (w.toNat % 2 ^ 24 ||| 2 ^ b) := by
    rw [evSet, BitVec.toNat_ofNat, Nat.mul_comm]
    exact Nat.mod_eq_of_lt (by omega)
  rw [bitOf_eq_testBit, bitOf_eq_testBit, hword, Nat.testBit_two_pow_mul_add _ hlow, if_pos hj, Nat.testBit_or, Nat.testBit_mod_two_pow,
    Nat.testBit_two_pow_of_ne h, decide_eq_true hj, Bool.true_and, Bool.or_false]

namespace State

variable {s : State} {q e : Nat}

/-! ## The fencing bits of a quad -/

theorem encoder_mem_fencingBits {i : Nat} (hq : q < 4) (hi : i < 2) : (Reg.WEIR_FAULTWORD q, 3 + i, 2, q * 2 + i) ∈ fencingBits := by
  simp only [fencingBits, List.mem_append, List.mem_flatMap]
  exact .inl ⟨q, List.mem_range.2 hq, .inl (.inl (.inr (List.mem_map.2 ⟨i, List.mem_range.2 hi, rfl⟩)))⟩

theorem engine_mem_fencingBits {i : Nat} (hq : q < 4) (hi : i < 6) : (Reg.WEIR_FAULTWORD q, 6 + i, 1, q * 6 + i) ∈ fencingBits := by
  simp only [fencingBits, List.mem_append, List.mem_flatMap]
  exact .inl ⟨q, List.mem_range.2 hq, .inl (.inl (.inl (.inl (List.mem_map.2 ⟨i, List.mem_range.2 hi, rfl⟩))))⟩

theorem polar_mem_fencingBits (hq : q < 4) : (Reg.WEIR_FAULTWORD q, 5, 3, q) ∈ fencingBits := by
  simp only [fencingBits, List.mem_append, List.mem_flatMap]
  exact .inl ⟨q, List.mem_range.2 hq, .inl (.inl (.inl (.inr (List.mem_singleton.2 rfl))))⟩

theorem poolBank_mem_fencingBits {b : Nat} (hq : q < 4) (hb : b < 16) : (Reg.POOL_FAULTWORD q, 8 + b, 5, q) ∈ fencingBits := by
  simp only [fencingBits, List.mem_append, List.mem_flatMap]
  exact .inl ⟨q, List.mem_range.2 hq, .inl (.inr (List.mem_map.2 ⟨b, List.mem_range.2 hb, rfl⟩))⟩

theorem poolUnit_mem_fencingBits {b : Nat} (hq : q < 4) (hb : b < 2) : (Reg.POOL_FAULTWORD q, 2 + b, 5, q) ∈ fencingBits := by
  simp only [fencingBits, List.mem_append, List.mem_flatMap]
  refine .inl ⟨q, List.mem_range.2 hq, .inr ?_⟩
  rcases (by omega : b = 0 ∨ b = 1) with rfl | rfl <;> simp

/-- The bit of an encoder puts that encoder alone out of service. -/
theorem encoder_of_fencingBits (e : Fin 8) : ∀ x ∈ fencingBits, x.1 = Reg.WEIR_FAULTWORD (e.val / 2) →
    x.2.1 = Ev.WEIRFW_ENC_UNCORR + e.val % 2 → x.2.2 = (2, e.val) := by
  revert e; decide +kernel

theorem fencingBits_lt : ∀ x ∈ fencingBits, x.2.1 < 24 := by decide

/-- Every unit but encoder `e` whose fencing bit is set is out of service. -/
def FencedBut (e : Nat) (s : State) : Prop :=
  ∀ x ∈ fencingBits, x.2.2 ≠ (2, e) → bitOf (s.reg x.1).toNat x.2.1 = true → s.fence x.2.2.1 x.2.2.2 ≠ 0

theorem FencedBut.unitsFenced (h : FencedBut e s) (he : s.fence 2 e ≠ 0) : s.unitsFenced = true := by
  refine unitsFenced_iff.2 fun x hx hb => ?_
  by_cases hxe : x.2.2 = (2, e)
  · rw [hxe]; exact he
  · exact h x hx hxe hb

/-- An encoder's uncorrectable error sets the encoder's own fencing bit alone (08 R311). -/
theorem event_fencedBut (e : Fin 8) (h : s.unitsFenced = true) :
    FencedBut e.val (s.event (Reg.WEIR_FAULTWORD (e.val / 2)) (Ev.WEIRFW_ENC_UNCORR + e.val % 2)) := by
  intro x hx hxe hb
  refine unitsFenced_iff.1 h x hx ?_
  have hxreg : x.1 ∈ codeRegs := List.mem_append_left _ (List.mem_map_of_mem hx)
  by_cases hx1 : x.1 = Reg.WEIR_FAULTWORD (e.val / 2)
  · have hbit : Ev.WEIRFW_ENC_UNCORR + e.val % 2 ≠ x.2.1 := fun h' => hxe (encoder_of_fencingBits e x hx hx1 h'.symm)
    have hlt : Ev.WEIRFW_ENC_UNCORR + e.val % 2 < 24 := by simp only [Ev.WEIRFW_ENC_UNCORR]; omega
    rwa [hx1, reg_event_self s (hx1 ▸ codeRegs_not_log hxreg), bitOf_evSet_ne hlt (fencingBits_lt x hx) hbit, ← hx1] at hb
  · rwa [reg_event s _ _ hx1 (codeRegs_not_log hxreg)] at hb

/-! ## The step of the settling that looks at a quad's collectors (15 R563) -/

/-- The settling of the units of a quad. -/
def settleQuad (s : State) (q : Nat) : State :=
  let w := (s.reg (Reg.WEIR_FAULTWORD q)).toNat
  let s := (List.range 6).foldl (fun (s : State) i => if bitOf w (6 + i) then s.fenceUnit 1 (q * 6 + i) 1 else s) s
  let s := if bitOf w 5 then s.fenceUnit 3 q 1 else s
  let s := (List.range 2).foldl (fun (s : State) i => if bitOf w (3 + i) then s.fenceUnit 2 (q * 2 + i) 1 else s) s
  let p := (s.reg (Reg.POOL_FAULTWORD q)).toNat
  if bits p 23 8 ≠ 0 ∨ bits p 3 2 ≠ 0 then s.fenceUnit 5 q 1 else s

/-- The settling of the encoders of a quad by the quad's fault word `w`. -/
def settleEncoders (w q : Nat) (s : State) : State :=
  (List.range 2).foldl (fun (s : State) i => if bitOf w (3 + i) then s.fenceUnit 2 (q * 2 + i) 1 else s) s

/-- Where nothing but an encoder waits for its fence, the settling of a quad is that of its encoders. -/
theorem settleQuad_encoders {t : State} (hq : q < 4) (hs : FencedBut e s)
    (henc : settleEncoders (s.reg (Reg.WEIR_FAULTWORD q)).toNat q s = t) (ht : FencedBut e t) : settleQuad s q = t := by
  have hengines : (List.range 6).foldl (fun (t : State) i =>
      if bitOf (s.reg (Reg.WEIR_FAULTWORD q)).toNat (6 + i) then t.fenceUnit 1 (q * 6 + i) 1 else t) s = s := by
    refine foldl_fixed _ s _ fun i hi => ?_
    split
    · next hb => exact fenceUnit_done (hs _ (engine_mem_fencingBits hq (List.mem_range.1 hi)) (by simp) hb)
    · rfl
  have hpolar : (if bitOf (s.reg (Reg.WEIR_FAULTWORD q)).toNat 5 then s.fenceUnit 3 q 1 else s) = s := by
    split
    · next hb => exact fenceUnit_done (hs _ (polar_mem_fencingBits hq) (by simp) hb)
    · rfl
  unfold settleEncoders at henc
  simp only [settleQuad, hengines, hpolar, henc]
  split
  · next hor =>
    refine fenceUnit_done ?_
    rcases hor with h | h
    · obtain ⟨b, hlt, hb⟩ := bits_ne_zero h
      exact ht _ (poolBank_mem_fencingBits hq hlt) (by simp) hb
    · obtain ⟨b, hlt, hb⟩ := bits_ne_zero h
      exact ht _ (poolUnit_mem_fencingBits hq hlt) (by simp) hb
  · rfl

/-- Encoders in no need of a fence are left as they are. -/
theorem settleEncoders_fenced {w : Nat} (h : ∀ i < 2, bitOf w (3 + i) = true → s.fence 2 (q * 2 + i) ≠ 0) :
    settleEncoders w q s = s := by
  refine foldl_fixed _ s _ fun i hi => ?_
  split
  · next hb => exact fenceUnit_done (h i (List.mem_range.1 hi) hb)
  · rfl

theorem settleQuad_fenced (hq : q < 4) (h : s.unitsFenced = true) : settleQuad s q = s := by
  have hall := unitsFenced_iff.1 h
  have hbut : FencedBut 0 s := fun x hx _ => hall x hx
  exact settleQuad_encoders hq hbut (settleEncoders_fenced fun i hi => hall _ (encoder_mem_fencingBits hq hi)) hbut

/-! ## An encoder out of service -/

theorem Untouched.moveEncoder : Untouched s (s.moveEncoder e) := by
  unfold State.moveEncoder
  split
  · exact .refl
  · split
    · exact .refl
    · exact .of_fields rfl rfl rfl rfl

theorem Untouched.fenceEncoder (how : Nat) : Untouched s (s.fenceUnit 2 e how) := by
  unfold State.fenceUnit
  split
  · exact .refl
  · exact ((((Untouched.setFence ..).trans (.setReg (engineEn_not_codeRegs _))).trans .moveEncoder).trans (.fenceRecords ..)).trans
      (.noSpare ..)

theorem fenceEncoder_out (how : Nat) : (s.fenceUnit 2 e how).fence 2 e ≠ 0 := by
  unfold State.fenceUnit
  split
  · next h => exact h
  · have hset : (s.setFence 2 e how).fence 2 e ≠ 0 := by
      show tget _ (tset s.fences (2 * 64 + e) (max how 1)) (2 * 64 + e) ≠ 0
      rw [tget_tset_self]
      omega
    exact ((((Untouched.setReg (engineEn_not_codeRegs _)).trans .moveEncoder).trans (.fenceRecords ..)).trans
      (.noSpare ..)).fenced _ _ hset

theorem Untouched.fencedBut {t : State} (h : Untouched s t) (hs : FencedBut e s) : FencedBut e t := fun x hx hxe hb =>
  h.fenced _ _ (hs x hx hxe (by rwa [h.regs x.1 (List.mem_append_left _ (List.mem_map_of_mem hx))] at hb))

/-- The settling of a device in which encoder `e` alone waits for its fence. -/
theorem settleUnits_encoder (e : Fin 8) (hs : FencedBut e.val s)
    (hb : bitOf (s.reg (Reg.WEIR_FAULTWORD (e.val / 2))).toNat (Ev.WEIRFW_ENC_UNCORR + e.val % 2) = true) :
    s.settleUnits = s.fenceUnit 2 e.val 1 := by
  have hq : e.val / 2 < 4 := by omega
  have hnum : e.val / 2 * 2 + e.val % 2 = e.val := by omega
  have hsame : Untouched s (s.fenceUnit 2 e.val 1) := .fenceEncoder 1
  have hbut := hsame.fencedBut hs
  have hall : (s.fenceUnit 2 e.val 1).unitsFenced = true := hbut.unitsFenced (fenceEncoder_out 1)
  have henc : settleEncoders (s.reg (Reg.WEIR_FAULTWORD (e.val / 2))).toNat (e.val / 2) s = s.fenceUnit 2 e.val 1 := by
    refine foldl_acts_once _ (p := e.val % 2) (List.mem_range.2 (by omega)) (fun i hi hie => ?_) ?_ fun i hi => ?_
    · have hi := List.mem_range.1 hi
      split
      · next hbi => exact fenceUnit_done (hs _ (encoder_mem_fencingBits hq hi) (by simp only [ne_eq, Prod.mk.injEq]; omega) hbi)
      · rfl
    · rw [if_pos hb, hnum]
    · split
      · next hbi =>
        rw [← hsame.regs _ (List.mem_append_left _ (List.mem_map_of_mem (encoder_mem_fencingBits hq (List.mem_range.1 hi))))] at hbi
        exact fenceUnit_done (unitsFenced_iff.1 hall _ (encoder_mem_fencingBits hq (List.mem_range.1 hi)) hbi)
      · rfl
  have hquads : (List.range 4).foldl settleQuad s = s.fenceUnit 2 e.val 1 := by
    refine foldl_acts_once _ (List.mem_range.2 hq) (fun q hq' hqe => ?_) (settleQuad_encoders hq hs henc hbut)
      fun q hq' => settleQuad_fenced (List.mem_range.1 hq') hall
    have hq' := List.mem_range.1 hq'
    exact settleQuad_encoders hq' hs (settleEncoders_fenced fun i hi hbi =>
      hs _ (encoder_mem_fencingBits hq' hi) (by simp only [ne_eq, Prod.mk.injEq]; omega) hbi) hs
  have hfixed : (List.range 4).foldl settleQuad (s.fenceUnit 2 e.val 1) = s.fenceUnit 2 e.val 1 :=
    foldl_fixed _ _ _ fun q hq' => settleQuad_fenced (List.mem_range.1 hq') hall
  calc s.settleUnits = (s.fenceUnit 2 e.val 1).settleUnits := by
        unfold settleUnits
        exact congrArg (List.foldl _ · (List.range 2)) (hquads.trans hfixed.symm)
    _ = s.fenceUnit 2 e.val 1 := settleUnits_fenced hall

/-- An encoder with an uncorrectable error goes out of service, and its fault word keeps the error's bit (08 R311). -/
theorem encoderUncorr_fences (e : Fin 8) (hr : s.ready = true) : ∃ t, exec (.encoderCodeBlockDone e true) s = .next t ∧
    t.fence 2 e.val ≠ 0 ∧ bitOf (t.reg (Reg.WEIR_FAULTWORD (e.val / 2))).toNat (Ev.WEIRFW_ENC_UNCORR + e.val % 2) = true := by
  have hsettled := ready_settled hr
  simp only [State.settled, State.handled, Bool.and_eq_true] at hsettled
  obtain ⟨⟨hquiet, hfenced⟩, -⟩ := hsettled
  generalize hv : s.clearOuts.event (Reg.WEIR_FAULTWORD (e.val / 2)) (Ev.WEIRFW_ENC_UNCORR + e.val % 2) = v
  have hbut : FencedBut e.val v := hv ▸ event_fencedBut e hfenced
  have hreg : Reg.WEIR_FAULTWORD (e.val / 2) ∈ codeRegs :=
    List.mem_append_left _ (List.mem_map_of_mem (encoder_mem_fencingBits (i := 0) (by omega : e.val / 2 < 4) (by omega)))
  have hbit : bitOf (v.reg (Reg.WEIR_FAULTWORD (e.val / 2))).toNat (Ev.WEIRFW_ENC_UNCORR + e.val % 2) = true := by
    rw [← hv, reg_event_self _ (codeRegs_not_log hreg)]
    exact bitOf_evSet (by simp only [Ev.WEIRFW_ENC_UNCORR]; omega)
  have hcores : v.settleCores = v := settleCores_quiet (by rw [← hv]; exact hquiet)
  have hrest : Untouched (v.fenceUnit 2 e.val 1) v.settle :=
    .settle_of_units (by rw [hcores, settleUnits_encoder e hbut hbit])
  refine ⟨v.settle.withPending s.pending, ?_, hrest.fenced _ _ (fenceEncoder_out 1), ?_⟩
  · show s.run _ = _
    rw [run, if_pos (ready_awake hr), ← hv]
  · rw [withPending_reg_eq, hrest.regs _ hreg, (Untouched.fenceEncoder 1).regs _ hreg]
    exact hbit

end State
end Sys2Proof.Machine
end

section
/-! PROOFS. Downlink codewords (03 R82 to R86; 08 R309, R310): descriptors, the encode launch, and the encoders' queues. -/
namespace Sys2Proof.Machine

theorem mem_of_tfind {α : Type} {t : Tab α} {k : Nat} {a : α} (h : tfind t k = some a) : (k, a) ∈ t := by
  induction t with
  | nil => cases h
  | cons e t ih =>
    obtain ⟨j, b⟩ := e
    simp only [tfind] at h
    split at h
    · next hj => cases h; cases hj; exact List.mem_cons_self ..
    · exact List.mem_cons_of_mem _ (ih h)

/-- Replacing an entry by one of which `p` says the same leaves what `p` says of the table. -/
theorem any_tset {α : Type} {p : Nat × α → Bool} {t : Tab α} {k : Nat} {a v : α} (h : tfind t k = some a) (hp : p (k, v) = p (k, a)) :
    (tset t k v).any p = t.any p := by
  induction t with
  | nil => cases h
  | cons e t ih =>
    obtain ⟨j, b⟩ := e
    have hmem := mem_of_tfind h
    simp only [tfind] at h
    simp only [tset]
    split
    · rw [List.any_cons, hp, Bool.or_eq_right_iff_imp]
      exact fun ha => List.any_eq_true.2 ⟨_, hmem, ha⟩
    · split
      · next hk =>
        subst hk
        rw [if_pos rfl] at h
        cases h
        rw [List.any_cons, List.any_cons, hp]
      · next hk =>
        rw [if_neg (Ne.symm hk)] at h
        rw [List.any_cons, List.any_cons, ih h]

/-! ## Sorted insertion (03 R85) -/

theorem insertKey_last {α : Type} {k : Nat} {a : α} {l : List (Nat × α)} (h : ∀ x ∈ l, x.1 ≤ k) : insertKey k a l = l ++ [(k, a)] := by
  induction l with
  | nil => rfl
  | cons x l ih =>
    obtain ⟨j, b⟩ := x
    have hj : j ≤ k := h (j, b) (List.mem_cons_self ..)
    rw [insertKey, if_neg (by omega), ih fun x hx => h x (List.mem_cons_of_mem _ hx), List.cons_append]

/-- Entries that come in the order of their keys are listed in that order. -/
theorem foldl_insertKey_sorted {α β : Type} (key : β → Nat) (val : β → α) {l : List β} (acc : List (Nat × α))
    (hl : l.Pairwise fun x y => key x ≤ key y) (ha : ∀ x ∈ acc, ∀ y ∈ l, x.1 ≤ key y) :
    l.foldl (fun acc x => insertKey (key x) (val x) acc) acc = acc ++ l.map fun x => (key x, val x) := by
  induction l generalizing acc with
  | nil => simp
  | cons x l ih =>
    obtain ⟨hx, hl⟩ := List.pairwise_cons.1 hl
    rw [List.foldl_cons, insertKey_last fun y hy => ha y hy x (List.mem_cons_self ..), ih _ hl]
    · simp
    · intro y hy z hz
      rcases List.mem_append.1 hy with hy | hy
      · exact ha y hy z (List.mem_cons_of_mem _ hz)
      · rw [List.mem_singleton.1 hy]
        exact hx z hz

namespace State

variable {s : State}

/-! ## What the wrapper of a command adds -/

/-- A command whose effect leaves nothing undone and logs nothing answers that effect. -/
theorem run_eq {v : State} {f : State → State} (hr : s.ready = true) (hf : f s.clearOuts = v) (hs : v.settled = s.settled)
    (hl : v.logOrdered = s.logOrdered) (hp : v.pending = s.pending) : s.run f = .next v := by
  obtain ⟨-, hsettled, hlog⟩ := ready_iff.1 hr
  rw [run_ready (ready_awake hr) (by rw [hf, hs, hsettled]) (by rw [hf, hl, hlog]), hf, ← hp]
  rfl

/-- A command that completes something answers what the completion's own events make of it. -/
theorem run_untouched {v : State} {f : State → State} (hr : s.ready = true) (hv : v.unitsFenced = true) (hp : v.pending = s.pending)
    (h : Untouched v (f s.clearOuts)) : s.run f = .next (f s.clearOuts).settle := by
  have hpending : (f s.clearOuts).settle.pending = s.pending := (h.settle hv).pending.trans hp
  rw [run, if_pos (ready_awake hr), ← hpending]
  rfl

theorem settled_unitsFenced (h : s.settled = true) : s.unitsFenced = true := by
  simp only [settled, handled, Bool.and_eq_true] at h
  obtain ⟨⟨-, h⟩, -⟩ := h
  exact h

theorem onTx_settled (f : Tx → Tx) : (s.onTx f).settled = s.settled := settled_of_regs rfl rfl rfl rfl rfl rfl

/-- A basin that is listed and keeps its state leaves nothing undone. -/
theorem setBasin_settled {b : Nat} {x y : Basin} (hx : tfind s.basins b = some x) (hy : y.st = x.st) :
    (s.setBasin b y).settled = s.settled := by
  have hstrict : (s.setBasin b y).strictEff = s.strictEff := by
    unfold strictEff
    rw [show (s.setBasin b y).basins = tset s.basins b y from rfl, any_tset hx (by rw [hy])]
    rfl
  show (s.handled && (bitOf _ 8 == (s.setBasin b y).strictEff)) = _
  rw [hstrict]
  rfl

theorem tget_eq_of_tfind {α : Type} (d : Nat → α) (t : Tab α) (k : Nat) : tget d t k = (tfind t k).getD (d k) := by
  induction t with
  | nil => rfl
  | cons e t ih =>
    obtain ⟨j, a⟩ := e
    simp only [tget, tfind]
    split
    · rfl
    · exact ih

/-- A basin with a fetched entry is listed. -/
theorem basin_listed {b : Nat} {w : List Byte} {rest : List (List Byte)} (h : (s.basin b).f0 = w :: rest) :
    tfind s.basins b = some (s.basin b) := by
  unfold basin at h ⊢
  rw [tget_eq_of_tfind] at h ⊢
  cases hf : tfind s.basins b with
  | none =>
    rw [hf] at h
    cases h
  | some x => rfl

/-! ## Codewords of the list -/

/-- A codeword that is not in the list joins it. -/
def addCw (c : TxCw) (s : State) : State := s.onTx fun t => { t with cws := t.cws ++ [c], nextId := t.nextId + 1 }

/-- The codeword of a descriptor with its entry of the allocation list (03 R82). -/
def newCw (s : State) (b : Nat) (e : List Byte) (alloc : DlAlloc) (st : CwSt) (zero : Option Nat) (posted : Bool) : TxCw where
  id := s.tx.nextId
  basin := b
  d := dlDescOf e
  alloc := alloc
  st := st
  blocks := []
  bits := []
  zeroFrom := zero
  late := []
  posted := posted

theorem setCw_addCw {c c' : TxCw} (hid : c'.id = c.id) (h : ∀ k ∈ s.tx.cws, k.id ≠ c.id) : (s.addCw c).setCw c' = s.addCw c' := by
  have hcws : (s.tx.cws ++ [c]).map (fun x => if x.id = c'.id then c' else x) = s.tx.cws ++ [c'] := by
    have hkept : s.tx.cws.map (fun x => if x.id = c'.id then c' else x) = s.tx.cws :=
      (List.map_congr_left fun k hk => if_neg (hid ▸ h k hk)).trans (List.map_id _)
    rw [List.map_append, hkept, List.map_cons, List.map_nil, if_pos hid.symm]
  exact congrArg (fun l => s.onTx fun t => { t with cws := l, nextId := t.nextId + 1 }) hcws

theorem setCw_single {c c' : TxCw} (hs : s.tx.cws = [c]) (hid : c'.id = c.id) : s.setCw c' = s.onTx fun t => { t with cws := [c'] } := by
  simp only [setCw, onTx, hs, List.map_cons, List.map_nil, hid, if_true]

theorem cwOf_single {c : TxCw} (hs : s.tx.cws = [c]) : s.cwOf c.id = some c := by
  simp only [cwOf, hs, List.find?_cons, beq_self_eq_true]

theorem cwOf_addCw {c : TxCw} (h : ∀ k ∈ s.tx.cws, k.id ≠ c.id) : (s.addCw c).cwOf c.id = some c := by
  have hnone : s.tx.cws.find? (fun k => k.id == c.id) = none := List.find?_eq_none.2 fun k hk => by simpa using h k hk
  show (s.tx.cws ++ [c]).find? _ = _
  rw [List.find?_append, hnone]
  simp

/-- A codeword of another rank's encoders has no blocks here (03 R83). -/
theorem takeCw_otherRank {c : TxCw} (h : c.d.encRank ≠ s.groupRank) : s.takeCw c = s.setCw { c with st := .taken } := by
  unfold takeCw
  exact if_pos h

/-! ## The encoders' queues -/

/-- A codeword without blocks gives the encoders nothing. -/
theorem queueBlocks_noBlocks {c : TxCw} {id : Nat} (h : s.cwOf id = some c) (hb : c.blocks = []) : s.queueBlocks [id] = s := by
  simp only [queueBlocks, List.zipIdx_cons, List.zipIdx_nil, List.foldl_cons, List.foldl_nil, h, hb]

/-- The encoder of a block takes it to the end of its queue. -/
def pushBlock (s : State) (x : (Nat × (Nat × Nat)) × Nat) : State :=
  match s.encoderFor (x.2 % 8) with
  | some e => s.onTx fun t => { t with queues := tset t.queues e (tget (fun _ => []) t.queues e ++ [x.1.2]) }
  | none => s

/-- Giving out blocks changes the queues alone. -/
theorem pushBlocks_eq (l : List ((Nat × (Nat × Nat)) × Nat)) (s : State) :
    ∃ q, l.foldl pushBlock s = s.onTx fun t => { t with queues := q } := by
  induction l generalizing s with
  | nil => exact ⟨s.tx.queues, rfl⟩
  | cons x l ih =>
    have hx : ∃ q, s.pushBlock x = s.onTx fun t => { t with queues := q } := by
      unfold pushBlock
      split
      · exact ⟨_, rfl⟩
      · exact ⟨s.tx.queues, rfl⟩
    obtain ⟨q, hq⟩ := hx
    obtain ⟨q', hq'⟩ := ih (s.pushBlock x)
    exact ⟨q', by rw [List.foldl_cons, hq', hq]; rfl⟩

/-- With every encoder in service block `k` goes to encoder k mod 8 (03 R85). -/
theorem encQueue_pushBlock (hon : ∀ j, j < 8 → s.encoderOn j = true) (x : (Nat × (Nat × Nat)) × Nat) (j : Nat) :
    (s.pushBlock x).encQueue j = s.encQueue j ++ if x.2 % 8 = j then [x.1.2] else [] := by
  have hfor : s.encoderFor (x.2 % 8) = some (x.2 % 8) := by
    have hself : (x.2 % 8 + 0) % 8 = x.2 % 8 := by omega
    rw [encoderFor, List.range_succ_eq_map, List.map_cons, hself, List.find?_cons, hon _ (by omega)]
  simp only [pushBlock, hfor]
  show tget _ (tset s.tx.queues (x.2 % 8) _) j = tget _ s.tx.queues j ++ _
  split
  · next h => rw [h, tget_tset_self]
  · next h => rw [tget_tset_ne _ _ _ (Ne.symm h), List.append_nil]

theorem encQueue_pushBlocks (hon : ∀ j, j < 8 → s.encoderOn j = true) (l : List ((Nat × (Nat × Nat)) × Nat)) (j : Nat) :
    (l.foldl pushBlock s).encQueue j = s.encQueue j ++ (l.filter fun x => x.2 % 8 == j).map fun x => x.1.2 := by
  induction l generalizing s with
  | nil => simp
  | cons x l ih =>
    obtain ⟨q, hq⟩ := pushBlocks_eq [x] s
    have hon' : ∀ j, j < 8 → (s.pushBlock x).encoderOn j = true := fun j hj => by
      rw [show s.pushBlock x = _ from hq]; exact hon j hj
    rw [List.foldl_cons, ih hon', encQueue_pushBlock hon, List.append_assoc, List.filter_cons]
    by_cases hx : x.2 % 8 = j <;> simp [hx]

/-- The blocks of one codeword are given out in the order of their first symbols, then of their numbers (03 R85). -/
theorem queueBlocks_single {c : TxCw} (h : s.cwOf c.id = some c) (hsorted : c.blocks.Pairwise fun y z => y.first ≤ z.first) :
    ∃ key : Nat → Nat, s.queueBlocks [c.id] = ((List.range c.blocks.length).map fun i => ((key i, (c.id, i)), i)).foldl pushBlock s := by
  have hkeys : c.blocks.zipIdx.foldl (fun (l : List (Nat × (Nat × Nat))) (b : TxBlk × Nat) =>
      insertKey (b.1.first * 2 ^ 32 + 0 * 2 ^ 16 + b.2) (c.id, b.2) l) [] =
      c.blocks.zipIdx.map fun b => (b.1.first * 2 ^ 32 + 0 * 2 ^ 16 + b.2, (c.id, b.2)) := by
    refine foldl_insertKey_sorted (fun b : TxBlk × Nat => b.1.first * 2 ^ 32 + 0 * 2 ^ 16 + b.2) (fun b => (c.id, b.2)) [] ?_ (by simp)
    rw [List.pairwise_iff_getElem] at hsorted ⊢
    intro i j hi hj hij
    have := hsorted i j (by simpa using hi) (by simpa using hj) hij
    simp only [List.getElem_zipIdx]
    omega
  refine ⟨fun i => ((c.blocks[i]?.map (·.first)).getD 0) * 2 ^ 32 + 0 * 2 ^ 16 + i, ?_⟩
  have hlist : (c.blocks.zipIdx.map fun b => (b.1.first * 2 ^ 32 + 0 * 2 ^ 16 + b.2, (c.id, b.2))).zipIdx =
      (List.range c.blocks.length).map fun i =>
        ((((c.blocks[i]?.map (·.first)).getD 0) * 2 ^ 32 + 0 * 2 ^ 16 + i, (c.id, i)), i) := by
    refine List.ext_getElem (by simp) fun i hi hi' => ?_
    have : i < c.blocks.length := by simpa using hi
    simp [this]
  rw [← hlist, ← hkeys]
  simp only [queueBlocks, List.zipIdx_cons, List.zipIdx_nil, List.foldl_cons, List.foldl_nil, h]
  rfl

/-- Giving out blocks changes the queues alone. -/
theorem queueBlocks_eq (ids : List Nat) : ∃ q, s.queueBlocks ids = s.onTx fun t => { t with queues := q } := pushBlocks_eq _ s

/-- The queues that the blocks of one codeword make where every encoder is in service. -/
theorem encQueue_queueBlocks {c : TxCw} (h : s.cwOf c.id = some c) (hon : ∀ j, j < 8 → s.encoderOn j = true)
    (hsorted : c.blocks.Pairwise fun y z => y.first ≤ z.first) (j : Nat) :
    (s.queueBlocks [c.id]).encQueue j =
      s.encQueue j ++ ((List.range c.blocks.length).filter (· % 8 == j)).map fun i => (c.id, i) := by
  obtain ⟨key, hq⟩ := queueBlocks_single h hsorted
  rw [hq, encQueue_pushBlocks hon, List.filter_map, List.map_map]
  rfl


/-! ## Descriptors (03 R82, R84) -/

/-- A basin whose first fetched descriptor is taken. -/
def takenDl (b : Nat) (rest : List (List Byte)) (s : State) : State := s.setBasin b { s.basin b with f0 := rest }

theorem takenDl_settled {b : Nat} {w : List Byte} {rest : List (List Byte)} (h : (s.basin b).f0 = w :: rest) :
    (s.takenDl b rest).settled = s.settled := setBasin_settled (basin_listed h) rfl

/-- The place of basin `b`'s first fetched descriptor in its submission ring (13 R508). -/
def dlIndex (b : Nat) (s : State) : Nat := ((s.basin b).sq0.cons + 65536 - (s.basin b).f0.length % 65536) % 65536

section
variable {b : Fin 8} {alloc : DlAlloc}

theorem exec_dlCodewordDescriptor : exec (.dlCodewordDescriptor b alloc) s = execDlCodewordDescriptor b alloc s := rfl

theorem dlCodewordDescriptor_none (hr : s.ready = true) (h : (s.basin b.val).f0 = []) :
    exec (.dlCodewordDescriptor b alloc) s = .next s.clearOuts := by
  rw [exec_dlCodewordDescriptor]
  refine run_unchanged hr ?_
  simp only [takeEntry, clearOuts_basin_eq, h]

/-- The command on the first fetched descriptor. -/
theorem dlCodewordDescriptor_run {w : List Byte} {rest : List (List Byte)} (h : (s.basin b.val).f0 = w :: rest) :
    ∃ f : State → State, exec (.dlCodewordDescriptor b alloc) s = s.run f ∧
      f s.clearOuts = (s.clearOuts.takenDl b.val rest).takeDl b.val (s.dlIndex b.val) w alloc := by
  rw [exec_dlCodewordDescriptor]
  refine ⟨_, rfl, ?_⟩
  simp only [takeEntry, clearOuts_basin_eq, dlIndex, h]
  rfl

end

section
variable {b i : Nat} {e : List Byte} {alloc : DlAlloc}

theorem takeDl_bad (h : (dlDescOf e).bad = true) : s.takeDl b i e alloc =
    s.complete b (completionBytes 1 3 (dlDescOf e).tag (dlDescOf e).slot [] 0 b) := by
  unfold takeDl
  exact if_pos h

theorem takeDl_posted (h : (dlDescOf e).bad = false) (hl : s.launchOf (dlDescOf e).carrier (dlDescOf e).slot = none) :
    s.takeDl b i e alloc = s.addCw (s.newCw b e alloc .posted none false) := by
  simp only [takeDl, h, hl, Bool.false_eq_true, if_false]
  rfl

variable {l : TxLaunch} (h : (dlDescOf e).bad = false) (hl : s.launchOf (dlDescOf e).carrier (dlDescOf e).slot = some l)
include h hl

/-- A codeword that the host has posted after its slot's encode launch is late (03 R84). -/
theorem takeDl_late (hi : ¬(l.prods.getD b 0 + 65535 - i) % 65536 < 32768) : s.takeDl b i e alloc =
    (((s.addCw (s.newCw b e alloc .taken (some 0) true)).count Reg.TXP_TB_LATE_CNT 1).event Reg.TXP_STATUS Ev.TXP_TB_LATE).complete b
      (completionBytes 1 1 (dlDescOf e).tag (dlDescOf e).slot [] 0 b) := by
  simp only [takeDl, h, hl, Bool.false_eq_true, if_false, if_neg hi]
  rfl

/-- A codeword posted before its slot's encode launch and fetched after it is taken at once (03 R84). -/
theorem takeDl_taken (hi : (l.prods.getD b 0 + 65535 - i) % 65536 < 32768) : s.takeDl b i e alloc =
    ((s.addCw (s.newCw b e alloc .posted none false)).takeCw (s.newCw b e alloc .posted none false)).queueBlocks [s.tx.nextId] := by
  simp only [takeDl, h, hl, Bool.false_eq_true, if_false, if_pos hi]
  rfl

theorem takeDl_otherRank (hi : (l.prods.getD b 0 + 65535 - i) % 65536 < 32768) (hrank : (dlDescOf e).encRank ≠ s.groupRank)
    (hid : ∀ k ∈ s.tx.cws, k.id ≠ s.tx.nextId) :
    s.takeDl b i e alloc = s.addCw (s.newCw b e alloc .taken none false) := by
  have htake : (s.addCw (s.newCw b e alloc .posted none false)).takeCw (s.newCw b e alloc .posted none false) =
      s.addCw (s.newCw b e alloc .taken none false) :=
    (takeCw_otherRank (s := s.addCw _) hrank).trans (setCw_addCw rfl hid)
  rw [takeDl_taken h hl hi, htake]
  exact queueBlocks_noBlocks (cwOf_addCw (c := s.newCw b e alloc .taken none false) hid) rfl

end

theorem addCw_settled (c : TxCw) : (s.addCw c).settled = s.settled := onTx_settled _

/-- A late codeword's counter and event are neither collectors nor DET.STRICT. -/
theorem late_settled : ((s.count Reg.TXP_TB_LATE_CNT 1).event Reg.TXP_STATUS Ev.TXP_TB_LATE).settled = s.settled := by
  rw [event_settled _ (by decide), count_settled _ (by decide)]

section
variable {b : Fin 8} {alloc : DlAlloc} {w : List Byte} {rest : List (List Byte)} (hr : s.ready = true)
  (hw : (s.basin b.val).f0 = w :: rest)
include hr hw

/-- A command that adds a codeword to the list and does no more. -/
theorem dlCodewordDescriptor_adds {c : TxCw}
    (h : (s.clearOuts.takenDl b.val rest).takeDl b.val (s.dlIndex b.val) w alloc = (s.clearOuts.takenDl b.val rest).addCw c) :
    exec (.dlCodewordDescriptor b alloc) s = .next ((s.clearOuts.takenDl b.val rest).addCw c) := by
  obtain ⟨f, hexec, hf⟩ := dlCodewordDescriptor_run (b := b) (alloc := alloc) hw
  rw [hexec]
  refine run_eq hr (hf.trans h) ?_ rfl rfl
  rw [addCw_settled, takenDl_settled (s := s.clearOuts) hw, clearOuts_settled]

/-- A command that ends with the completion of a codeword. -/
theorem dlCodewordDescriptor_completes {v : State} {entry : List Byte} (hv : v.settled = (s.clearOuts.takenDl b.val rest).settled)
    (hp : v.pending = s.pending)
    (h : (s.clearOuts.takenDl b.val rest).takeDl b.val (s.dlIndex b.val) w alloc = v.complete b.val entry) :
    exec (.dlCodewordDescriptor b alloc) s = .next (v.complete b.val entry).settle := by
  obtain ⟨f, hexec, hf⟩ := dlCodewordDescriptor_run (b := b) (alloc := alloc) hw
  rw [takenDl_settled (s := s.clearOuts) hw, ready_settled hr] at hv
  rw [hexec, run_untouched hr (settled_unitsFenced hv) hp (by rw [hf, h]; exact .complete ..), hf, h]

end

/-! ## The encode launch (03 R83 to R86) -/

/-- The encode launch of a slot joins those that have come (03 R84). -/
def addLaunch (mu : Nat) (slot : SlotId) (s : State) : State := s.onTx fun t => { t with
  launched := (⟨mu, slotField slot, (List.range 8).map fun b => (s.basin b).sq0.prod⟩
    :: t.launched.filter fun x => !(x.mu == mu && x.slot == slotField slot)).take 160 }

theorem encodeSlot_notDue {mu : Nat} {slot : SlotId} (h : s.encodeDue mu slot = false) : s.encodeSlot mu slot = s := by
  simp only [encodeSlot, h, Bool.not_false, if_true]

section
variable {mu : Nat} {slot : SlotId} (hdue : s.encodeDue mu slot = true)
include hdue

theorem encodeSlot_nonePosted
    (h : ∀ c ∈ s.tx.cws, c.d.slot = slotField slot → s.muOf c.d.carrier = mu → c.st ≠ .posted) :
    s.encodeSlot mu slot = s.addLaunch mu slot := by
  have hnone : (s.tx.cws.filter fun c => c.d.slot == slotField slot && s.muOf c.d.carrier == mu && c.st == .posted) = [] := by
    refine List.filter_eq_nil_iff.2 fun c hc => ?_
    simp only [Bool.and_eq_true, beq_iff_eq, not_and, and_imp]
    exact h c hc
  simp only [encodeSlot, hdue, Bool.not_true, Bool.false_eq_true, if_false, hnone, List.foldl_nil, List.map_nil]
  rfl

theorem encodeSlot_single {c : TxCw} (hs : s.tx.cws = [c]) (hslot : c.d.slot = slotField slot) (hmu : s.muOf c.d.carrier = mu)
    (hst : c.st = .posted) : s.encodeSlot mu slot = ((s.addLaunch mu slot).takeCw c).queueBlocks [c.id] := by
  have hone : (s.tx.cws.filter fun c => c.d.slot == slotField slot && s.muOf c.d.carrier == mu && c.st == .posted) = [c] := by
    simp [hs, hslot, hmu, hst]
  simp only [encodeSlot, hdue, Bool.not_true, Bool.false_eq_true, if_false, hone, List.foldl_cons, List.foldl_nil, List.map_cons,
    List.map_nil]
  rfl

end

/-! The payload -/

section
variable {req basin n addr a : Nat} (ha : (s.place addr).1 = .mem a) (hl : n ≤ (s.place addr).2)
include ha hl

/-- A read that lies whole in memory without poison gives the bytes stored and changes nothing (07 R244). -/
theorem readG_mem (hp : s.poisoned a n = []) : readG req basin n s addr n = (s, readBytes s.mem a n, true) := by
  cases n with
  | zero => rfl
  | succ n =>
    have hread : s.readMem a (n + 1) = (s, readBytes s.mem a (n + 1), true) := by
      simp only [readMem, hp]
      rfl
    have hrest : readG req basin n s (addr + (n + 1)) 0 = (s, [], true) := by cases n <;> rfl
    simp only [readG, Nat.succ_ne_zero, if_false, ha, Nat.min_eq_left hl, hread, if_true, Nat.sub_self, hrest, List.append_nil]

/-- A read that meets poison ends in error, and its words are counted (07 R244). -/
theorem readG_poisoned (hn : 0 < n) (hp : s.poisoned a n ≠ []) :
    (readG req basin n s addr n).1 = s.uncorrRead a (s.poisoned a n) ∧ (readG req basin n s addr n).2.2 = false := by
  obtain ⟨m, rfl⟩ : ∃ m, n = m + 1 := ⟨n - 1, by omega⟩
  have hbad : (s.poisoned a (m + 1)).isEmpty = false := by simpa using hp
  simp only [readG, Nat.succ_ne_zero, if_false, ha, Nat.min_eq_left hl, readMem, hbad, Bool.false_eq_true, and_self]

end

theorem latchIf_tx (c : Bool) (a : Nat) (v : Word) : (s.latchIf c a v).tx = s.tx := by
  unfold latchIf
  split <;> rfl

theorem uncorrRead_tx (a : Nat) (ks : List Nat) : (s.uncorrRead a ks).tx = s.tx := by
  unfold uncorrRead
  extract_lets w q c
  split
  · rfl
  · split
    · rw [event_tx, count_tx, latchIf_tx, latchIf_tx]
    · rw [event_tx, count_tx, latchIf_tx]

theorem event_unitsFenced {a b : Nat} (ha : a ∉ fencingBits.map (·.1)) (h : s.unitsFenced = true) : (s.event a b).unitsFenced = true := by
  refine unitsFenced_iff.2 fun x hx hb => unitsFenced_iff.1 h x hx ?_
  have hx1 : x.1 ∈ fencingBits.map (·.1) := List.mem_map_of_mem hx
  rwa [reg_event s a b (by rintro rfl; exact ha hx1) (codeRegs_not_log (List.mem_append_left _ hx1))] at hb

/-- The bits of a codeword: its payload and the transport block's CRC (03 R83). -/
def cwBits (c : TxCw) (bs : List Byte) : List Bool :=
  unpackMsb c.d.tbs bs ++
    if 3824 < c.d.tbs then bitsOf 24 (crc24a (unpackMsb c.d.tbs bs)) else bitsOf 16 (crc16 (unpackMsb c.d.tbs bs))

/-- A taken codeword with its payload from address `a` of this device's memory, its CRC and its code blocks (03 R83, R85). -/
def codedCw (c : TxCw) (a : Nat) (s : State) : TxCw :=
  { c with st := .taken, bits := cwBits c (readBytes s.mem a ((c.d.tbs + 7) / 8)), blocks := txBlocks c.d c.alloc }

/-- A taken codeword whose payload read has faulted: zero symbols from the symbol being built on, and completed (03 R86). -/
def zeroedCw (c : TxCw) (s : State) : TxCw :=
  { c with st := .taken, zeroFrom := some (s.builtSym c.d.carrier c.d.slot), posted := true }

section
variable {c : TxCw} {a : Nat} (hrank : c.d.encRank = s.groupRank) (ha : (s.place c.d.source).1 = .mem a)
  (hl : (c.d.tbs + 7) / 8 ≤ (s.place c.d.source).2)
include hrank ha hl

/-- A codeword of this device's encoders is taken with its payload, CRC and code blocks (03 R83, R84). -/
theorem takeCw_payload (hp : s.poisoned a ((c.d.tbs + 7) / 8) = []) : s.takeCw c = s.setCw (s.codedCw c a) := by
  have hread := readG_mem (req := reqWeir 0) (basin := c.basin + 8) ha hl hp
  simp only [takeCw, hrank, ne_eq, not_true, if_false, hread, if_true]
  rfl

/-- A codeword whose payload read faults is sent as zero symbols from the symbol being built on (03 R86). -/
theorem takeCw_fault (hn : 0 < (c.d.tbs + 7) / 8) (hp : s.poisoned a ((c.d.tbs + 7) / 8) ≠ []) :
    s.takeCw c =
      (((s.uncorrRead a (s.poisoned a ((c.d.tbs + 7) / 8))).event Reg.TXP_STATUS Ev.TXP_TX_FAULT).setCw (s.zeroedCw c)).complete c.basin
        (completionBytes 1 2 c.d.tag c.d.slot [] 0 c.basin) := by
  obtain ⟨hstate, hbad⟩ := readG_poisoned (req := reqWeir 0) (basin := c.basin + 8) ha hl hn hp
  have hbuilt : ((s.uncorrRead a (s.poisoned a ((c.d.tbs + 7) / 8))).event Reg.TXP_STATUS Ev.TXP_TX_FAULT).builtSym c.d.carrier c.d.slot =
      s.builtSym c.d.carrier c.d.slot := by
    simp only [builtSym, event_tx, uncorrRead_tx]
  simp only [takeCw, hrank, ne_eq, not_true, if_false, hstate, hbad, Bool.false_eq_true, hbuilt]
  rfl

end

/-! ## Encoders (08 R309) -/

section
variable {e id i : Nat} {rest : List (Nat × Nat)}

/-- An encoder's block leaves its queue (08 R309). -/
def popQueue (e : Nat) (rest : List (Nat × Nat)) (s : State) : State := s.onTx fun t => { t with queues := tset t.queues e rest }

theorem encodeDone_idle (h : s.encQueue e = []) : s.encodeDone e = s := by
  simp only [encodeDone, h]

theorem encodeDone_gone (h : s.encQueue e = (id, i) :: rest) (hc : ∀ c, s.cwOf id = some c → c.blocks[i]? = none) :
    s.encodeDone e = s.popQueue e rest := by
  have hcw : (s.onTx fun t => { t with queues := tset t.queues e rest }).cwOf id = s.cwOf id := rfl
  simp only [encodeDone, h, hcw]
  cases hs : s.cwOf id with
  | none => rfl
  | some c => simp only [hc c hs]; rfl

/-- Block `i` of a codeword coded: rate-matched, interleaved and scrambled from the bits before it (08 R309). -/
def encodedCw (c : TxCw) (i : Nat) (blk : TxBlk) : TxCw :=
  { c with blocks := c.blocks.set i { blk with
    coded := some (encodeBlk c.d.segm c.d.rv c.d.qm blk.e (c.d.rnti * 2 ^ 15 + c.d.q * 2 ^ 14 + c.d.nid)
      (fun x => (c.blocks.take i).foldl (fun n x => n + x.e) 0 + x) ((cutBlocks c.d.segm c.bits).getD i [])) } }

theorem encodeDone_block {c : TxCw} {blk : TxBlk} (h : s.encQueue e = (id, i) :: rest) (hc : s.cwOf id = some c)
    (hb : c.blocks[i]? = some blk) : s.encodeDone e = s.onTx fun t => { t with
      queues := tset t.queues e rest, cws := t.cws.map fun y => if y.id = c.id then encodedCw c i blk else y } := by
  have hcw : (s.onTx fun t => { t with queues := tset t.queues e rest }).cwOf id = some c := hc
  simp only [encodeDone, h, hcw, hb]
  rfl

end

/-! ## The commands -/

section
variable {mu : Fin 4} {slot : SlotId} (hr : s.ready = true)
include hr

theorem encodeLaunch_notDue (h : s.encodeDue mu.val slot = false) : exec (.encodeLaunch mu slot) s = .next s.clearOuts :=
  run_unchanged hr (encodeSlot_notDue (s := s.clearOuts) h)

/-- A command that changes the transmit path alone answers the device with the path so changed. -/
theorem run_onTx {f : State → State} {g : Tx → Tx} (h : f s.clearOuts = s.clearOuts.onTx g) : s.run f = .next (s.clearOuts.onTx g) :=
  run_eq hr h ((onTx_settled g).trans (clearOuts_settled s)) rfl rfl

variable (hdue : s.encodeDue mu.val slot = true)
include hdue

theorem encodeLaunch_nonePosted
    (h : ∀ c ∈ s.tx.cws, c.d.slot = slotField slot → s.muOf c.d.carrier = mu.val → c.st ≠ .posted) :
    exec (.encodeLaunch mu slot) s = .next (s.clearOuts.addLaunch mu.val slot) :=
  run_onTx hr (encodeSlot_nonePosted (s := s.clearOuts) hdue h)

variable {c : TxCw} (hs : s.tx.cws = [c]) (hslot : c.d.slot = slotField slot) (hmu : s.muOf c.d.carrier = mu.val) (hst : c.st = .posted)
include hs hslot hmu hst

/-- The launch takes a codeword of another rank's encoders without blocks (03 R83). -/
theorem encodeLaunch_otherRank (hb : c.blocks = []) (hrank : c.d.encRank ≠ s.groupRank) : exec (.encodeLaunch mu slot) s =
    .next ((s.clearOuts.addLaunch mu.val slot).onTx fun t => { t with cws := [{ c with st := .taken }] }) := by
  have htake : (s.clearOuts.addLaunch mu.val slot).takeCw c =
      (s.clearOuts.addLaunch mu.val slot).onTx fun t => { t with cws := [{ c with st := .taken }] } :=
    (takeCw_otherRank (s := s.clearOuts.addLaunch mu.val slot) hrank).trans (setCw_single (s := s.clearOuts.addLaunch _ _) hs rfl)
  refine run_onTx hr (f := encodeSlot mu.val slot) (g := fun t => { t with
    launched := (s.clearOuts.addLaunch mu.val slot).tx.launched, cws := [{ c with st := .taken }] }) ?_
  rw [encodeSlot_single (s := s.clearOuts) hdue hs hslot hmu hst, htake]
  exact queueBlocks_noBlocks (cwOf_single (c := { c with st := .taken }) rfl) hb

variable {a : Nat} (hrank : c.d.encRank = s.groupRank) (ha : (s.place c.d.source).1 = .mem a)
  (hl : (c.d.tbs + 7) / 8 ≤ (s.place c.d.source).2)
include hrank ha hl

/-- The launch takes a codeword with its payload, and its blocks join the encoders' queues (03 R83 to R85). -/
theorem encodeLaunch_payload (hp : s.poisoned a ((c.d.tbs + 7) / 8) = []) : ∃ t, exec (.encodeLaunch mu slot) s = .next t ∧
    t.tx.cws = [s.codedCw c a] ∧ t.tx.launched = (s.addLaunch mu.val slot).tx.launched ∧ t.mem = s.mem ∧
    ((∀ j, j < 8 → s.encoderOn j = true) → (txBlocks c.d c.alloc).Pairwise (fun y z => y.first ≤ z.first) → ∀ j, j < 8 →
      t.encQueue j = s.encQueue j ++ ((List.range (txBlocks c.d c.alloc).length).filter (· % 8 == j)).map fun i => (c.id, i)) := by
  generalize hv : ((s.clearOuts.addLaunch mu.val slot).onTx fun t => { t with cws := [s.codedCw c a] }) = v
  have htake : (s.clearOuts.addLaunch mu.val slot).takeCw c = v :=
    ((takeCw_payload (s := s.clearOuts.addLaunch mu.val slot) hrank ha hl hp).trans
      (setCw_single (s := s.clearOuts.addLaunch mu.val slot) (c' := s.codedCw c a) hs rfl)).trans hv
  have hcws : v.tx.cws = [s.codedCw c a] := by rw [← hv]; rfl
  obtain ⟨q, hq⟩ := queueBlocks_eq (s := v) [c.id]
  refine ⟨v.queueBlocks [c.id], ?_, ?_, ?_, ?_, fun hon hsorted j _ => ?_⟩
  · rw [hq, ← hv]
    refine run_onTx hr (f := encodeSlot mu.val slot) (g := fun t => { t with
      launched := (s.clearOuts.addLaunch mu.val slot).tx.launched, cws := [s.codedCw c a], queues := q }) ?_
    rw [encodeSlot_single (s := s.clearOuts) hdue hs hslot hmu hst, htake, hq, ← hv]
    rfl
  · rw [hq]; exact hcws
  · rw [hq, ← hv]; rfl
  · rw [hq, ← hv]; rfl
  · have hcw : v.cwOf (s.codedCw c a).id = some (s.codedCw c a) := cwOf_single hcws
    have hvon : ∀ j, j < 8 → v.encoderOn j = true := by rw [← hv]; exact hon
    have hvq : v.encQueue j = s.encQueue j := by rw [← hv]; rfl
    rw [← hvq]
    exact encQueue_queueBlocks hcw hvon hsorted j

/-- A payload read that faults sends the codeword as zero symbols and completes it (03 R86). -/
theorem encodeLaunch_fault (hb : c.blocks = []) (hn : 0 < (c.d.tbs + 7) / 8) (hp : s.poisoned a ((c.d.tbs + 7) / 8) ≠ []) :
    ∃ t, exec (.encodeLaunch mu slot) s = .next t ∧
      t.tx.cws = [s.zeroedCw c] ∧ bitOf (t.reg Reg.TXP_STATUS).toNat Ev.TXP_TX_FAULT = true := by
  generalize hread : (s.clearOuts.addLaunch mu.val slot).uncorrRead a (s.poisoned a ((c.d.tbs + 7) / 8)) = r
  generalize hv : (r.event Reg.TXP_STATUS Ev.TXP_TX_FAULT).setCw (s.zeroedCw c) = v
  have hr0 : Untouched s r := by
    rw [← hread]
    exact .after (.uncorrRead ..) rfl rfl rfl rfl
  have htake : (s.clearOuts.addLaunch mu.val slot).takeCw c = v.complete c.basin (completionBytes 1 2 c.d.tag c.d.slot [] 0 c.basin) := by
    rw [← hv, ← hread]
    exact takeCw_fault (s := s.clearOuts.addLaunch mu.val slot) hrank ha hl hn hp
  have hv' : v = (r.event Reg.TXP_STATUS Ev.TXP_TX_FAULT).onTx fun t => { t with cws := [s.zeroedCw c] } := by
    rw [← hv]
    exact setCw_single (s := r.event _ _) (hr0.cws.trans hs) rfl
  have hcws : v.tx.cws = [s.zeroedCw c] := by rw [hv']; rfl
  have hdone : Untouched v (s.clearOuts.encodeSlot mu.val slot) := by
    have hfind : (v.complete c.basin (completionBytes 1 2 c.d.tag c.d.slot [] 0 c.basin)).cwOf c.id = some (s.zeroedCw c) :=
      cwOf_single ((Untouched.complete ..).cws.trans hcws)
    rw [encodeSlot_single (s := s.clearOuts) hdue hs hslot hmu hst, htake, queueBlocks_noBlocks hfind hb]
    exact .complete ..
  have hfenced : v.unitsFenced = true := by
    rw [hv']
    exact event_unitsFenced (by decide) (hr0.unitsFenced (settled_unitsFenced (ready_iff.1 hr).2.1))
  have hend := hdone.settle hfenced
  refine ⟨_, run_untouched hr hfenced (by rw [hv']; exact hr0.pending) hdone, hend.cws.trans hcws, ?_⟩
  rw [hend.regs _ (by decide), hv']
  show bitOf ((r.event _ _).reg _).toNat _ = true
  rw [reg_event_self _ (by decide)]
  exact bitOf_evSet (by decide)

end
end State

open State

/-- Settles O51: the three commands by their cases, one lemma on the command's answer for each clause. -/
theorem codewordsEncoded : Obligations.CodewordsEncoded := by
  intro s b e mu slot alloc hr u x sf launched
  refine ⟨dlCodewordDescriptor_none hr, fun w rest hw => ?_, encodeLaunch_notDue hr, encodeLaunch_nonePosted hr,
    fun c hdue hs hslot hmu hst hb => ⟨encodeLaunch_otherRank hr hdue hs hslot hmu hst hb, fun a hrank ha hl hp => ?_,
      fun a hrank hn ha hl hp => ?_⟩, fun hq => ?_, fun id i rest hq => ⟨fun hc => ?_, fun c blk hc hblk => ?_⟩,
    encoderUncorr_fences e hr⟩
  · refine ⟨fun hbad => ?_, fun hbad hl => ?_, fun l hbad hl => ⟨fun hi => ?_, fun hi hrank hid => ?_⟩⟩
    · exact dlCodewordDescriptor_completes hr hw rfl rfl (takeDl_bad hbad)
    · exact dlCodewordDescriptor_adds hr hw (takeDl_posted (s := s.clearOuts.takenDl b.val rest) hbad hl)
    · exact dlCodewordDescriptor_completes hr hw (late_settled.trans (addCw_settled _)) rfl
        (takeDl_late (s := s.clearOuts.takenDl b.val rest) hbad hl hi)
    · exact dlCodewordDescriptor_adds hr hw (takeDl_otherRank (s := s.clearOuts.takenDl b.val rest) hbad hl hi hrank hid)
  · obtain ⟨t, ht, hcws, hlaunched, hmem, hqueues⟩ := encodeLaunch_payload hr hdue hs hslot hmu hst hrank ha hl hp
    exact ⟨t, s.codedCw c a, ht, hcws, hlaunched, rfl, rfl, hqueues, hmem⟩
  · obtain ⟨t, ht, hcws, hbit⟩ := encodeLaunch_fault hr hdue hs hslot hmu hst hrank ha hl hb hn hp
    exact ⟨t, _, ht, hcws, rfl, rfl, hb, rfl, hbit⟩
  · exact run_unchanged hr (encodeDone_idle (s := s.clearOuts) hq)
  · exact run_onTx hr (encodeDone_gone (s := s.clearOuts) hq hc)
  · exact run_onTx hr (encodeDone_block (s := s.clearOuts) hq hc hblk)

end Sys2Proof.Machine
end

section
/-! PROOFS. The units inside a core (04 R113 to R160): what the ends and starts of passes, element runs, program loads and scrubs
leave of the core, and that a command on one core answers that core changed and nothing else. -/
namespace Sys2Proof.Machine

theorem tset_tset {α : Type} (t : Tab α) (k : Nat) (v w : α) : tset (tset t k v) k w = tset t k w := by
  induction t with
  | nil => simp only [tset, Nat.lt_irrefl, if_false, if_true]
  | cons e t ih =>
    obtain ⟨j, a⟩ := e
    rcases Nat.lt_trichotomy k j with h | h | h
    · simp only [tset, if_pos h, Nat.lt_irrefl, if_false, if_true]
    · simp only [tset, h, Nat.lt_irrefl, if_false, if_true]
    · simp only [tset, if_neg (Nat.not_lt_of_gt h), if_neg (Nat.ne_of_gt h), ih]

/-! ## Tiles -/

namespace Tile

theorem put_word (t : Tile) (v : Word) {i j k l : Nat} (hk : k < 64) (hl : l < 64) :
    (t.put i k v).word j l = if j = i ∧ l = k then v else t.word j l := by
  unfold word put
  by_cases h : j = i ∧ l = k
  · obtain ⟨rfl, rfl⟩ := h
    rw [if_pos ⟨rfl, rfl⟩]
    exact tget_tset_self ..
  · rw [if_neg h]
    exact tget_tset_ne _ _ _ (by omega)

/-- Writes the first `n` words of a row. -/
def putRow (i n : Nat) (w : Nat → Word) (t : Tile) : Tile := (List.range n).foldl (fun t k => t.put i k (w k)) t

theorem putRow_succ (t : Tile) (i n : Nat) (w : Nat → Word) : t.putRow i (n + 1) w = (t.putRow i n w).put i n (w n) := by
  simp only [putRow, List.range_succ, List.foldl_append, List.foldl_cons, List.foldl_nil]

theorem putRow_word (t : Tile) (w : Nat → Word) {i j n k : Nat} (hn : n ≤ 64) (hk : k < 64) :
    (t.putRow i n w).word j k = if j = i ∧ k < n then w k else t.word j k := by
  induction n with
  | zero => simp only [Nat.not_lt_zero, and_false, if_false]; rfl
  | succ n ih =>
    rw [putRow_succ, put_word _ _ (by omega) hk, ih (by omega)]
    by_cases hkn : k = n
    · subst hkn
      simp only [and_true, Nat.lt_irrefl, and_false, if_false, Nat.lt_succ_self]
    · have : k < n + 1 ↔ k < n := by omega
      simp only [hkn, and_false, if_false, this]

theorem putRows_word {n j k : Nat} (w : Nat → Nat → Word) (hn : n ≤ 64) (hk : k < 64) (l : List Nat) (t : Tile) :
    (l.foldl (fun t i => t.putRow i n (w i)) t).word j k = if j ∈ l ∧ k < n then w j k else t.word j k := by
  induction l generalizing t with
  | nil => simp only [List.not_mem_nil, false_and, if_false, List.foldl_nil]
  | cons i l ih =>
    rw [List.foldl_cons, ih, putRow_word _ _ hn hk]
    by_cases hj : j = i
    · subst hj
      by_cases hkn : k < n <;> simp [hkn]
    · simp [hj]

end Tile

namespace Core

theorem tile_setTile_self (c : Core) (t : Nat) (x : Tile) : (c.setTile t x).tile t = x := tget_tset_self ..

theorem tile_setTile_ne (c : Core) {t j : Nat} (x : Tile) (h : j ≠ t) : (c.setTile t x).tile j = c.tile j := tget_tset_ne _ _ _ h

theorem markTile_st (c : Core) {t j : Nat} {st : TileState} (h : j = t ∨ (c.tile j).st = st) : ((c.markTile t st).tile j).st = st := by
  by_cases hj : j = t
  · rw [hj, markTile, tile_setTile_self]
  · rw [markTile, tile_setTile_ne _ _ hj]
    exact h.resolve_left hj

/-- Every tile that is marked stands in the state it is marked with. -/
theorem marks_st {st : TileState} {j : Nat} (ts : List Nat) (c : Core) (h : j ∈ ts ∨ (c.tile j).st = st) :
    ((ts.foldl (fun c t => c.markTile t st) c).tile j).st = st := by
  induction ts generalizing c with
  | nil => exact h.resolve_left List.not_mem_nil
  | cons t ts ih =>
    refine ih _ ?_
    rcases h with h | h
    · rcases List.mem_cons.1 h with h | h
      · exact .inr (markTile_st c (.inl h))
      · exact .inl h
    · exact .inr (markTile_st c (.inr h))

/-! ## Local memory without an error -/

theorem lmReadFault_clean {c : Core} (h : c.lmErr = []) (off n bundle : Nat) : c.lmReadFault off n bundle = c := by
  have hbad : c.lmBad off n = [] := by rw [lmBad, h]; rfl
  rw [lmReadFault, hbad]

theorem writeLm_clean {c : Core} (h : c.lmErr = []) (off bundle : Nat) (bs : List Byte) :
    c.writeLm off bundle bs = { c with lm := writeBytes c.lm off bs } := by
  have hbad : c.lmBad off bs.length = [] := by rw [lmBad, h]; rfl
  simp only [writeLm, hbad, h, List.filter_nil]

end Core

/-! ## Passes (04 R117 to R134) -/

/-- The tile of a pass with the rows that the pass computes (04 R118). -/
def PassRun.written (x : PassRun) (tile : Tile) : Tile :=
  (x.rows tile).foldl (fun t r => t.putRow r.1 x.width fun k => (r.2.getD k (0, false)).1) tile

/-- A pass writes the word it computes for each column of each lane that runs, and no other word (04 R118, R119). -/
theorem PassRun.written_word (x : PassRun) (tile : Tile) {i k : Nat} (hw : x.width ≤ 64) (hk : k < 64) :
    (x.written tile).word i k = if i ∈ x.lanes ∧ k < x.width then (x.word (tile.word i k) i k).1 else tile.word i k := by
  rw [written, rows, List.foldl_map, Tile.putRows_word (fun i k => _) hw hk]
  refine ite_congr rfl (fun h => ?_) fun _ => rfl
  rw [List.getD_eq_getElem?_getD, List.getElem?_map, List.getElem?_range h.2]
  rfl

/-- What a pass that is over, and compares without a mismatch, leaves of its core (04 R117, R124). -/
theorem passEnd_eq {x : PassRun} {c : Core} (hlm : c.lmErr = [])
    (hchk : ∀ w i k l, x.check (c.tile x.dst) (x.rows (c.tile x.dst)) [] ≠ .mismatch w i k l) :
    ∃ regs flags raised, passEnd x [] c = { c with
      pass := none, regs := regs, flags := flags, raised := raised, queue := if x.q then c.queue ++ [x.dst] else c.queue
      tiles := tset c.tiles x.dst { x.written (c.tile x.dst) with st := if x.q then .queued else .free } } := by
  unfold passEnd
  extract_lets tile good t sat c1 c2 c3 c4
  have h1 : c1 = { c with pass := none } := foldl_fixed _ _ _ fun r _ => Core.lmReadFault_clean (c := { c with pass := none }) hlm ..
  have h2 : ∃ flags raised, c2 = { c1 with flags := flags, raised := raised } := by
    subst c2
    split <;> exact ⟨_, _, rfl⟩
  have h3 : ∃ regs, c3 = { c2 with regs := regs } := by
    subst c3
    cases h : x.check tile good [] with
    | skip => exact ⟨_, rfl⟩
    | equal => exact ⟨_, rfl⟩
    | mismatch w i k l => exact absurd h (hchk w i k l)
  obtain ⟨flags, raised, h2⟩ := h2
  obtain ⟨regs, h3⟩ := h3
  refine ⟨regs, flags, raised, ?_⟩
  have ht : t = x.written (c.tile x.dst) := rfl
  have h4 : c4 = c3.setTile x.dst { t with st := .queued } := rfl
  rw [h4, ht, h3, h2, h1]
  cases x.q <;> rfl

/-! ## Element runs (04 R135 to R142) -/

/-- A run that starts on the queue's head takes that tile and its other tiles, and the cycles of its program (04 R140, R142). -/
theorem startRun_queue {r : EddyRun} {c : Core} {h : Nat} {rest : List Nat} (hlm : c.lmErr = []) (hsrc : r.desc.src = 0)
    (hq : c.queue = h :: rest) : ∃ tiles r', startRun r c c = { c with queue := rest, tiles := tiles, eddy := some r' } ∧
      (tget (fun _ => Tile.reset) tiles h).st = .eddy ∧ r'.started = true ∧ r'.slot = r.slot ∧ r'.src = some h ∧
      r'.endsAt = c.cyc + runCycles (c.runProg r).length r.desc.v := by
  unfold startRun
  extract_lets d own c1 prog vec bcol out lines c2 tiles c3
  have h1 : c1 = { c with queue := rest } := by
    subst c1
    rw [if_pos (show d.src = 0 from hsrc), hq]
    rfl
  have h2 : c2 = c1 := foldl_fixed _ _ _ fun l _ => Core.lmReadFault_clean (by rw [h1]; exact hlm) ..
  have hown : own = some h := by
    subst own
    rw [show d.src = 0 from hsrc, hq]
    rfl
  have hst : (c3.tile h).st = .eddy :=
    Core.marks_st tiles c2 (.inl (by simp only [tiles, hown, Option.toList_some, List.mem_append, List.mem_singleton, true_or]))
  obtain ⟨ts, h3⟩ : ∃ ts, c3 = { c2 with tiles := ts } := marks_eq tiles .eddy c2
  rw [h3] at hst ⊢
  rw [h2, h1] at hst ⊢
  exact ⟨ts, _, rfl, hst, rfl, rfl, hown, rfl⟩

/-- A run without lines as its vector destination writes tiles alone (04 R135). -/
theorem EddyRun.writeVec_tiles {r : EddyRun} (h : r.toLines = false) (packed : Bool) (c : Core) (i : Nat) :
    ∃ tiles, r.writeVec packed c i = { c with tiles := tiles } := by
  unfold writeVec
  extract_lets d ws
  rw [if_neg (by rw [h]; decide)]
  split <;> exact ⟨_, rfl⟩

theorem EddyRun.writeVecs_tiles {r : EddyRun} (h : r.toLines = false) (packed : Bool) (l : List Nat) (c : Core) :
    ∃ tiles, l.foldl (r.writeVec packed) c = { c with tiles := tiles } := by
  induction l generalizing c with
  | nil => exact ⟨_, rfl⟩
  | cons i l ih =>
    obtain ⟨tiles, hi⟩ := writeVec_tiles h packed c i
    obtain ⟨tiles', hl⟩ := ih (r.writeVec packed c i)
    exact ⟨tiles', by rw [List.foldl_cons, hl, hi]⟩

/-- What a run that is over leaves of its core (04 R124, R139). -/
theorem runEnd_eq (r : EddyRun) {c : Core} (hlm : c.lmErr = []) : ∃ tiles lm, runEnd r c = { c with
    tiles := tiles, lm := lm, flags := c.flags ||| r.flags, raised := c.raised ||| r.flags, eddy := none, er := r.er, held := r.red } ∧
    ∀ j ∈ r.tiles, (tget (fun _ => Tile.reset) tiles j).st = .free := by
  unfold runEnd
  extract_lets d c1 c2 c3 c4
  have h1 : ∃ tiles, c1 = { c with tiles := tiles } := by
    subst c1
    split
    · exact ⟨_, rfl⟩
    · next hl => exact EddyRun.writeVecs_tiles (by simpa using hl) ..
  have h2 : ∃ tiles lm, c2 = { c1 with tiles := tiles, lm := lm } := by
    subst c2
    split
    · exact ⟨_, _, rfl⟩
    · refine ⟨c1.tiles, _, Core.writeLm_clean ?_ ..⟩
      obtain ⟨tiles, h1⟩ := h1
      rw [h1]
      exact hlm
    · exact ⟨_, _, rfl⟩
  have hst (j : Nat) (hj : j ∈ r.tiles) : (c3.tile j).st = .free := Core.marks_st r.tiles c2 (.inl hj)
  obtain ⟨ts, h3⟩ : ∃ ts, c3 = { c2 with tiles := ts } := marks_eq r.tiles .free c2
  obtain ⟨_, h1⟩ := h1
  obtain ⟨_, lm, h2⟩ := h2
  rw [h3] at hst
  have h4 : c4 = c3.flag r.flags := rfl
  rw [h4, h3, h2, h1]
  exact ⟨ts, lm, rfl, hst⟩

/-- A program load that is the oldest takes its 32 words and leaves its list (04 R141; 05 R201). -/
theorem ldprogEnd_head {c : Core} {l : ProgLoad} {rest : List ProgLoad} (hlm : c.lmErr = []) (hl : c.ldprog = l :: rest) :
    ldprogEnd l c = { c with
      progs := tset c.progs l.slot ⟨wordsOf 32 (readBytes c.lm l.off 128), (progOf (wordsOf 32 (readBytes c.lm l.off 128))).1.length,
        (progOf (wordsOf 32 (readBytes c.lm l.off 128))).2⟩
      ldprog := rest } := by
  simp only [ldprogEnd, Core.lmReadFault_clean hlm, hl, List.erase_cons_head]

/-! ## The wrapper of a command that changes one core -/

namespace State

variable {s : State}

theorem setCore_setCore (s : State) (p : Nat) (c d : Core) : (s.setCore p c).setCore p d = s.setCore p d := by
  simp only [setCore, tset_tset]

/-- A core that is replaced by one with the same events leaves nothing undone. -/
theorem setCore_settled {p : Nat} {d : Core} (he : d.evs = (s.core p).evs) : (s.setCore p d).settled = s.settled := by
  have hquiet : (s.setCore p d).coresQuiet = s.coresQuiet := by
    refine congrArg (List.all (List.range 52)) (funext fun q => ?_)
    by_cases hq : q = p
    · rw [hq, setCore_core_self, he]
    · rw [setCore_core_ne _ _ hq]
  simp only [settled, handled, hquiet]
  rfl

/-- A command whose effect replaces one core, and adds no event, answers that effect. -/
theorem run_setCore {f : State → State} {p : Nat} {d : Core} (hr : s.ready = true) (hf : f s.clearOuts = s.clearOuts.setCore p d)
    (he : d.evs = (s.core p).evs) : s.run f = .next (s.clearOuts.setCore p d) :=
  run_eq hr hf ((setCore_settled he).trans (clearOuts_settled s)) rfl rfl

/-- A command whose effect replaces one core, and adds a recoverable event that marks no suspect, answers that core with the event
taken (15 R557 to R560). -/
theorem run_setCore_event {f : State → State} {p b : Nat} {d : Core} (hr : s.ready = true) (hp : p < 52)
    (hf : f s.clearOuts = s.clearOuts.setCore p d) (hb : b < 15) (he : d.evs = (s.core p).evs ++ [b]) (hcls : coreClass b = 1)
    (hsuspect : ¬(b = 1 ∨ b = 2 ∨ b = 6)) :
    ∃ t, s.run f = .next t ∧ t.core p = { d with evs := [] } ∧ CoreOnly p s t := by
  obtain ⟨t, ht, hcore, honly⟩ := run_coreEvent (f := f) (p := p) hr hp (by rw [hf]; exact .setCore d) hb
    (by rw [hf, setCore_core_self, he, ready_evs hr hp]; rfl) hcls hsuspect
  exact ⟨t, ht, by rw [hcore, hf, setCore_core_self], honly⟩

end State
end Sys2Proof.Machine
end

section
/-! PROOFS. The commands that end and start the units inside a core (04 R117 to R160). -/
namespace Sys2Proof.Machine
namespace State

variable {s : State} {p : Fin 52}

/-! ## Passes -/

/-- A pass that is over writes its rows and leaves its tile queued or free (04 R117, R124). -/
theorem exec_passEnd (hr : s.ready = true) (hlm : (s.core p.val).lmErr = []) {x : PassRun} (hx : (s.core p.val).pass = some x)
    (hend : x.endsAt ≤ (s.core p.val).cyc)
    (hchk : ∀ w i k l, x.check ((s.core p.val).tile x.dst) (x.rows ((s.core p.val).tile x.dst)) [] ≠ .mismatch w i k l) :
    exec (.passEnd p [] []) s = .next (s.clearOuts.setCore p.val (passEnd x [] (s.core p.val))) := by
  show execPassEnd p [] [] s = _
  unfold execPassEnd
  refine run_setCore hr ?_ ?_
  · simp only [clearOuts_core_eq, hx, hend, if_true]
    rfl
  · obtain ⟨regs, flags, raised, h⟩ := passEnd_eq hlm hchk
    rw [h]

theorem exec_passEnd_stays (hr : s.ready = true) (h : ∀ x, (s.core p.val).pass = some x → (s.core p.val).cyc < x.endsAt) :
    exec (.passEnd p [] []) s = .next s.clearOuts := by
  show execPassEnd p [] [] s = _
  unfold execPassEnd
  refine run_unchanged hr ?_
  cases hx : (s.core p.val).pass with
  | none => simp only [clearOuts_core_eq, hx]
  | some x => simp only [clearOuts_core_eq, hx, Nat.not_le_of_lt (h x hx), if_false]

/-! ## Element runs -/

/-- A run that waits for the queue starts once a tile is there, its other tiles are free and its program is loaded (04 R142). -/
theorem exec_eddyRunStart (hr : s.ready = true) {r : EddyRun} (hx : (s.core p.val).eddy = some r)
    (hready : runReady r (s.core p.val) = true) (hload : ((s.core p.val).ldprog.any fun l => l.slot == r.slot) = false)
    (he : (startRun r (s.core p.val) (s.core p.val)).evs = (s.core p.val).evs) :
    exec (.eddyRunStart p []) s = .next (s.clearOuts.setCore p.val (startRun r (s.core p.val) (s.core p.val))) := by
  show execEddyRunStart p [] s = _
  unfold execEddyRunStart
  refine run_setCore hr ?_ he
  simp only [clearOuts_core_eq, hx, hready, hload, Bool.not_false, Bool.and_self, if_true]
  rfl

theorem exec_eddyRunStart_stays (hr : s.ready = true) (h : ∀ r, (s.core p.val).eddy = some r → runReady r (s.core p.val) = false) :
    exec (.eddyRunStart p []) s = .next s.clearOuts := by
  show execEddyRunStart p [] s = _
  unfold execEddyRunStart
  refine run_unchanged hr ?_
  cases hx : (s.core p.val).eddy with
  | none => simp only [clearOuts_core_eq, hx]
  | some r => simp only [clearOuts_core_eq, hx, h r hx, Bool.false_and, Bool.false_eq_true, if_false]

/-- A run that is over writes its results and frees its tiles (04 R139). -/
theorem exec_eddyRunEnd (hr : s.ready = true) (hlm : (s.core p.val).lmErr = []) {r : EddyRun} (hx : (s.core p.val).eddy = some r)
    (hs : r.started = true) (hend : r.endsAt ≤ (s.core p.val).cyc) :
    exec (.eddyRunEnd p) s = .next (s.clearOuts.setCore p.val (runEnd r (s.core p.val))) := by
  show execEddyRunEnd p s = _
  unfold execEddyRunEnd
  refine run_setCore hr ?_ ?_
  · simp only [clearOuts_core_eq, hx, hs, hend, and_self, if_true]
  · obtain ⟨tiles, lm, h, -⟩ := runEnd_eq r hlm
    rw [h]

theorem exec_eddyRunEnd_stays (hr : s.ready = true)
    (h : ∀ r, (s.core p.val).eddy = some r → r.started = false ∨ (s.core p.val).cyc < r.endsAt) :
    exec (.eddyRunEnd p) s = .next s.clearOuts := by
  show execEddyRunEnd p s = _
  unfold execEddyRunEnd
  refine run_unchanged hr ?_
  cases hx : (s.core p.val).eddy with
  | none => simp only [clearOuts_core_eq, hx]
  | some r =>
    have hover : ¬(r.started = true ∧ r.endsAt ≤ (s.core p.val).cyc) := by
      rintro ⟨hs, hend⟩
      rcases h r hx with h | h
      · rw [h] at hs
        cases hs
      · exact Nat.not_le_of_lt h hend
    simp only [clearOuts_core_eq, hx]
    exact if_neg hover

/-! ## Program loads -/

/-- The oldest program load ends once its cycles are over (04 R141). -/
theorem exec_ldprogDone (hr : s.ready = true) (hlm : (s.core p.val).lmErr = []) {l : ProgLoad} {rest : List ProgLoad}
    (hl : (s.core p.val).ldprog = l :: rest) (hend : l.endsAt ≤ (s.core p.val).cyc) :
    exec (.ldprogDone p) s = .next (s.clearOuts.setCore p.val (ldprogEnd l (s.core p.val))) := by
  show execLdprogDone p s = _
  unfold execLdprogDone
  refine run_setCore hr ?_ ?_
  · simp only [clearOuts_core_eq, hl, List.head?_cons, hend, if_true]
  · rw [ldprogEnd_head hlm hl]

theorem exec_ldprogDone_stays (hr : s.ready = true)
    (h : ∀ l, (s.core p.val).ldprog.head? = some l → (s.core p.val).cyc < l.endsAt) :
    exec (.ldprogDone p) s = .next s.clearOuts := by
  show execLdprogDone p s = _
  unfold execLdprogDone
  refine run_unchanged hr ?_
  cases hx : (s.core p.val).ldprog.head? with
  | none => simp only [clearOuts_core_eq, hx]
  | some l => simp only [clearOuts_core_eq, hx, Nat.not_le_of_lt (h l hx), if_false]

/-! ## Scrubs, stalls and halts -/

theorem exec_scrubDone (hr : s.ready = true) (h : (s.core p.val).scrub = true) :
    exec (.scrubDone p) s = .next (s.clearOuts.setCore p.val (scrubEnd (s.core p.val))) := by
  show execScrubDone p s = _
  unfold execScrubDone
  refine run_setCore hr ?_ rfl
  simp only [clearOuts_core_eq, h, if_true]
  rfl

theorem exec_scrubDone_stays (hr : s.ready = true) (h : (s.core p.val).scrub = false) :
    exec (.scrubDone p) s = .next s.clearOuts :=
  run_unchanged hr (by simp only [clearOuts_core_eq, h, Bool.false_eq_true, if_false])

/-- A core that no job holds loses its rank, unless Wellhead has armed its next launch (05 R166). -/
theorem noJob_setCore (s : State) (p : Nat) (c : Core) :
    ∃ rank, (s.setCore p c).noJob p = s.setCore p { c with rank := rank } := by
  rw [noJob, onCore, setCore_core_self, setCore_setCore]
  split
  · exact ⟨c.rank, rfl⟩
  · exact ⟨_, rfl⟩

/-- A core that a stall has halted (04 R154). -/
def stalledOut (c : Core) : Core := { c.raise 13 0 c.pc 0 with run := .halted .stall, stall := 0, served := 0 }

theorem stalledOut_eq (c : Core) : ∃ regs, stalledOut c = { c with
    regs := regs, evs := c.evs ++ [13], run := .halted .stall, stall := 0, served := 0 } ∧
    tget Blk.coreB.rst regs cFAULTWORD = evSet (c.reg cFAULTWORD) 13 := by
  obtain ⟨regs, h, hword⟩ := Core.raise_eq 13 0 c.pc 0 c
  exact ⟨regs, by rw [stalledOut, h], hword⟩

/-- A stall of 1,048,576 cycles halts its core with the event (04 R154). -/
theorem exec_stallTimeout (hr : s.ready = true) (hj : s.sched.jobs = [])
    (hrun : (s.core p.val).run = .running ∨ (s.core p.val).run = .waiting) (hst : 1048576 ≤ (s.core p.val).stall) :
    ∃ t, exec (.stallTimeout p) s = .next t ∧ (t.core p.val).run = .halted .stall ∧ (t.core p.val).stall = 0 ∧
      bitOf ((t.core p.val).reg cFAULTWORD).toNat 13 = true ∧ t.mem = s.mem := by
  obtain ⟨regs, hout, hword⟩ := stalledOut_eq (s.core p.val)
  obtain ⟨rank, hrank⟩ := noJob_setCore s.clearOuts p.val (stalledOut (s.core p.val))
  have hcond : ((s.core p.val).run == .running || (s.core p.val).run == .waiting) = true := by
    rcases hrun with h | h <;> rw [h] <;> rfl
  have hleaf (c : Core) (frm : Nat) : (s.clearOuts.setCore p.val c).leafTo p.val frm 3 = s.clearOuts.setCore p.val c :=
    leafTo_noJobs (s := s.clearOuts.setCore p.val c) hj frm 3
  show ∃ t, execStallTimeout p s = _ ∧ _
  unfold execStallTimeout
  refine Exists.imp (fun t h => ⟨h.1, ?_⟩) (run_setCore_event (b := 13) (d := { stalledOut (s.core p.val) with rank := rank }) hr
    p.isLt ?_ (by decide) (by rw [hout]) rfl (by decide))
  · obtain ⟨-, hcore, honly⟩ := h
    rw [hcore, hout]
    exact ⟨rfl, rfl, by rw [Core.reg, hword]; exact bitOf_evSet (by decide), honly.mem⟩
  · rw [← hrank]
    simp only [clearOuts_core_eq, hcond, hst, decide_true, Bool.and_self, if_true, leafMisses, leafDiscard, hleaf, ite_self]
    rfl

theorem exec_stallTimeout_stays (hr : s.ready = true) (h : (s.core p.val).stall < 1048576) :
    exec (.stallTimeout p) s = .next s.clearOuts := by
  show execStallTimeout p s = _
  unfold execStallTimeout
  refine run_unchanged hr ?_
  simp only [clearOuts_core_eq, Nat.not_le_of_lt h, decide_false, Bool.and_false, Bool.false_eq_true, if_false]

theorem exec_haltAtBoundary (hr : s.ready = true) (hh : (s.core p.val).haltReq = true) (hb : (s.core p.val).boundary = true)
    (hrun : (s.core p.val).run = .running ∨ (s.core p.val).run = .waiting) :
    exec (.haltAtBoundary p) s = .next (s.clearOuts.setCore p.val { s.core p.val with run := .halted .ctrl }) := by
  show execHaltAtBoundary p s = _
  unfold execHaltAtBoundary
  refine run_setCore hr ?_ rfl
  have hcond : ((s.core p.val).run == .running || (s.core p.val).run == .waiting) = true := by
    rcases hrun with h | h <;> rw [h] <;> rfl
  simp only [clearOuts_core_eq, hh, hb, hcond, Bool.and_self, if_true]

theorem exec_haltAtBoundary_stays (hr : s.ready = true) (h : (s.core p.val).haltReq = false ∨ (s.core p.val).boundary = false) :
    exec (.haltAtBoundary p) s = .next s.clearOuts := by
  show execHaltAtBoundary p s = _
  unfold execHaltAtBoundary
  refine run_unchanged hr ?_
  rcases h with h | h <;> simp only [clearOuts_core_eq, h, Bool.false_and, Bool.and_false, Bool.false_eq_true, if_false]

end State

open State

/-- Settles O24: each unit's end or start by the lemma on what it leaves of its core, on the command's answer. -/
theorem coreUnitsEnd : Obligations.CoreUnitsEnd := by
  intro s p hr c u stays hlm
  refine ⟨fun x hx hend hw hchk => ?_, exec_passEnd_stays hr, fun r h rest hx hsrc hq hready hload => ?_, exec_eddyRunStart_stays hr,
    fun r hx hs hend => ?_, exec_eddyRunEnd_stays hr, fun l rest hl hend => ?_, exec_ldprogDone_stays hr, exec_scrubDone hr,
    exec_scrubDone_stays hr, fun hrun hst hj => exec_stallTimeout hr hj hrun hst, exec_stallTimeout_stays hr,
    exec_haltAtBoundary hr, exec_haltAtBoundary_stays hr⟩
  · refine ⟨_, exec_passEnd hr hlm hx hend hchk, ?_⟩
    obtain ⟨regs, flags, raised, h⟩ := passEnd_eq hlm hchk
    rw [setCore_core_self, h]
    have hself : tget (fun _ => Tile.reset) (tset c.tiles x.dst { x.written (c.tile x.dst) with
      st := if x.q then TileState.queued else .free }) x.dst = _ := tget_tset_self ..
    refine ⟨rfl, congrArg Tile.st hself, rfl, fun i k _ hk => ?_, fun j hj => tget_tset_ne _ _ _ hj, rfl, rfl, rfl, rfl, rfl⟩
    exact (congrArg (Tile.word · i k) hself).trans (x.written_word _ hw hk)
  · obtain ⟨tiles, r', h, htile, hstarted, hslot, hown, hends⟩ := startRun_queue hlm hsrc hq
    refine ⟨_, r', exec_eddyRunStart hr hx hready hload (by rw [h]), ?_⟩
    rw [setCore_core_self, h]
    exact ⟨rfl, hstarted, hslot, hown, hends, rfl, htile, rfl, rfl⟩
  · obtain ⟨tiles, lm, h, hfree⟩ := runEnd_eq r hlm
    refine ⟨_, exec_eddyRunEnd hr hlm hx hs hend, ?_⟩
    rw [setCore_core_self, h]
    exact ⟨rfl, rfl, rfl, rfl, hfree, rfl, rfl⟩
  · exact (exec_ldprogDone hr hlm hl hend).trans (by rw [ldprogEnd_head hlm hl])

end Sys2Proof.Machine
end

section
/-! PROOFS. Transfers of the sluice engines (04 R148, R151; 06 R230; 07 R240 to R244): a row moves whole, no other byte changes, and the
transfer leaves its engine with its DONE bit. -/
namespace Sys2Proof.Machine

/-! ## What the end of a transfer leaves of its core -/

namespace Core

theorem reg_setReg (c : Core) (a i : Nat) (v : Word) : (c.setReg a v).reg i = if i = a then v else c.reg i := tget_tput ..

/-- An event leaves every register but the fault word and its records (04 R157, R158). -/
theorem reg_raise_ne (bit unit bundle : Nat) (addr : Word) (c : Core) {i : Nat}
    (h : i ∉ [cFAULTWORD, cFAULT_INFO, cFAULT_ADDR]) : (c.raise bit unit bundle addr).reg i = c.reg i := by
  simp only [List.mem_cons, List.not_mem_nil, or_false, not_or] at h
  obtain ⟨hword, hinfo, haddr⟩ := h
  have hkeep (d : Core) (l : List Nat) : ({ d with evs := l } : Core).reg i = d.reg i := rfl
  unfold raise
  extract_lets w q c1 c2
  have h1 : c1.reg i = c.reg i := by rw [reg_setReg, if_neg hword]
  rw [hkeep]
  subst c2
  split
  · rw [reg_setReg, if_neg haddr, reg_setReg, if_neg hinfo, h1]
  · exact h1

/-- A core whose engine no longer holds a transfer. -/
def leaveEngine (so : Bool) (x : Xfer) (c : Core) : Core :=
  { c with
    si := if so then c.si else c.si.filter fun y => y.num ≠ x.num
    so := if so then c.so.filter fun y => y.num ≠ x.num else c.so }

/-- The DONE bit of a transfer is set (04 R151). -/
def setDone (x : Xfer) (c : Core) : Core := c.setReg cSLUICE_DONE (c.reg cSLUICE_DONE ||| BitVec.ofNat 32 (2 ^ x.done))

/-- The ERR bit of a transfer is set (04 R151). -/
def setErr (x : Xfer) (c : Core) : Core := c.setReg cSLUICE_ERR (c.reg cSLUICE_ERR ||| BitVec.ofNat 32 (2 ^ x.done))

theorem reg_setDone (x : Xfer) (c : Core) (i : Nat) :
    (c.setDone x).reg i = if i = cSLUICE_DONE then c.reg cSLUICE_DONE ||| BitVec.ofNat 32 (2 ^ x.done) else c.reg i := reg_setReg ..

theorem reg_setErr (x : Xfer) (c : Core) (i : Nat) :
    (c.setErr x).reg i = if i = cSLUICE_ERR then c.reg cSLUICE_ERR ||| BitVec.ofNat 32 (2 ^ x.done) else c.reg i := reg_setReg ..

end Core

theorem endXfer_ok (so : Bool) (x : Xfer) (c : Core) : State.endXfer so x none c = (c.leaveEngine so x).setDone x := by
  cases so <;> rfl

theorem endXfer_err (so : Bool) (x : Xfer) (a : Nat) (c : Core) : State.endXfer so x (some a) c =
    (((c.leaveEngine so x).setDone x).setErr x).raise 11 (if so then 4 else 3) x.bundle (BitVec.ofNat 32 a) := by
  have hdone : ((c.leaveEngine so x).setDone x).setErr x = (c.leaveEngine so x).doneBits true (2 ^ x.done) true := by
    rw [Core.setErr, Core.reg_setDone, if_neg (by decide)]
    rfl
  rw [hdone]
  cases so <;> rfl

/-- A transfer that ends in error leaves its engine and sets DONE, ERR and SLUICE_FAULT (04 R151). -/
theorem endXfer_err_eq (so : Bool) (x : Xfer) (a : Nat) (c : Core) :
    ∃ regs, State.endXfer so x (some a) c = { c.leaveEngine so x with regs := regs, evs := c.evs ++ [11] } ∧
      tget Blk.coreB.rst regs cSLUICE_DONE = c.reg cSLUICE_DONE ||| BitVec.ofNat 32 (2 ^ x.done) ∧
      tget Blk.coreB.rst regs cSLUICE_ERR = c.reg cSLUICE_ERR ||| BitVec.ofNat 32 (2 ^ x.done) ∧
      bitOf (tget Blk.coreB.rst regs cFAULTWORD).toNat 11 = true := by
  rw [endXfer_err]
  generalize hd : ((c.leaveEngine so x).setDone x).setErr x = d
  have hreg (i : Nat) (hi : i ∉ [cFAULTWORD, cFAULT_INFO, cFAULT_ADDR]) := Core.reg_raise_ne 11 (if so then 4 else 3) x.bundle
    (BitVec.ofNat 32 a) d hi
  obtain ⟨regs, h, hword⟩ := Core.raise_eq 11 (if so then 4 else 3) x.bundle (BitVec.ofNat 32 a) d
  rw [h] at hreg ⊢
  refine ⟨regs, by rw [← hd]; rfl, (hreg _ (by decide)).trans ?_, (hreg _ (by decide)).trans ?_, ?_⟩
  · rw [← hd, Core.reg_setErr, if_neg (by decide), Core.reg_setDone, if_pos rfl]
    rfl
  · rw [← hd, Core.reg_setErr, if_pos rfl, Core.reg_setDone, if_neg (by decide)]
    rfl
  · rw [hword]
    exact bitOf_evSet (by decide)

namespace State

variable {s : State}

/-! ## Accesses that lie whole in memory (07 R240, R244) -/

/-- A write that lies whole in memory writes the bytes there. -/
theorem writeG_mem {req basin n addr a : Nat} {bs : List Byte} (hn : 0 < n) (hbs : 0 < bs.length)
    (ha : (s.place addr).1 = .mem a) (hl : bs.length ≤ (s.place addr).2) : writeG req basin n s addr bs = (s.writeMem a bs, true) := by
  obtain ⟨k, rfl⟩ : ∃ k, n = k + 1 := ⟨n - 1, by omega⟩
  have hne : bs.isEmpty = false := List.isEmpty_eq_false_iff.2 (List.ne_nil_of_length_pos hbs)
  have hrest (t : State) : writeG req basin k t (addr + bs.length) [] = (t, true) := by cases k <;> rfl
  rw [writeG, hne, if_neg Bool.false_ne_true]
  simp only [ha, Nat.min_eq_left hl, List.take_length, List.drop_length, hrest]

/-- The collectors and DET.STRICT by their places within 64 KiB of CSR space (17 R636). -/
theorem watched_place {a : Nat} (h : a ∈ watched) :
    a % 0x10000 = 0x2c ∨ a % 0x10000 = 0x2008 ∨ a % 0x10000 = 0xa000 ∨ a % 0x10000 = 0xb000 ∨ a % 0x10000 = 0x7004 := by
  revert a; decide

theorem latchIf_settled (s : State) {c : Bool} {a : Nat} {v : Word} (ha : a ∉ watched) : (s.latchIf c a v).settled = s.settled := by
  unfold latchIf
  split
  · exact setReg_settled s ha
  · rfl

/-- Recording an uncorrectable word leaves nothing undone: it puts no unit out of service (07 R244). -/
theorem uncorrRead_settled (s : State) (a : Nat) (ks : List Nat) : (s.uncorrRead a ks).settled = s.settled := by
  have hpool {c k : Nat} (hk : k = 0 ∨ k = 0x20 ∨ k = 0x24) : 0x300000 + k + c * 0x10000 ∉ watched := fun h => by
    have := watched_place h
    omega
  unfold uncorrRead
  extract_lets w q c
  split
  · rfl
  · split
    · rw [event_settled _ (by decide), count_settled _ (by decide), latchIf_settled _ (by decide), latchIf_settled _ (by decide)]
    · have hstatus : Reg.POOL_STATUS c ∉ watched := hpool (.inl rfl)
      have hcnt : Reg.POOL_UNCORR_CNT c ∉ watched := hpool (.inr (.inl rfl))
      have haddr : Reg.POOL_FAULT_ADDR c ∉ watched := hpool (.inr (.inr rfl))
      rw [event_settled _ hstatus, count_settled _ hcnt, latchIf_settled _ haddr]

theorem writeMem_settled (s : State) (a : Nat) (bs : List Byte) : (s.writeMem a bs).settled = s.settled :=
  (settled_of_regs rfl rfl rfl rfl rfl rfl).trans (uncorrRead_settled s a _)

theorem latchIf_cores (s : State) (c : Bool) (a : Nat) (v : Word) : (s.latchIf c a v).cores = s.cores := by
  unfold latchIf
  split <;> rfl

theorem uncorrRead_cores (s : State) (a : Nat) (ks : List Nat) : (s.uncorrRead a ks).cores = s.cores := by
  unfold uncorrRead
  extract_lets w q c
  split
  · rfl
  · split
    · rw [event_cores, count_cores, latchIf_cores, latchIf_cores]
    · rw [event_cores, count_cores, latchIf_cores]

theorem writeMem_core (s : State) (a : Nat) (bs : List Byte) (q : Nat) : (s.writeMem a bs).core q = s.core q := by
  show tget _ (s.uncorrRead a _).cores q = _
  rw [uncorrRead_cores]
  rfl

/-! ## The move of one row -/

section
variable {p a : Nat} {x : Xfer} {books : Nat × Nat} (hclean : (s.core p).lmErr = []) (haway : x.away = []) (hstop : x.stop = none)
include hclean haway hstop

/-- A row that is read whole from memory reaches local memory (04 R148). -/
theorem moveRows_read (htarget : x.target = 0) (ha : (s.place (Xfer.farAt x false 0)).1 = .mem a)
    (hl : x.rowBytes ≤ (s.place (Xfer.farAt x false 0)).2) (hp : s.poisoned a x.rowBytes = []) :
    moveRows p false x [0] (s, books) =
      (s.setCore p { s.core p with lm := writeBytes (s.core p).lm x.dst (readBytes s.mem a x.rowBytes) }, books, none) := by
  have hdst : (x.dstAt 0).toNat = x.dst := by simp [Xfer.dstAt]
  simp only [moveRows, hstop, haway, List.contains_nil, readG_mem ha hl hp, htarget, onCore, Xfer.put, hdst, Core.writeLm_clean hclean,
    reduceCtorEq, Bool.false_eq_true, if_false, if_true, Nat.zero_ne_one]

/-- A row that is written from local memory stands whole at its address (04 R148). -/
theorem moveRows_write (hn : 0 < x.rowBytes) (ha : (s.place (Xfer.farAt x true 0)).1 = .mem a)
    (hl : x.rowBytes ≤ (s.place (Xfer.farAt x true 0)).2) :
    moveRows p true x [0] (s, books) =
      ((s.setCore p (s.core p)).writeMem a (readBytes (s.core p).lm x.src x.rowBytes), books, none) := by
  have hsrc : (x.srcAt 0).toNat = x.src := by simp [Xfer.srcAt]
  have hlen : (readBytes (s.core p).lm x.src x.rowBytes).length = x.rowBytes := readBytes_length ..
  have hwrite := writeG_mem (s := s.setCore p (s.core p)) (req := s.reqSluice p true) (basin := x.basin) hn
    (bs := readBytes (s.core p).lm x.src x.rowBytes) (by rw [hlen]; exact hn) ha (by rw [hlen]; exact hl)
  simp only [moveRows, hstop, haway, List.contains_nil, onCore, hsrc, Core.lmReadFault_clean hclean, setCore_core_self, hwrite,
    reduceCtorEq, Bool.false_eq_true, if_false, if_true]

end

/-! ## The completion of a transfer -/

section
variable {p which : Nat} {so : Bool} {x : Xfer} (hx : (if so then (s.core p).so else (s.core p).si)[which]? = some x)
include hx

theorem xferComplete_dropped (hd : x.dropped = true) :
    s.xferComplete p so which [] = s.setCore p (endXfer so x (some (Xfer.farAt x so 0)) (s.core p)) := by
  simp only [xferComplete, hx, hd, if_true]
  rfl

variable (hd : x.dropped = false)
include hd

theorem xferComplete_frames (hrem : x.remote = .frames) : s.xferComplete p so which [] = s := by
  simp only [xferComplete, hx, hd, hrem, Bool.false_eq_true, if_false, if_true]

/-- One row that moves without an error ends its transfer (04 R151). -/
theorem xferComplete_row (hrem : x.remote = .none) (hrows : x.rows = 1) (hbook : ¬(x.target = 1 ∧ so = false)) {t : State}
    (hm : moveRows p so x [0] (s.setCore p (s.core p), (s.core p).n16, (s.core p).n256) =
      (t, ((s.core p).n16, (s.core p).n256), none)) :
    s.xferComplete p so which [] =
      t.setCore p (endXfer so x none { t.core p with n16 := (s.core p).n16, n256 := (s.core p).n256 }) := by
  have hmoved : moveRows p so x (List.range x.rows) (s.setCore p ((s.core p).upsets x.bundle []), (s.core p).n16, (s.core p).n256) =
      (t, ((s.core p).n16, (s.core p).n256), none) := by rw [hrows]; exact hm
  simp only [xferComplete, hx, hd, hrem, hbook, hmoved, reduceCtorEq, false_and, Bool.false_eq_true, if_false]
  rfl

end

/-- A write of codebook memory starts once no pass runs and no other write is in progress, and takes a cycle for each 64 bytes (04
R113; 06 R230). -/
theorem xferComplete_book {p which : Nat} {x : Xfer} (hx : (s.core p).si[which]? = some x) (hd : x.dropped = false)
    (hrem : x.remote ≠ .frames) (ht : x.target = 1) :
    (x.writing = none → s.xferComplete p false which [] =
      if (s.core p).pass.isSome || (s.core p).cbWriting then s
      else s.setCore p (Core.setXfer false { x with writing := some ((s.core p).cyc + (x.rows * x.rowBytes + 63) / 64) } (s.core p))) ∧
    ∀ w, x.writing = some w → (s.core p).cyc < w → s.xferComplete p false which [] = s := by
  refine ⟨fun hw => ?_, fun w hw hlt => ?_⟩
  · simp only [xferComplete, hx, hd, hrem, ht, hw, Bool.false_eq_true, if_false, if_true, and_self]
  · simp only [xferComplete, hx, hd, hrem, ht, hw, hlt, reduceCtorEq, Option.getD_some, Bool.false_eq_true, if_false, if_true, and_self,
      and_false]

/-- A command that leaves nothing undone keeps the cores and the memory that its effect gives. -/
theorem run_kept {v : State} {f : State → State} (hr : s.ready = true) (hf : f s.clearOuts = v) (hs : v.settled = true) :
    ∃ t, s.run f = .next t ∧ (∀ q, t.core q = v.core q) ∧ t.mem = v.mem := by
  obtain ⟨l, hl⟩ := sortLog_eq v
  refine ⟨_, run_sorted (ready_awake hr) (by rw [hf]; exact hs), ?_⟩
  rw [hf, hl]
  exact ⟨fun _ => rfl, rfl⟩

/-! ## The command -/

/-- What a transfer that ends leaves of its core: it has left its engine, and its DONE bit is set (04 R151). -/
structure LeftFrom (so : Bool) (x : Xfer) (c d : Core) : Prop where
  si : d.si = if so then c.si else c.si.filter fun y => y.num ≠ x.num
  so : d.so = if so then c.so.filter fun y => y.num ≠ x.num else c.so
  done : d.reg cSLUICE_DONE = c.reg cSLUICE_DONE ||| BitVec.ofNat 32 (2 ^ x.done)

section
variable {p : Fin 52} {which : Fin 6} {x : Xfer}

/-- A transfer dropped by a reset or a fence ends in error and moves nothing (13 R514). -/
theorem exec_xfer_dropped {so : Bool} (hr : s.ready = true)
    (hx : (if so then (s.core p.val).so else (s.core p.val).si)[which.val]? = some x) (hd : x.dropped = true) :
    ∃ t, exec (.sluiceTransferComplete p so which []) s = .next t ∧ LeftFrom so x (s.core p.val) (t.core p.val) ∧
      (t.core p.val).reg cSLUICE_ERR = (s.core p.val).reg cSLUICE_ERR ||| BitVec.ofNat 32 (2 ^ x.done) ∧
      bitOf ((t.core p.val).reg cFAULTWORD).toNat 11 = true ∧ (t.core p.val).lm = (s.core p.val).lm ∧ t.mem = s.mem := by
  obtain ⟨regs, hend, hdone, herr, hword⟩ := endXfer_err_eq so x (Xfer.farAt x so 0) (s.core p.val)
  obtain ⟨t, ht, hcore, honly⟩ := run_setCore_event (b := 11) (f := fun s => s.xferComplete p.val so which.val []) hr p.isLt
    (xferComplete_dropped (s := s.clearOuts) hx hd) (by decide) (by rw [clearOuts_core_eq, hend]) rfl (by decide)
  rw [clearOuts_core_eq, hend] at hcore
  refine ⟨t, ht, ?_⟩
  rw [hcore]
  exact ⟨⟨rfl, rfl, hdone⟩, herr, hword, rfl, honly.mem⟩

section
variable {a : Nat} (hr : s.ready = true) (hd : x.dropped = false) (hrem : x.remote = .none) (hstop : x.stop = none)
  (haway : x.away = []) (hrows : x.rows = 1) (hclean : (s.core p.val).lmErr = [])
include hr hd hrem hstop haway hrows hclean

/-- A row read from memory: local memory holds what the source holds, and no other byte changes (04 R148, R151). -/
theorem exec_xfer_read (hx : (s.core p.val).si[which.val]? = some x) (htarget : x.target = 0)
    (ha : (s.place (Xfer.farAt x false 0)).1 = .mem a) (hl : x.rowBytes ≤ (s.place (Xfer.farAt x false 0)).2)
    (hp : s.poisoned a x.rowBytes = []) :
    ∃ t, exec (.sluiceTransferComplete p false which []) s = .next t ∧ LeftFrom false x (s.core p.val) (t.core p.val) ∧
      (t.core p.val).reg cSLUICE_ERR = (s.core p.val).reg cSLUICE_ERR ∧ t.mem = s.mem ∧
      (t.core p.val).lm = writeBytes (s.core p.val).lm x.dst (readBytes s.mem a x.rowBytes) := by
  generalize hc : ({ s.core p.val with lm := writeBytes (s.core p.val).lm x.dst (readBytes s.mem a x.rowBytes) } : Core) = c
  have hmove := moveRows_read (s := s.clearOuts.setCore p.val (s.core p.val)) (p := p.val)
    (books := ((s.core p.val).n16, (s.core p.val).n256)) (by rw [setCore_core_self]; exact hclean) haway hstop htarget ha hl hp
  rw [setCore_core_self, setCore_setCore, setCore_mem, clearOuts_mem, hc] at hmove
  have heffect : s.clearOuts.xferComplete p.val false which.val [] =
      s.clearOuts.setCore p.val ((c.leaveEngine false x).setDone x) := by
    rw [xferComplete_row (s := s.clearOuts) (so := false) hx hd hrem hrows (by rw [htarget]; decide) hmove, setCore_core_self,
      setCore_setCore, endXfer_ok, ← hc]
    rfl
  refine ⟨_, run_setCore (f := fun s => s.xferComplete p.val false which.val []) hr heffect (by rw [← hc]; rfl), ?_⟩
  rw [setCore_core_self, ← hc]
  refine ⟨⟨rfl, rfl, ?_⟩, ?_, rfl, rfl⟩
  · rw [Core.reg_setDone, if_pos rfl]
    rfl
  · rw [Core.reg_setDone, if_neg (by decide)]
    rfl

/-- A row written to memory: it stands at its address, and no other byte changes (04 R148, R151). -/
theorem exec_xfer_write (hx : (s.core p.val).so[which.val]? = some x) (hn : 0 < x.rowBytes)
    (ha : (s.place (Xfer.farAt x true 0)).1 = .mem a) (hl : x.rowBytes ≤ (s.place (Xfer.farAt x true 0)).2) :
    ∃ t, exec (.sluiceTransferComplete p true which []) s = .next t ∧ LeftFrom true x (s.core p.val) (t.core p.val) ∧
      (t.core p.val).reg cSLUICE_ERR = (s.core p.val).reg cSLUICE_ERR ∧ (t.core p.val).lm = (s.core p.val).lm ∧
      t.mem = writeBytes s.mem a (readBytes (s.core p.val).lm x.src x.rowBytes) := by
  have hmove := moveRows_write (s := s.clearOuts.setCore p.val (s.core p.val)) (p := p.val)
    (books := ((s.core p.val).n16, (s.core p.val).n256)) (by rw [setCore_core_self]; exact hclean) haway hstop hn ha hl
  rw [setCore_core_self, setCore_setCore] at hmove
  generalize hbs : readBytes (s.core p.val).lm x.src x.rowBytes = bs at hmove
  generalize hw : (s.clearOuts.setCore p.val (s.core p.val)).writeMem a bs = w at hmove
  have hcore : w.core p.val = s.core p.val := by rw [← hw, writeMem_core, setCore_core_self]
  have heffect : s.clearOuts.xferComplete p.val true which.val [] =
      w.setCore p.val (((s.core p.val).leaveEngine true x).setDone x) := by
    rw [xferComplete_row (s := s.clearOuts) (so := true) hx hd hrem hrows (fun h => nomatch h.2) hmove, hcore, endXfer_ok]
    rfl
  have hsettled : (w.setCore p.val (((s.core p.val).leaveEngine true x).setDone x)).settled = true := by
    rw [setCore_settled (by rw [hcore]; rfl), ← hw, writeMem_settled]
    exact (setCore_settled (s := s.clearOuts) rfl).trans (ready_settled hr)
  obtain ⟨t, ht, hcores, hmem⟩ := run_kept (f := fun s => s.xferComplete p.val true which.val []) hr heffect hsettled
  refine ⟨t, ht, ?_⟩
  rw [hcores, setCore_core_self]
  refine ⟨⟨rfl, rfl, ?_⟩, ?_, rfl, ?_⟩
  · rw [Core.reg_setDone, if_pos rfl]
    rfl
  · rw [Core.reg_setDone, if_neg (by decide)]
    rfl
  · rw [hmem, setCore_mem, ← hw, writeMem_mem]
    rfl

end
end
end State

open State

/-- Settles O25: the completion by the transfer's cases; a row that moves is one read or write that lies whole in memory. -/
theorem transferCompletes : Obligations.TransferCompletes := by
  intro s p so which x hr c bit left hx
  have hleft {t : State} (h : LeftFrom so x c (t.core p.val)) : left t := ⟨h.si, h.so, h.done⟩
  refine ⟨fun hd => ?_, fun hd hrem hso ht hw => ?_, fun w hd hrem hso ht hw hlt => ?_, fun hd hrem => ?_,
    fun a n hd hrem hstop haway hrows hn hclean hso ht hpl hle hp => ?_, fun a n hd hrem hstop haway hrows hn hclean hso hpl hle => ?_⟩
  · obtain ⟨t, ht, h, hrest⟩ := exec_xfer_dropped hr hx hd
    exact ⟨t, ht, hleft h, hrest⟩
  · subst hso
    have hbook := (xferComplete_book (s := s.clearOuts) hx hd hrem ht).1 hw
    refine ⟨fun hbusy => run_unchanged hr ?_, fun hpass hcb => run_setCore hr ?_ rfl⟩
    · rw [hbook]
      refine if_pos ?_
      rcases hbusy with h | h
      · exact Bool.or_eq_true_iff.2 (.inl h)
      · exact Bool.or_eq_true_iff.2 (.inr h)
    · rw [hbook]
      exact if_neg (by rw [clearOuts_core_eq, hpass, hcb]; decide)
  · subst hso
    exact run_unchanged hr ((xferComplete_book (s := s.clearOuts) hx hd hrem ht).2 w hw hlt)
  · exact run_unchanged hr (xferComplete_frames (s := s.clearOuts) hx hd hrem)
  · subst hso
    obtain ⟨t, ht, h, herr, hmem, hlm⟩ := exec_xfer_read hr hd hrem hstop haway hrows hclean hx ht (by rw [hpl])
      (by rw [hpl]; exact hle) hp
    refine ⟨t, ht, hleft h, herr, hmem, fun i => ?_⟩
    rw [hlm, tget_writeBytes, readBytes_length]
    exact ite_congr rfl (fun hi => readBytes_getD _ _ _ _ (by omega)) fun _ => rfl
  · subst hso
    obtain ⟨t, ht, h, herr, hlm, hmem⟩ := exec_xfer_write hr hd hrem hstop haway hrows hclean hx hn (by rw [hpl])
      (by rw [hpl]; exact hle)
    refine ⟨t, ht, hleft h, herr, hlm, fun i => ?_⟩
    rw [hmem, tget_writeBytes, readBytes_length]
    exact ite_congr rfl (fun hi => readBytes_getD _ _ _ _ (by omega)) fun _ => rfl

end Sys2Proof.Machine
end

section
/-! PROOFS. Writes of registers (17 R630 to R636, R652): a block's base decodes to that block again, a write of an aligned word does
what the register's access allows, and CORE.CTRL takes its keyed writes (04 R160). -/
namespace Sys2Proof.Machine

/-! ## Decoding (17 R636, R637) -/

/-- The base of a block decodes to that block. -/
def BaseOf (b : Blk × Nat) : Prop := b.2 % 0x1000 = 0 ∧ csrSlot 48 (bits b.2 23 20) (bits b.2 17 12) = b

/-- Outside the cores every slot decodes to a block at that block's own base. -/
theorem csrSlot_baseOf {e r slot : Nat} (hs : slot < 64) (h : (csrSlot e r slot).1 ≠ .coreB) : BaseOf (csrSlot e r slot) := by
  have hquad : ∀ c < 4, BaseOf (.rxpB, 0x301000 + c * 0x10000) ∧ BaseOf (.weirB, 0x302000 + c * 0x10000) ∧
      BaseOf (.poolB, 0x300000 + c * 0x10000) := by unfold BaseOf; decide
  have hport : ∀ i < 8, BaseOf (.cpB, 0x400000 + i * 0x1000) := by unfold BaseOf; decide
  have hcfg : ∀ i < 13, 1 ≤ i → BaseOf (.cfgMem, 0x500000 + i * 0x1000) := by unfold BaseOf; decide
  have hmbx : ∀ i < 10, 1 ≤ i → BaseOf (.mbxB, 0x600000 + i * 0x1000) := by unfold BaseOf; decide
  obtain ⟨hrxp, hweir, hpool⟩ := hquad (slot / 16) (by omega)
  unfold csrSlot at h ⊢
  split
  · exact absurd rfl h
  · exact absurd rfl h
  · split
    · exact hrxp
    · exact hweir
    · exact hpool
    · exact ⟨rfl, rfl⟩
  · split
    · exact hport _ ‹_›
    · (repeat' split) <;> exact ⟨rfl, rfl⟩
  · split
    · next hi => exact hcfg _ (by omega) hi.1
    · exact ⟨rfl, rfl⟩
  · split
    · next hi => exact hmbx _ (by omega) hi.1
    · exact ⟨rfl, rfl⟩
  · unfold csrSlot0
    split <;> exact ⟨rfl, rfl⟩

theorem Blk.size_cases (b : Blk) : b.size = 256 ∨ b.size = 1024 ∨ b.size = 4096 := by
  cases b <;> decide

/-- An offset within a block at its base decodes to the block, the base and the aligned offset. -/
theorem csrAt_base {b : Blk × Nat} {x : Nat} (hb : BaseOf b) (hx : x < b.1.size) (h4 : x % 4 = 0) :
    csrAt 48 (b.2 + x) = (b.1, b.2, x) := by
  obtain ⟨hbase, hslot⟩ := hb
  have hsize := b.1.size_cases
  have hregion : bits (b.2 + x) 23 20 = bits b.2 23 20 := by simp only [bits]; omega
  have hplace : bits (b.2 + x) 17 12 = bits b.2 17 12 := by simp only [bits]; omega
  have hrel : (b.2 + x) % b.1.size / 4 * 4 = x := by
    rcases hsize with h | h | h <;> rw [h] at hx ⊢ <;> omega
  unfold csrAt
  simp only [hregion, hplace, hslot, hrel]

/-- Outside the cores, what an offset decodes to is found again at the register's first offset. -/
theorem csrAt_again {e off : Nat} (h : (csrAt e off).1 ≠ .coreB) :
    csrAt 48 ((csrAt e off).2.1 + (csrAt e off).2.2) = csrAt e off := by
  have hslot : bits off 17 12 < 64 := Nat.mod_lt _ (by decide)
  have hsize : 0 < (csrAt e off).1.size := by rcases (csrAt e off).1.size_cases with h | h | h <;> omega
  have hlt : off % (csrAt e off).1.size < (csrAt e off).1.size := Nat.mod_lt _ hsize
  exact csrAt_base (b := csrSlot e (bits off 23 20) (bits off 17 12)) (x := (csrAt e off).2.2) (csrSlot_baseOf hslot h)
    (Nat.lt_of_le_of_lt (Nat.div_mul_le_self _ _) hlt) (Nat.mul_mod_left _ _)

theorem rowAt_again {e off : Nat} (h : (csrAt e off).1 ≠ .coreB) :
    rowAt ((csrAt e off).2.1 + (csrAt e off).2.2) = (csrAt e off).1.row (csrAt e off).2.2 := by
  simp only [rowAt, csrAt_again h]

/-- No collector, and not DET.STRICT, is a register with RW access. -/
theorem watched_not_rw {a : Nat} {r : RegRow} (ha : a ∈ State.watched) (hr : rowAt a = some r) : r.acc ≠ .rw := by
  have hall : ∀ a ∈ State.watched, (rowAt a).all (fun r => r.acc != .rw) = true := by decide +kernel
  have := hall a ha
  rw [hr] at this
  simpa using this

namespace State

variable {s : State}

/-! ## Writes of words (17 R630, R652) -/

theorem writeCsr_none {p off : Nat} {bs : List Byte} (h : (off + bs.length) / 4 ≤ (off + 3) / 4) : s.writeCsr p off bs = s := by
  have hcount : (off + bs.length) / 4 - (off + 3) / 4 = 0 := by omega
  simp only [writeCsr, hcount, List.range_zero, List.foldl_nil]

theorem writeCsr_word {p off : Nat} {bs : List Byte} (h4 : off % 4 = 0) (hlen : bs.length = 4) :
    s.writeCsr p off bs = s.writeWord p off (BitVec.ofNat 32 (fieldAt bs 0 4)) := by
  have hcount : (off + bs.length) / 4 - (off + 3) / 4 = 1 := by omega
  have hat : ((off + 3) / 4 + 0) * 4 = off := by omega
  simp only [writeCsr, hcount, List.range_one, List.foldl_cons, List.foldl_nil, hat, Nat.sub_self]

theorem lockOpen_shut {k : Nat} (h : k ∉ s.ctl.locks) : s.lockOpen k = false := by
  simp only [lockOpen, Bool.and_eq_false_iff]
  exact .inl (by simpa using h)

theorem lockOpen_over {k : Nat} (h : s.lockOver k = true) : s.lockOpen k = false := by
  simp only [lockOpen, h, Bool.not_true, Bool.and_false]

/-- A write to a register outside the cores, by the register's access. -/
def writeByAccess (p base a : Nat) (r : RegRow) (v : Word) (s : State) : State :=
  match r.acc with
  | .ro => s
  | .wseq => s.writeSeq p a r v
  | .rw => s.writeRw p a r v
  | .wo => s.setLock a (v == 0x5A3C)
  | .keyed => if s.lockOpen (base + 0x3F0) then (s.setLock (base + 0x3F0) false).writeKeyed a v else s

theorem writeByAccess_rw {p base a : Nat} {r : RegRow} {v : Word} (h : r.acc = .rw) :
    s.writeByAccess p base a r v = s.writeRw p a r v := by
  simp only [writeByAccess, h]

section
variable (hm : s.mode = .running) {p off : Nat} {v : Word} {b : Blk × Nat × Nat} (hb : csrAt s.enabled off = b)
include hm hb

theorem writeWord_register {r : RegRow} (hcore : b.1 ≠ .coreB) (hr : b.1.row b.2.2 = some r) :
    s.writeWord p off v = s.writeByAccess p b.2.1 (b.2.1 + b.2.2) r v := by
  have hrow : rowAt (b.2.1 + b.2.2) = some r := by rw [← hb] at hcore ⊢; rw [rowAt_again hcore, hb, hr]
  have hmode : (s.mode != .running) = false := by rw [hm]; rfl
  obtain ⟨blk, base, x⟩ := b
  unfold writeWord
  simp only [hb, hmode, hrow, Bool.false_eq_true, if_false]
  cases blk
  case coreB => exact absurd rfl hcore
  case mbxB | cfgMem | logWin => cases hr
  all_goals rfl

/-- A write to a CORE block reaches the core whose lock the block names, or nothing (17 R638, R639). -/
theorem writeWord_core (hcore : b.1 = .coreB) : s.writeWord p off v = s ∨
    ∃ q, s.lockKey b = some (2 ^ 24 + q) ∧ s.writeWord p off v = s.writeCore q b.2.2 v := by
  have hmode : (s.mode != .running) = false := by rw [hm]; rfl
  obtain ⟨blk, base, x⟩ := b
  subst hcore
  unfold writeWord lockKey
  simp only [hb, hmode, Bool.false_eq_true, if_false]
  split
  · cases hq : s.physOf ((base - 0x100000) / 0x1000 % 256) with
    | none => exact .inl rfl
    | some q => exact .inr ⟨q, rfl, rfl⟩
  · split
    · exact .inl rfl
    · exact .inr ⟨_, rfl, rfl⟩

end

theorem writeCore_ro {q x : Nat} {v : Word} {r : RegRow} (hr : Blk.coreB.row x = some r) (hacc : r.acc = .ro) :
    s.writeCore q x v = s := by
  simp only [writeCore, hr, hacc]

theorem writeCore_locked {q x : Nat} {v : Word} {r : RegRow} (hr : Blk.coreB.row x = some r) (hacc : r.acc = .keyed)
    (hl : s.lockOpen (2 ^ 24 + q) = false) : s.writeCore q x v = s := by
  simp only [writeCore, hr, hacc, hl, Bool.false_eq_true, if_false]

theorem accAt_some {off : Nat} {x : Acc} (h : s.accAt off = some x) :
    ∃ r, (csrAt s.enabled off).1.row (csrAt s.enabled off).2.2 = some r ∧ r.acc = x := Option.map_eq_some_iff.1 h

/-- A word written to an RO register changes nothing. -/
theorem writeWord_ro (hm : s.mode = .running) {p off : Nat} {v : Word} (h : s.accAt off = some .ro) : s.writeWord p off v = s := by
  obtain ⟨r, hr, hacc⟩ := accAt_some h
  by_cases hcore : (csrAt s.enabled off).1 = .coreB
  · rw [hcore] at hr
    rcases writeWord_core (p := p) (v := v) hm rfl hcore with hw | ⟨q, -, hw⟩
    · exact hw
    · rw [hw, writeCore_ro hr hacc]
  · rw [writeWord_register hm rfl hcore hr]
    simp only [writeByAccess, hacc]

theorem lockKey_block {b : Blk × Nat × Nat} (h : b.1 ≠ .coreB) : s.lockKey b = some (b.2.1 + 0x3F0) := by
  unfold lockKey
  split
  · exact absurd ‹_› h
  · rfl

/-- A word written to a KEYED register whose lock is closed changes nothing (17 R652). -/
theorem writeWord_locked (hm : s.mode = .running) {p off k : Nat} {v : Word} (h : s.accAt off = some .keyed)
    (hk : s.lockKey (csrAt s.enabled off) = some k) (hl : s.lockOpen k = false) : s.writeWord p off v = s := by
  obtain ⟨r, hr, hacc⟩ := accAt_some h
  by_cases hcore : (csrAt s.enabled off).1 = .coreB
  · rw [hcore] at hr
    rcases writeWord_core (p := p) (v := v) hm rfl hcore with hw | ⟨q, hq, hw⟩
    · exact hw
    · rw [hk] at hq
      obtain rfl := Option.some.inj hq
      rw [hw, writeCore_locked hr hacc hl]
  · rw [lockKey_block hcore] at hk
    obtain rfl := Option.some.inj hk
    rw [writeWord_register hm rfl hcore hr]
    simp only [writeByAccess, hacc, hl, Bool.false_eq_true, if_false]

/-- A word written to the front end's configuration memory is kept where the place is assigned (17 R644). -/
theorem writeWord_cfgMem (hm : s.mode = .running) {p off : Nat} {v : Word} {b : Blk × Nat × Nat} (hb : csrAt s.enabled off = b)
    (hcfg : b.1 = .cfgMem) : s.writeWord p off v =
      if cfgHeld (b.2.1 + b.2.2 - 0x500000) then { s with ctl := s.ctl.setArr bankCfg ((b.2.1 + b.2.2 - 0x500000) / 4) v } else s := by
  have hmode : (s.mode != .running) = false := by rw [hm]; rfl
  obtain ⟨blk, base, x⟩ := b
  subst hcfg
  unfold writeWord
  simp only [hb, hmode, Bool.false_eq_true, if_false]

/-- The registers with a rule of their own for a plain write, the MAC addresses of ports apart. -/
def ruled : List Nat :=
  [Reg.TIME_INCREMENT_HI, Reg.TIME_ADJ, Reg.TIME_FRAME_ADV, Reg.BKW_CTRL, Reg.BKW_CACHE_BASE, Reg.BKW_CACHE_SIZE]

/-- A word written to an RW register without a rule of its own sets its writable bits (17 R632). -/
theorem writeRw_plain {p a : Nat} {r : RegRow} {v : Word} (hsel : isSelector a = false) (harr : arrayOf a = none) (hrule : a ∉ ruled)
    (hmac : ∀ i, i < 8 → a ≠ Reg.CP_MAC_LO i ∧ a ≠ Reg.CP_MAC_HI i) :
    s.writeRw p a r v = s.setReg a ((s.reg a &&& ~~~(BitVec.ofNat 32 r.rw)) ||| (v &&& BitVec.ofNat 32 r.rw)) := by
  have hport : ¬(0x400000 ≤ a ∧ a < 0x408000 ∧ (a % 0x1000 = 0x14 ∨ a % 0x1000 = 0x18)) := fun ⟨hlo, hhi, hoff⟩ => by
    have := hmac ((a - 0x400000) / 0x1000) (by omega)
    simp only [Reg.CP_MAC_LO, Reg.CP_MAC_HI] at this
    omega
  simp only [ruled, List.mem_cons, List.not_mem_nil, or_false, not_or] at hrule
  obtain ⟨hinc, hadj, hadv, hctrl, hbase, hsize⟩ := hrule
  simp only [writeRw, hsel, harr, hinc, hadj, hadv, hctrl, hbase, hsize, hport, or_self, Bool.false_eq_true, if_false]

/-! ## CORE.CTRL (04 R160) -/

section
variable (hm : s.mode = .running) {p : Nat} {v : Word}
include hm

theorem writeWord_ctrl_logical {n : Nat} {k : Fin 48} (hk : k.val < s.enabled) (hp : s.physOf k.val = some p) :
    s.writeWord n (coreOffset (.logical k) 0x48) v = s.writeCore p 0x48 v := by
  have hat : csrAt s.enabled (coreOffset (.logical k) 0x48) = (.coreB, 0x100000 + k.val * 0x1000, 0x48) := by
    have hregion : bits (0x100000 + k.val * 0x1000 + 0x48) 23 20 = 1 := by simp only [bits]; omega
    have hslot : bits (0x100000 + k.val * 0x1000 + 0x48) 17 12 = k.val := by simp only [bits]; omega
    have hrel : (0x100000 + k.val * 0x1000 + 0x48) % 1024 / 4 * 4 = 0x48 := by omega
    simp only [coreOffset, csrAt, csrSlot, hregion, hslot, if_pos hk, Blk.size, hrel]
  have hmode : (s.mode != .running) = false := by rw [hm]; rfl
  have hnum : (0x100000 + k.val * 0x1000 - 0x100000) / 0x1000 % 256 = k.val := by omega
  have hlow : 0x100000 + k.val * 0x1000 < 0x200000 := by omega
  unfold writeWord
  simp only [hat, hmode, hnum, hlow, hp, Bool.false_eq_true, if_false, if_true]

theorem writeWord_ctrl_physical {q : Fin 52} (hf : ∀ d ∈ s.fuses.disabled, d.val ≠ q.val) :
    s.writeWord (pathNum .wellhead) (coreOffset (.physical q) 0x48) v = s.writeCore q.val 0x48 v := by
  have hat : csrAt s.enabled (coreOffset (.physical q) 0x48) = (.coreB, 0x200000 + q.val * 0x1000, 0x48) := by
    have hregion : bits (0x200000 + q.val * 0x1000 + 0x48) 23 20 = 2 := by simp only [bits]; omega
    have hslot : bits (0x200000 + q.val * 0x1000 + 0x48) 17 12 = q.val := by simp only [bits]; omega
    have hrel : (0x200000 + q.val * 0x1000 + 0x48) % 1024 / 4 * 4 = 0x48 := by omega
    simp only [coreOffset, csrAt, csrSlot, hregion, hslot, if_pos q.isLt, Blk.size, hrel]
  have hmode : (s.mode != .running) = false := by rw [hm]; rfl
  have hnum : (0x200000 + q.val * 0x1000 - 0x100000) / 0x1000 % 256 = q.val := by omega
  have hhigh : ¬0x200000 + q.val * 0x1000 < 0x200000 := by omega
  have hfused : (s.fuses.disabled.any fun d => d.val == q.val) = false :=
    List.any_eq_false.2 fun d hd => by simpa using hf d hd
  unfold writeWord
  simp only [hat, hmode, hnum, hhigh, hfused, pathNum, ne_eq, not_true_eq_false, Bool.false_eq_true, or_self, if_false]

end

theorem writeCore_ctrl (s : State) (p : Nat) (v : Word) : s.writeCore p 0x48 v =
    if s.lockOpen (2 ^ 24 + p) then (s.setLock (2 ^ 24 + p) false).writeCoreCtrl p v else s := rfl

/-- A core stands halted. -/
def isHalted (c : Core) : Bool :=
  match c.run with
  | .halted _ => true
  | _ => false

section
variable {p : Nat} (hf : (s.core p).run ≠ .fenced) (hu : (s.core p).run ≠ .unpowered)
include hf hu

/-- A keyed write of CORE.CTRL reaches a core that is neither fenced nor without power. -/
theorem writeCoreCtrl_eq (v : Word) : s.writeCoreCtrl p v = s.setCore p { s.core p with
    haltReq := bitOf v.toNat 0, scrub := (s.core p).scrub || (bitOf v.toNat 1 && isHalted (s.core p))
    run := if !bitOf v.toNat 0 && (s.core p).run == .halted .ctrl then .running else (s.core p).run } := by
  have hrun : ∀ b : Bool, (if b then RunState.running else (s.core p).run) ≠ .fenced ∧
      (if b then RunState.running else (s.core p).run) ≠ .unpowered := by
    intro b
    cases b
    · exact ⟨hf, hu⟩
    · exact ⟨nofun, nofun⟩
  unfold writeCoreCtrl
  extract_lets c halt halted d
  obtain ⟨hf', hu'⟩ := hrun (!halt && c.run == RunState.halted .ctrl)
  split
  · exact absurd ‹_› hu'
  · exact absurd ‹_› hf'
  · rfl

theorem writeCoreCtrl_halt : s.writeCoreCtrl p 1 = s.setCore p { s.core p with haltReq := true } := by
  rw [writeCoreCtrl_eq hf hu, show bitOf (1 : Word).toNat 0 = true from rfl, show bitOf (1 : Word).toNat 1 = false from rfl,
    Bool.false_and, Bool.or_false]
  rfl

theorem writeCoreCtrl_start : s.writeCoreCtrl p 0 = s.setCore p { s.core p with
    haltReq := false, run := if (s.core p).run = .halted .ctrl then .running else (s.core p).run } := by
  rw [writeCoreCtrl_eq hf hu, show bitOf (0 : Word).toNat 0 = false from rfl, show bitOf (0 : Word).toNat 1 = false from rfl,
    Bool.false_and, Bool.or_false]
  simp only [Bool.not_false, Bool.true_and, beq_iff_eq]

theorem writeCoreCtrl_scrub_halted {why : HaltWhy} (h : (s.core p).run = .halted why) :
    s.writeCoreCtrl p 3 = s.setCore p { s.core p with haltReq := true, scrub := true } := by
  have hhalted : isHalted (s.core p) = true := by rw [isHalted, h]
  rw [writeCoreCtrl_eq hf hu, hhalted, show bitOf (3 : Word).toNat 0 = true from rfl, show bitOf (3 : Word).toNat 1 = true from rfl,
    Bool.and_self, Bool.or_true]
  rfl

theorem writeCoreCtrl_scrub_running (h : ∀ why, (s.core p).run ≠ .halted why) :
    s.writeCoreCtrl p 3 = s.setCore p { s.core p with haltReq := true } := by
  have hhalted : isHalted (s.core p) = false := by
    unfold isHalted
    split
    · exact absurd ‹_› (h _)
    · rfl
  rw [writeCoreCtrl_eq hf hu, hhalted, show bitOf (3 : Word).toNat 0 = true from rfl, Bool.and_false, Bool.or_false]
  rfl

end

/-! ## The commands -/

/-- A command that writes the CORE.CTRL of core `p`. -/
theorem run_ctrl {f : State → State} {p : Nat} {v : Word} (hr : s.ready = true)
    (hw : f s.clearOuts = s.clearOuts.writeCore p 0x48 v) :
    (s.lockOpen (2 ^ 24 + p) = false → s.run f = .next s.clearOuts) ∧
    ∀ d : Core, s.lockOpen (2 ^ 24 + p) = true → d.evs = (s.core p).evs →
      (s.clearOuts.setLock (2 ^ 24 + p) false).writeCoreCtrl p v = (s.clearOuts.setLock (2 ^ 24 + p) false).setCore p d →
      s.run f = .next ((s.clearOuts.setLock (2 ^ 24 + p) false).setCore p d) := by
  rw [writeCore_ctrl] at hw
  refine ⟨fun hl => run_unchanged hr (hw.trans (if_neg ?_)), fun d hl he hd => run_eq hr (hw.trans ((if_pos hl).trans hd)) ?_ rfl rfl⟩
  · rw [show s.clearOuts.lockOpen (2 ^ 24 + p) = s.lockOpen (2 ^ 24 + p) from rfl, hl]
    exact Bool.false_ne_true
  · exact (setCore_settled (s := s.clearOuts.setLock (2 ^ 24 + p) false) he).trans (settled_of_regs rfl rfl rfl rfl rfl rfl)

end State

open State

/-- CORE.CTRL takes its keyed writes with the lock open (04 R160; 17 R652). -/
theorem coreControlWritten : Claims.CoreControlWritten := by
  intro s path sel on p hr c shut hsel hf hu
  obtain ⟨hm, -, -⟩ := ready_iff.1 hr
  have hword (v : Word) : s.clearOuts.writeWord (pathNum path) (coreOffset sel 0x48) v = s.clearOuts.writeCore p 0x48 v := by
    cases sel with
    | logical k =>
      obtain ⟨hk, hp⟩ := hsel
      exact writeWord_ctrl_logical (s := s.clearOuts) hm hk hp
    | physical q =>
      obtain ⟨rfl, rfl, hd⟩ := hsel
      exact writeWord_ctrl_physical (s := s.clearOuts) hm hd
  have hhalt (on : Bool) := run_ctrl (f := fun s => s.writeWord (pathNum path) (coreOffset sel 0x48) (if on then 1 else 0)) hr (hword _)
  have hscrub := run_ctrl (f := fun s => s.writeWord (pathNum path) (coreOffset sel 0x48) 3) hr (hword 3)
  refine ⟨fun hl => ⟨(hhalt on).1 hl, hscrub.1 hl⟩, fun hl => ⟨?_, ?_, fun ⟨why, hwhy⟩ => ?_, fun hwhy => ?_⟩⟩
  · exact (hhalt true).2 _ hl rfl (writeCoreCtrl_halt (s := s.clearOuts.setLock _ false) hf hu)
  · exact (hhalt false).2 _ hl rfl (writeCoreCtrl_start (s := s.clearOuts.setLock _ false) hf hu)
  · exact hscrub.2 _ hl rfl (writeCoreCtrl_scrub_halted (s := s.clearOuts.setLock _ false) hf hu hwhy)
  · exact hscrub.2 _ hl rfl (writeCoreCtrl_scrub_running (s := s.clearOuts.setLock _ false) hf hu hwhy)

/-- Writes by address do what the access of the register written allows (17 R630, R631, R652). -/
theorem registerWordsWritten : Claims.RegisterWordsWritten := by
  intro s path off bs hr hwf u b a v
  obtain ⟨hm, -, -⟩ := ready_iff.1 hr
  have hexec : exec (.registerWrite path off bs) s = s.run fun s => s.writeCsr (pathNum path) off.toNat bs := rfl
  have hword (h4 : off.toNat % 4 = 0) (hlen : bs.length = 4) :
      u.writeCsr (pathNum path) off.toNat bs = u.writeWord (pathNum path) off.toNat v := writeCsr_word h4 hlen
  rw [hexec]
  refine ⟨fun hcount => run_unchanged hr (writeCsr_none hcount), fun h4 hlen hacc => run_unchanged hr ((hword h4 hlen).trans ?_),
    fun k h4 hlen hacc hk hl => run_unchanged hr ((hword h4 hlen).trans ?_),
    fun k h4 hlen hacc hk hl => run_unchanged hr ((hword h4 hlen).trans ?_), fun hcfg h4 hlen => ?_,
    fun r h4 hlen hcore hrow hacc hsel harr hrule hmac => ?_⟩
  · exact writeWord_ro (s := u) hm hacc
  · exact writeWord_locked (s := u) hm hacc hk (lockOpen_shut hl)
  · exact writeWord_locked (s := u) hm hacc hk (lockOpen_over hl)
  · have hkept := (hword h4 hlen).trans (writeWord_cfgMem (s := u) hm rfl hcfg)
    by_cases hheld : cfgHeld (a - 0x500000) = true
    · rw [if_pos hheld]
      exact run_eq hr (hkept.trans (if_pos hheld)) (settled_of_regs rfl rfl rfl rfl rfl rfl) rfl rfl
    · rw [if_neg hheld]
      exact run_unchanged hr (hkept.trans (if_neg hheld))
  · have hset : u.writeWord (pathNum path) off.toNat v = _ := (writeWord_register (s := u) hm rfl hcore hrow).trans
      ((writeByAccess_rw hacc).trans (writeRw_plain hsel harr hrule hmac))
    have hat : rowAt a = some r := (rowAt_again hcore).trans hrow
    have hwatched : a ∉ watched := fun h => watched_not_rw h hat hacc
    exact run_eq hr ((hword h4 hlen).trans hset) ((setReg_settled u hwatched).trans (clearOuts_settled s)) rfl rfl

/-- Settles O20: CORE.CTRL by its four writes, a word written by address by the access of its register. -/
theorem plainRegistersWritten : Obligations.PlainRegistersWritten := ⟨coreControlWritten, registerWordsWritten⟩

end Sys2Proof.Machine
end

section
/-! PROOFS. One cycle of a core (04 R144, R153, R160; 05 R163 to R168, R178, R179): what the bundle at the pc makes of the core, one lemma
for each way the cycle can go, and that the cycle leaves the rest of the device alone. -/
namespace Sys2Proof.Machine

/-! ## What the bundle makes of its core -/

/-- A MOVS write of FLAGS (05 R167, R170). -/
def writesFlags (v : Nat) : Bool := sOp v == 0x0B && bitOf v 11 && bits v 16 12 == 0

/-- A bundle whose operation in S0 stands alone. -/
structure Bundle.ScalarAlone (b : Bundle) : Prop where
  s1 : b.s1 = 0
  l : b.l = 0
  e : b.e = 0
  m : b.m = 0

namespace Core

theorem arrive_banksFree {c : Core} (h : c.BanksFree) : c.arrive.BanksFree := by
  obtain ⟨g, a, dv, lm, ha⟩ := c.arrive_eq
  rw [ha]
  exact ⟨h.bankWait, h.eddy⟩

theorem arrive_keepsRun (c : Core) : c.arrive.run = c.run := by
  obtain ⟨g, a, dv, lm, ha⟩ := c.arrive_eq
  rw [ha]

/-- A core that does not issue its bundle: the stall counts in `ks` (04 R153). -/
def stalled (ks : List Nat) (c : Core) : Core := { ks.foldl (fun d k => d.count k 1) c with stall := c.stall + 1 }

theorem stalled_eq (ks : List Nat) (c : Core) : ∃ regs, c.stalled ks = { c with regs := regs, stall := c.stall + 1 } := by
  obtain ⟨regs, h⟩ := counts_eq ks c
  exact ⟨regs, by rw [stalled, h]⟩

/-- A core as a bundle with `v` alone in S0 begins to issue: a MOVS write of FLAGS leaves what the cycle's events have set. -/
def begins (v : Nat) (c : Core) : Core :=
  { c with
    run := .running, stall := 0, served := 0, parked := false
    flags := if writesFlags v then (c.gr (bits v 21 17)).toNat % 32 ||| c.raised else c.flags }

theorem begins_flagsKept {v : Nat} {c : Core} (hrun : c.run = .running) (h : writesFlags v = false) :
    c.begins v = { c with stall := 0, served := 0, parked := false } := by
  simp only [begins, h, ← hrun, Bool.false_eq_true, if_false]

theorem begins_flagsWritten {v : Nat} {c : Core} (hrun : c.run = .running) (h : writesFlags v = true) :
    c.begins v = { c with stall := 0, served := 0, parked := false, flags := (c.gr (bits v 21 17)).toNat % 32 ||| c.raised } := by
  simp only [begins, h, ← hrun, if_true]

/-- A core that its bundle has left for the next one. -/
def moved (c : Core) : Core := { c with raised := 0, pc := (c.pc + 1) % 4096 }

/-- `d` is the core `c` that an illegal bundle has halted (05 R165; 04 R157). -/
structure IllegalAt (c d : Core) : Prop where
  run : d.run = .halted .illegal
  evs : d.evs = c.evs ++ [9]
  event : bitOf (d.reg cFAULTWORD).toNat 9 = true
  banks : c.BanksFree → d.BanksFree

end Core

theorem controlOk_alone {c : Core} {b : Bundle} (hb : b.ScalarAlone) (hd : c.delay = 0) (hr : c.reps = []) (hrep : isRep b.s0 = false) :
    controlOk c b = true := by
  have hnone : isRep 0 = false := rfl
  simp [controlOk, hd, hr, hrep, hb.s1, hnone]

theorem waitOf_alone {c : Core} {b : Bundle} (hb : b.ScalarAlone) : waitOf c b = [] := by
  rw [waitOf, hb.l, hb.e, hb.m]; rfl

theorem copiedOk_alone {c : Core} {b : Bundle} (hb : b.ScalarAlone) (h : sOp b.s0 ≠ 0x0C) : copiedOk c b = true := by
  rw [copiedOk, hb.l, hb.e, hb.m, hb.s1, bne_iff_ne.2 h]; rfl

theorem bankReqs_alone {c : Core} {b : Bundle} (hb : b.ScalarAlone) : bankReqs c b = [] := by
  rw [bankReqs, hb.l, hb.m]; rfl

theorem halfOf_alone {c : Core} {b : Bundle} (hb : b.ScalarAlone) : c.halfOf b = c.half := by
  rw [Core.halfOf, hb.m]; rfl

theorem goOn_plain {d : Core} (hd : d.delay = 0) (hr : d.reps = []) (shifted : Bool) :
    goOn ⟨d, none, none, false, shifted⟩ = { d with pc := (d.pc + 1) % 4096 } := by
  cases d
  subst hd hr
  rfl

theorem scalar_empty (e : CoreEnv) (old : Core) (rhu : Bool) (q : Seq) : scalar e old rhu 0 q = q := rfl

theorem slots_empty (old : Core) (rhu : Bool) (d : Core) : memSlot old 0 (eddySlot old rhu 0 (laneSlot old rhu 0 d)) = d := rfl

theorem find_writesFlags (v : Nat) : [v, 0].find? writesFlags = if writesFlags v then some v else none := by
  have hempty : writesFlags 0 = false := rfl
  cases h : writesFlags v <;> simp [h, hempty]

/-- A bundle with one operation in S0 leaves what that operation leaves, and goes on to the next bundle. -/
theorem issue_alone {e : CoreEnv} {b : Bundle} {c d : Core} (hb : b.ScalarAlone)
    (hs : scalar e c (b.rhu || c.mode == 1) b.s0 ⟨c.begins b.s0, none, none, false, false⟩ = ⟨d, none, none, false, false⟩)
    (hd : d.delay = 0) (hr : d.reps = []) : issue e b false c = (d.moved, false) := by
  unfold issue
  extract_lets _ c0 rhu flags q0 q1 d1 d2 after d3
  have hflags : flags = if writesFlags b.s0 then (c.gr (bits b.s0 21 17)).toNat % 32 ||| c.raised else c.flags := by
    have hfind : [b.s0, b.s1].find? (fun v => sOp v == 0x0B && bitOf v 11 && bits v 16 12 == 0) =
        if writesFlags b.s0 then some b.s0 else none := by
      rw [hb.s1]
      exact find_writesFlags b.s0
    subst flags
    rw [hfind]
    cases writesFlags b.s0 <;> rfl
  have h0 : q0 = ⟨c.begins b.s0, none, none, false, false⟩ := by
    have hhalf : c0.halfOf b = c.half := halfOf_alone hb
    subst q0
    rw [hhalf, hflags]
    rfl
  have h1 : q1 = ⟨d, none, none, false, false⟩ := by
    rw [← hs, ← h0]
    subst q1
    rw [hb.s1]
    exact scalar_empty ..
  have h2 : d2 = d := by
    subst d2 d1
    rw [h1, hb.l, hb.e, hb.m]
    exact slots_empty ..
  have hafter : after = { d with pc := (d.pc + 1) % 4096 } := by
    subst after
    rw [h1, h2]
    exact goOn_plain hd hr _
  have h3 : d3 = d.moved := by
    subst d3
    rw [hafter]
    rfl
  rw [h1, h3]
  rfl

/-- An ALU operation takes its operands as the bundle finds them, and its result arrives after its latency (05 R163, R168). -/
theorem scalar_alu {e : CoreEnv} {old : Core} {rhu : Bool} {v : Nat} {q : Seq} (h : sOp v = 1) :
    let r := aluFn (bits v 6 0) (old.gr (bits v 16 12)) (old.gr (bits v 11 7))
    scalar e old rhu v q = { q with c := q.c.putG (bits v 21 17) r.2 r.1 } := by
  simp only [scalar, h]

theorem writesFlags_iff {v : Nat} : writesFlags v = true ↔ sOp v = 0x0B ∧ bitOf v 11 = true ∧ bits v 16 12 = 0 := by
  simp only [writesFlags, Bool.and_eq_true, beq_iff_eq, and_assoc]

/-- A MOVS write of FLAGS does nothing beside what `Core.begins` has done. -/
theorem scalar_movsFlags {e : CoreEnv} {old : Core} {rhu : Bool} {v : Nat} {q : Seq} (h : writesFlags v = true) :
    scalar e old rhu v q = q := by
  obtain ⟨hop, hwrite, hflags⟩ := writesFlags_iff.1 h
  simp only [scalar, hop, hwrite, hflags, if_true]
  rfl

theorem isRep_of_sOp {v n : Nat} (h : sOp v = n) (hn : n ≠ 0x1C) : isRep v = false := by
  rw [isRep, h, beq_eq_false_iff_ne]
  exact hn

/-! ## What the bundle at the pc makes of the device -/

namespace State

variable {s : State} {p : Nat} {c : Core} {b : Bundle}

theorem holdOff_setCore (why : HaltWhy) : (s.setCore p c).holdOff p why =
    s.setCore p { c with run := .halted why, preempt := c.preempt && why != .preempted } := by
  rw [holdOff, onCore, setCore_core_self, setCore_setCore]

/-- An illegal bundle of a core that no job holds halts the core with the event, and changes nothing else (05 R165). -/
theorem illegal_setCore (hj : s.sched.jobs = []) : ∃ d, (s.setCore p c).illegal p false = s.setCore p d ∧ c.IllegalAt d := by
  obtain ⟨regs, hraise, hword⟩ := Core.raise_eq 9 0 c.pc 0 c
  generalize hd : ({ c.raise 9 0 c.pc 0 with run := .halted .illegal } : Core) = d
  obtain ⟨rank, hrank⟩ := noJob_setCore s p d
  have hleaf : (s.setCore p d).leafDiscard p = s.setCore p d := leafTo_noJobs (s := s.setCore p d) hj 1 3
  refine ⟨{ d with rank := rank }, ?_, ?_⟩
  · rw [← hrank, ← hleaf]
    simp only [illegal, setCore_core_self, setCore_setCore, Bool.false_eq_true, if_false, hd]
  · rw [← hd, hraise]
    exact ⟨rfl, rfl, (congrArg (fun w : Word => bitOf w.toNat 9) hword).trans (bitOf_evSet (by decide)),
      fun h => ⟨h.bankWait, h.eddy⟩⟩

section
variable (hb : bundleOf (c.bundle c.pc) = b)
include hb

theorem tryIssue_undecoded (hdec : b.decodeOk = false) :
    (s.setCore p c).tryIssue p false [] = (s.setCore p c).illegal p false := by
  simp only [tryIssue, setCore_core_self, hb, hdec, Bool.not_false, Bool.true_or, if_true, Bool.false_and]

variable (hdec : b.decodeOk = true) (hctl : controlOk c b = true)
include hdec hctl

/-- A bundle that must wait counts its stall (04 R153). -/
theorem tryIssue_waits {k : Nat} {ks : List Nat} (hwait : waitOf c b = k :: ks) :
    (s.setCore p c).tryIssue p false [] = s.setCore p (c.stalled (k :: ks)) := by
  obtain ⟨regs, hregs⟩ := Core.counts_eq (k :: ks) c
  simp only [tryIssue, setCore_core_self, hb, hdec, hctl, hwait, Bool.not_true, Bool.or_self, Bool.false_eq_true, if_false,
    setCore_setCore, Core.stalled, hregs]

variable (hwait : waitOf c b = []) (hcopied : copiedOk c b = true)
include hwait hcopied

/-- A bundle that a bank does not serve counts its stall (04 R144, R153). -/
theorem tryIssue_unserved (hbank : (c.bankServe b).1 < (bankReqs c b).length) :
    (s.setCore p c).tryIssue p false [] =
      s.setCore p (Core.stalled [cSTALL_BANK] { c with served := (c.bankServe b).1, taken := (c.bankServe b).2 }) := by
  simp only [tryIssue, setCore_core_self, hb, hdec, hctl, hwait, hcopied, hbank, Bool.not_true, Bool.or_self, Bool.false_eq_true,
    if_false, if_true, setCore_setCore]
  rfl

/-- A bundle that issues no transfer and ends no job replaces its core (05 R163). -/
theorem tryIssue_issues {d : Core} (hbank : ¬(c.bankServe b).1 < (bankReqs c b).length)
    (hissue : issue (s.coreEnv p) b false { c with taken := (c.bankServe b).2 } = (d, false)) (hx : d.xnum = c.xnum) :
    (s.setCore p c).tryIssue p false [] = s.setCore p d := by
  have henv : (s.setCore p c).coreEnv p = s.coreEnv p := rfl
  simp only [tryIssue, setCore_core_self, hb, hdec, hctl, hwait, hcopied, hbank, Bool.not_true, Bool.or_self, Bool.false_eq_true,
    if_false, Bool.false_and, List.filter_nil, Core.upsets, List.foldl_nil, henv, hissue, hx, if_true, setCore_setCore]

end

/-- An operation of S0 that stands alone in its bundle, and neither opens a repeat body nor sets an address mode, replaces its core. -/
theorem tryIssue_alone {d : Core} (hb : bundleOf (c.bundle c.pc) = b) (hdec : b.decodeOk = true) (halone : b.ScalarAlone)
    (hd : c.delay = 0) (hr : c.reps = []) (hrep : isRep b.s0 = false) (hmode : sOp b.s0 ≠ 0x0C)
    (hs : ∀ e rhu taken,
      scalar e { c with taken := taken } rhu b.s0 ⟨Core.begins b.s0 { c with taken := taken }, none, none, false, false⟩ =
        ⟨{ d with taken := taken }, none, none, false, false⟩)
    (hdd : d.delay = 0) (hdr : d.reps = []) (hx : d.xnum = c.xnum) :
    ∃ taken, (s.setCore p c).tryIssue p false [] = s.setCore p { d.moved with taken := taken } := by
  refine ⟨(c.bankServe b).2, tryIssue_issues hb hdec (controlOk_alone halone hd hr hrep) (waitOf_alone halone)
    (copiedOk_alone halone hmode) ?_ (issue_alone halone (hs _ _ _) hdd hdr) hx⟩
  rw [bankReqs_alone halone]
  exact Nat.not_lt_zero _

/-! ## How a cycle of a running core goes (05 R163, R178, R179, R191) -/

/-- HALT stops a core at a boundary (05 R178). -/
theorem runCycle_halts (hh : c.haltReq = true) (hbd : c.boundary = true) :
    (s.setCore p c).runCycle p [] = (s.setCore p { c with run := .halted .ctrl }, false) := by
  have hpre : (c.preempt && HaltWhy.ctrl != .preempted) = c.preempt := Bool.and_true _
  simp only [runCycle, setCore_core_self, hh, hbd, Bool.and_self, if_true, holdOff_setCore, hpre]

section
variable (hh : c.haltReq = false)
include hh

/-- A pre-emption request holds a bundle with CP set off (05 R179). -/
theorem runCycle_preempted (hpre : c.preempt = true) (hbd : c.boundary = true) (hcp : (bundleOf (c.bundle c.pc)).cp = true) :
    (s.setCore p c).runCycle p [] = (s.setCore p { c with run := .halted .preempted, preempt := false }, false) := by
  have hheld : heldOff c = some .preempted := by simp [heldOff, hh, hpre, hbd, hcp]
  have hgone : (c.preempt && HaltWhy.preempted != .preempted) = false := Bool.and_false _
  simp only [runCycle, setCore_core_self, setCore_setCore, hh, List.filter_nil, List.any_nil, Core.upsets, List.foldl_nil,
    Bool.false_and, Bool.false_eq_true, if_false, hheld, holdOff_setCore, hgone]

variable (hpre : c.preempt = false) (hb : bundleOf (c.bundle c.pc) = b)
include hpre hb

/-- A core that nothing holds off comes to its bundle: one without a gate is tried, a gated one must decode and be the armed gate's, and
waits for its launch (05 R163, R165, R191; 12 R474 to R476). -/
theorem runCycle_atBundle : (s.setCore p c).runCycle p [] =
    if b.g = false then ((s.setCore p c).tryIssue p false [], false)
    else if (!(c.gate.armed && c.gate.tgt == c.pc) || !b.decodeOk || !controlOk c b) = true then ((s.setCore p c).illegal p false, false)
    else if c.gate.opened = true then ((s.setCore p c).tryIssue p true [], false)
    else if gateL s.ns32 c.gate.time < 0 then (s.setCore p { c with run := .waiting }, false)
    else if s.reachesNow c = true then (s.setCore p { c with run := .waiting }, true)
    else ((s.setCore p { c with run := .waiting }).gateBehind p, false) := by
  have hheld : heldOff c = none := heldOff_none hh (by rw [hpre]; rfl)
  have hns : (s.setCore p c).ns32 = s.ns32 := rfl
  have hreach : (s.setCore p c).reachesNow c = s.reachesNow c := rfl
  simp only [runCycle, setCore_core_self, setCore_setCore, hh, List.filter_nil, List.any_nil, Core.upsets, List.foldl_nil,
    Bool.false_and, Bool.false_eq_true, if_false, hheld, hb, Bool.not_eq_true', hns, hreach]

theorem runCycle_ungated (hg : b.g = false) : (s.setCore p c).runCycle p [] = ((s.setCore p c).tryIssue p false [], false) := by
  rw [runCycle_atBundle hh hpre hb, if_pos hg]

/-- A bundle that does not decode is illegal, gated or not (05 R165). -/
theorem runCycle_undecoded (hdec : b.decodeOk = false) :
    (s.setCore p c).runCycle p [] = ((s.setCore p c).illegal p false, false) := by
  rw [runCycle_atBundle hh hpre hb, tryIssue_undecoded hb hdec, hdec, Bool.not_false, Bool.or_true, Bool.true_or, if_pos rfl, ite_self]

/-- A gated bundle before its time waits (05 R191; 12 R474). -/
theorem runCycle_beforeTime (hdec : b.decodeOk = true) (hctl : controlOk c b = true) (hg : b.g = true)
    (harm : c.gate.armed = true) (hop : c.gate.opened = false) (htgt : c.gate.tgt = c.pc) (ht : gateL s.ns32 c.gate.time < 0) :
    (s.setCore p c).runCycle p [] = (s.setCore p { c with run := .waiting }, false) := by
  have hlegal : (!(c.gate.armed && c.gate.tgt == c.pc) || !b.decodeOk || !controlOk c b) = false := by simp [harm, htgt, hdec, hctl]
  simp only [runCycle_atBundle hh hpre hb, hg, hlegal, hop, ht, Bool.true_eq_false, Bool.false_eq_true, if_false, if_true]

end

/-! ## What a cycle leaves alone -/

theorem cycleEnd_same (s : State) (p : Nat) (outside : List Nat) : SameMem s (s.cycleEnd p outside) := by
  unfold cycleEnd
  extract_lets
  split <;> exact ⟨rfl, rfl⟩

theorem sortLog_same (s : State) : SameMem s s.sortLog := by
  obtain ⟨l, h⟩ := sortLog_eq s
  rw [h]
  exact ⟨rfl, rfl⟩

theorem coreCycle_running {c d : Core} (hrun : (s.core p).run = .running) (hc : (s.core p).arrive = c)
    (h : (s.setCore p c).runCycle p [] = (s.setCore p d, false)) : s.coreCycle p [] [] = (s.setCore p d).cycleEnd p [] := by
  simp only [coreCycle, hrun, onCore, hc, h, Bool.false_eq_true, if_false]

/-- A core that is halted or out of service only counts its cycle (04 R160). -/
theorem coreCycle_stopped (h : (s.core p).run = .fenced ∨ ∃ why, (s.core p).run = .halted why) :
    s.coreCycle p [] [] = (s.setCore p (s.core p).arrive).cycleEnd p [] := by
  rcases h with h | ⟨why, h⟩ <;> simp only [coreCycle, h, onCore]

end State

/-! ## The command: one lemma for each way the cycle can go -/

namespace State

variable {s : State} {p : Fin 52}

/-- A cycle that makes `d` of its core leaves that core, its cycle counted, and the rest of the device alone. -/
theorem coreCycle_spec {d : Core} (hbub : s.pwr.bubble = 0) (hfree : d.BanksFree)
    (hcycle : s.coreCycle p.val [] [] = (s.setCore p.val d).cycleEnd p.val []) :
    (s.coreCycle p.val [] []).core p.val = d.cycled s.time.ticks ∧ CoreOnly p.val s (s.coreCycle p.val [] []) ∧
      SameMem s (s.coreCycle p.val [] []) := by
  have hcore : (s.setCore p.val d).core p.val = d := setCore_core_self ..
  obtain ⟨hend, honly, -⟩ := cycleEnd_spec (s := s.setCore p.val d) (p := p.val) hbub (by rwa [hcore])
  rw [hcore] at hend
  rw [hcycle]
  exact ⟨hend, (CoreOnly.setCore d).trans honly, cycleEnd_same (s.setCore p.val d) p.val []⟩

/-- BUNDLE_ISSUE answers core `p` as `d` with its cycle counted, and leaves the other cores, the memories and the time alone. -/
def Cycles (s : State) (p : Fin 52) (d : Core) : Prop :=
  ∃ t, exec (.bundleIssue p [] []) s = .next t ∧ t.core p.val = d.cycled s.time.ticks ∧
    (∀ q, q ≠ p.val → t.core q = s.core q) ∧ t.mem = s.mem ∧ t.host = s.host ∧ t.time = s.time

/-- `c` is core `p` of a ready device once the results due have arrived, and its cycle meets neither bubbles nor foreign requests. -/
structure Arrived (s : State) (p : Fin 52) (c : Core) : Prop where
  ready : s.ready = true
  bubble : s.pwr.bubble = 0
  core : (s.core p.val).arrive = c
  free : c.BanksFree

variable {c d : Core} (h : Arrived s p c)
include h

theorem Arrived.evs : c.evs = [] := by
  rw [← h.core, Core.arrive_evs]
  exact ready_evs h.ready p.isLt

theorem Arrived.run : c.run = (s.core p.val).run := by rw [← h.core, Core.arrive_keepsRun]

theorem Arrived.cycles (hcycle : s.clearOuts.coreCycle p.val [] [] = (s.clearOuts.setCore p.val d).cycleEnd p.val [])
    (hfree : d.BanksFree) (hevs : d.evs = []) : s.Cycles p d := by
  obtain ⟨hcore, honly, hsame⟩ := coreCycle_spec (s := s.clearOuts) h.bubble hfree hcycle
  have hall := honly.answered s.pending
  have hsettled := honly.settled (ready_settled h.ready) (by rw [hcore]; exact hevs)
  exact ⟨_, run_sorted (f := coreCycle p.val [] []) (ready_awake h.ready) hsettled, (Recorded.sortLog.core _).trans hcore, hall.others,
    hall.mem, (hsame.trans (sortLog_same _)).2, hall.time⟩

/-- A core without power does nothing (16 R588). -/
theorem bundleIssue_unpowered (hoff : c.run = .unpowered) : exec (.bundleIssue p [] []) s = .next s.clearOuts := by
  have hoff : (s.core p.val).run = .unpowered := h.run.symm.trans hoff
  exact run_unchanged (f := coreCycle p.val [] []) h.ready (by simp only [coreCycle, clearOuts_core_eq, hoff])

theorem bundleIssue_stopped (hstop : c.run = .fenced ∨ ∃ why, c.run = .halted why) : s.Cycles p c := by
  refine h.cycles ?_ h.free h.evs
  rw [coreCycle_stopped (s := s.clearOuts) (by rw [clearOuts_core_eq, ← h.run]; exact hstop), clearOuts_core_eq, h.core]

variable (hrun : c.run = .running)
include hrun

theorem Arrived.running (hcycle : (s.clearOuts.setCore p.val c).runCycle p.val [] = (s.clearOuts.setCore p.val d, false)) :
    s.clearOuts.coreCycle p.val [] [] = (s.clearOuts.setCore p.val d).cycleEnd p.val [] :=
  coreCycle_running (s := s.clearOuts) (h.run.symm.trans hrun) h.core hcycle

theorem bundleIssue_halts (hh : c.haltReq = true) (hbd : c.boundary = true) : s.Cycles p { c with run := .halted .ctrl } :=
  h.cycles (h.running hrun (runCycle_halts hh hbd)) ⟨h.free.bankWait, h.free.eddy⟩ h.evs

variable (hh : c.haltReq = false)
include hh

theorem bundleIssue_preempted (hpre : c.preempt = true) (hbd : c.boundary = true) (hcp : (bundleOf (c.bundle c.pc)).cp = true) :
    s.Cycles p { c with run := .halted .preempted, preempt := false } :=
  h.cycles (h.running hrun (runCycle_preempted hh hpre hbd hcp)) ⟨h.free.bankWait, h.free.eddy⟩ h.evs

variable (hpre : c.preempt = false) {b : Bundle} (hb : bundleOf (c.bundle c.pc) = b)
include hpre hb

theorem Arrived.ungated (hg : b.g = false)
    (htry : (s.clearOuts.setCore p.val c).tryIssue p.val false [] = s.clearOuts.setCore p.val d) :
    s.clearOuts.coreCycle p.val [] [] = (s.clearOuts.setCore p.val d).cycleEnd p.val [] :=
  h.running hrun ((runCycle_ungated hh hpre hb hg).trans (congrArg (·, false) htry))

/-- A bundle that does not decode halts its core with ILLEGAL (05 R165; 04 R157). -/
theorem bundleIssue_undecoded (hj : s.sched.jobs = []) (hdec : b.decodeOk = false) :
    ∃ t, exec (.bundleIssue p [] []) s = .next t ∧ (t.core p.val).run = .halted .illegal ∧
      bitOf ((t.core p.val).reg cFAULTWORD).toNat 9 = true ∧ t.mem = s.mem := by
  obtain ⟨d, hill, hd⟩ := illegal_setCore (s := s.clearOuts) (p := p.val) (c := c) hj
  have hcycle := h.running hrun ((runCycle_undecoded hh hpre hb hdec).trans (congrArg (·, false) hill))
  obtain ⟨hcore, honly, -⟩ := coreCycle_spec (s := s.clearOuts) h.bubble (hd.banks h.free) hcycle
  obtain ⟨t, ht, htcore, htonly⟩ := run_coreEvent (f := coreCycle p.val [] []) (p := p.val) (b := 9) h.ready p.isLt honly (by decide)
    (by rw [hcore]; exact hd.evs.trans (congrArg (· ++ [9]) h.evs)) rfl (by decide)
  refine ⟨t, ht, ?_⟩
  rw [htcore, hcore]
  exact ⟨hd.run, hd.event, htonly.mem⟩

variable (hdec : b.decodeOk = true)
include hdec

section
variable (hd : c.delay = 0) (hr : c.reps = []) (hg : b.g = false) (halone : b.ScalarAlone)
include hd hr hg halone

/-! The core that a cycle makes is read off `tryIssue`, and not off the statement: the banks it has taken are gone at the cycle's end. -/

/-- An ALU operation alone in its bundle sends its result off and sets its flags (05 R163, R167, R168). -/
theorem bundleIssue_alu (hop : sOp b.s0 = 1) :
    let r := aluFn (bits b.s0 6 0) (c.gr (bits b.s0 16 12)) (c.gr (bits b.s0 11 7))
    s.Cycles p { c with
      stall := 0, served := 0, parked := false, flags := c.flags ||| r.1.2
      flight := c.flight ++ [⟨c.cyc + r.2, .g (bits b.s0 21 17), r.1.1.toNat⟩], pc := (c.pc + 1) % 4096 } := by
  intro r
  have hkept := Core.begins_flagsKept (v := b.s0) hrun (by rw [writesFlags, hop]; rfl)
  obtain ⟨taken, htry⟩ := tryIssue_alone (s := s.clearOuts) (p := p.val) (d := (c.begins b.s0).putG (bits b.s0 21 17) r.2 r.1) hb hdec
    halone hd hr (isRep_of_sOp hop (by decide)) (by rw [hop]; decide) (fun e rhu taken => scalar_alu hop) hd hr rfl
  rw [hkept] at htry
  have hcycle := h.cycles (h.ungated hrun hh hpre hb hg htry) ⟨h.free.bankWait, h.free.eddy⟩ h.evs
  exact hcycle

/-- A MOVS write of FLAGS leaves set what an event of its cycle has set (05 R167). -/
theorem bundleIssue_movsFlags (hw : writesFlags b.s0 = true) :
    s.Cycles p { c with
      stall := 0, served := 0, parked := false, flags := (c.gr (bits b.s0 21 17)).toNat % 32 ||| c.raised
      pc := (c.pc + 1) % 4096 } := by
  obtain ⟨hop, -, -⟩ := writesFlags_iff.1 hw
  obtain ⟨taken, htry⟩ := tryIssue_alone (s := s.clearOuts) (p := p.val) (d := c.begins b.s0) hb hdec
    halone hd hr (isRep_of_sOp hop (by decide)) (by rw [hop]; decide) (fun e rhu taken => scalar_movsFlags hw) hd hr rfl
  rw [Core.begins_flagsWritten hrun hw] at htry
  have hcycle := h.cycles (h.ungated hrun hh hpre hb hg htry) ⟨h.free.bankWait, h.free.eddy⟩ h.evs
  exact hcycle

end

variable (hctl : controlOk c b = true)
include hctl

theorem bundleIssue_waits {k : Nat} {ks : List Nat} (hg : b.g = false) (hwait : waitOf c b = k :: ks) :
    s.Cycles p (c.stalled (k :: ks)) := by
  have hcycle := h.ungated hrun hh hpre hb hg (tryIssue_waits hb hdec hctl hwait)
  obtain ⟨regs, hregs⟩ := c.stalled_eq (k :: ks)
  rw [hregs] at hcycle ⊢
  exact h.cycles hcycle ⟨h.free.bankWait, h.free.eddy⟩ h.evs

theorem bundleIssue_unserved (hg : b.g = false) (hwait : waitOf c b = []) (hcopied : copiedOk c b = true)
    (hserve : (c.bankServe b).1 < (bankReqs c b).length) :
    s.Cycles p { c.count cSTALL_BANK 1 with stall := c.stall + 1, served := (c.bankServe b).1 } :=
  h.cycles (d := Core.stalled [cSTALL_BANK] { c with served := (c.bankServe b).1, taken := (c.bankServe b).2 })
    (h.ungated hrun hh hpre hb hg (tryIssue_unserved hb hdec hctl hwait hcopied hserve)) ⟨h.free.bankWait, h.free.eddy⟩ h.evs

theorem bundleIssue_beforeTime (hg : b.g = true) (harm : c.gate.armed = true) (hop : c.gate.opened = false)
    (htgt : c.gate.tgt = c.pc) (ht : gateL s.ns32 c.gate.time < 0) : s.Cycles p { c with run := .waiting } :=
  h.cycles (h.running hrun (runCycle_beforeTime hh hpre hb hdec hctl hg harm hop htgt ht))
    ⟨h.free.bankWait, h.free.eddy⟩ h.evs

end State

open State

/-- Settles O23: one lemma on the command's answer for each way the cycle can go. -/
theorem coreCycles : Obligations.CoreCycles := by
  intro s p hr hbub hbank heddy c b r ends gives
  have h : Arrived s p c := ⟨hr, hbub, rfl, Core.arrive_banksFree ⟨hbank, heddy⟩⟩
  refine ⟨bundleIssue_unpowered h, bundleIssue_stopped h, bundleIssue_halts h, bundleIssue_preempted h,
    fun hrun hh hpre => ⟨fun hdec hj => bundleIssue_undecoded h hrun hh hpre rfl hj hdec, fun hdec hd hreps hg hop h1 hl he hm => ?_,
      fun hdec hd hreps hg hop hw hn h1 hl he hm => ?_, fun k ks hdec hctl hg hwait => ?_, fun hdec hctl hg => ?_,
      fun hdec hctl => bundleIssue_beforeTime h hrun hh hpre rfl hdec hctl⟩⟩
  · exact bundleIssue_alu h hrun hh hpre rfl hdec hd hreps hg ⟨h1, hl, he, hm⟩ hop
  · exact bundleIssue_movsFlags h hrun hh hpre rfl hdec hd hreps hg ⟨h1, hl, he, hm⟩ (writesFlags_iff.2 ⟨hop, hw, hn⟩)
  · obtain ⟨t, ht, hcore, hrest⟩ := bundleIssue_waits h hrun hh hpre rfl hdec hctl hg hwait
    obtain ⟨regs, hregs⟩ := Core.counts_eq (k :: ks) c
    exact ⟨t, ht, by rw [hcore, Core.stalled, hregs]; rfl, hrest⟩
  · exact bundleIssue_unserved h hrun hh hpre rfl hdec hctl hg

end Sys2Proof.Machine
end

section
/-! PROOFS. The settings of Backwater (13, table "Command set", 0x44 to 0x46; 09 R329, R362): what the writes of registers leave alone, and
the three commands. -/
namespace Sys2Proof.Machine
namespace State

variable {s t u : State}

/-! ## What an answer leaves alone (13 R497) -/

theorem reply_reg (m code : Nat) (rs : List Byte) (a : Nat) : (s.reply m code rs).reg a = s.reg a := by
  have hwant (f v : Nat) (c : Ctl) : (c.want f v).reg a = c.reg a := by
    unfold Ctl.want
    split <;> rfl
  unfold reply answer
  dsimp only
  split
  · exact hwant ..
  · exact hwant ..

theorem reply_bkw (m code : Nat) (rs : List Byte) : (s.reply m code rs).bkw = s.bkw := by
  unfold reply answer
  dsimp only
  split <;> rfl

theorem reply_mem (m code : Nat) (rs : List Byte) : (s.reply m code rs).mem = s.mem := by
  unfold reply answer
  dsimp only
  split <;> rfl

/-- An answered mailbox is DONE. -/
theorem reply_done (m code : Nat) (rs : List Byte) : ((s.reply m code rs).mailbox m).st = 2 := by
  have hmbx : ∃ x, (s.reply m code rs).mbx = tset s.mbx m x ∧ x.st = 2 := by
    unfold reply answer
    dsimp only
    split <;> exact ⟨_, rfl, rfl⟩
  obtain ⟨x, hx, hst⟩ := hmbx
  rw [mailbox, hx, tget_tset_self, hst]

/-! ## Bodies of commands that set registers -/

/-- `t` has the mailboxes, the server, the waiting commands and the memory of `s`, and has nothing undone or logged that `s` has not. -/
structure ServerKept (s t : State) : Prop where
  mbx : t.mbx = s.mbx
  wq : t.wq = s.wq
  pending : t.pending = s.pending
  mem : t.mem = s.mem
  settled : t.settled = s.settled
  logOrdered : t.logOrdered = s.logOrdered

namespace ServerKept

theorem refl : ServerKept s s := ⟨rfl, rfl, rfl, rfl, rfl, rfl⟩

theorem trans (h : ServerKept s t) (k : ServerKept t u) : ServerKept s u :=
  ⟨k.mbx.trans h.mbx, k.wq.trans h.wq, k.pending.trans h.pending, k.mem.trans h.mem, k.settled.trans h.settled,
    k.logOrdered.trans h.logOrdered⟩

theorem setReg {a : Nat} {v : Word} (ha : a ∉ watched) : ServerKept s (s.setReg a v) :=
  { (refl : ServerKept s s) with settled := setReg_settled s ha }

theorem onBkw (f : Bkw → Bkw) : ServerKept s (s.onBkw f) :=
  { (refl : ServerKept s s) with settled := settled_of_regs rfl rfl rfl rfl rfl rfl }

theorem clearOuts : ServerKept s s.clearOuts := { (refl : ServerKept s s) with settled := clearOuts_settled s }

end ServerKept

/-- The service of a command whose body sets registers: the body's state with the body's answer. -/
theorem serve_kept {m op code : Nat} {f : State → State × Option (Nat × List Byte)} {rs : List Byte} (h : s.serves m op = true)
    (hf : f s.clearOuts = (u, some (code, rs))) (hk : ServerKept s.clearOuts u) :
    s.run (serve m op f) = .next (u.reply m code rs) := by
  obtain ⟨-, ⟨hsettled, hlog⟩, -⟩ := serves_iff.1 h
  have hk := ServerKept.clearOuts.trans hk
  exact serve_run h hf hk.mbx hk.wq (hk.settled.trans hsettled) (hk.logOrdered.trans hlog) hk.pending

/-! ## Registers written by Wellhead -/

/-- A register's write takes the bits that its row lets be written. -/
theorem putRw_eq {a w : Nat} (v : Nat) (h : (rowAt a).map (·.rw) = some w) :
    s.putRw a v = s.setReg a (BitVec.ofNat 32 v &&& BitVec.ofNat 32 w) := by
  obtain ⟨r, hr, rfl⟩ := Option.map_eq_some_iff.1 h
  simp only [putRw, hr]

/-- A write that a bit of a command's mask picks or not (13, BKW_CTRL). -/
def putPicked (pick : Bool) (a v : Nat) (s : State) : State := if pick then s.putRw a v else s

section
variable {a w : Nat} (pick : Bool) (v : Nat) (h : (rowAt a).map (·.rw) = some w)
include h

theorem reg_putPicked (i : Nat) : (s.putPicked pick a v).reg i =
    if i = a ∧ pick = true then BitVec.ofNat 32 v &&& BitVec.ofNat 32 w else s.reg i := by
  cases pick with
  | false => simp only [putPicked, Bool.false_eq_true, and_false, if_false]
  | true => simp only [putPicked, if_true, putRw_eq v h, reg_setReg, and_true]

theorem putPicked_bkw : (s.putPicked pick a v).bkw = s.bkw := by
  cases pick with
  | false => rfl
  | true => rw [putPicked, if_pos rfl, putRw_eq v h]; rfl

theorem ServerKept.putPicked (ha : a ∉ watched) : ServerKept s (s.putPicked pick a v) := by
  cases pick with
  | false => exact .refl
  | true => rw [State.putPicked, if_pos rfl, putRw_eq v h]; exact .setReg ha

end

/-! ## BKW_CACHE (09 R362) -/

/-- The cache set up anew at the place that a BKW_CACHE names. -/
def newCache (s : State) : State :=
  ((((s.setReg Reg.BKW_CACHE_BASE (BitVec.ofNat 32 (s.par 0 4 4) &&& 0x7FFFFF)).setReg Reg.BKW_CACHE_SIZE
    (BitVec.ofNat 32 (s.par 0 8 4) &&& 0x3FFFFF)).onBkw fun b => { b with recs := [], occasions := [], wp := 0 }).setReg
    Reg.BKW_OLDEST_EPOCH (s.reg Reg.BKW_EPOCH))

theorem cmdBkwCache_free (h : s.cacheFree = true) : s.cmdBkwCache = (s.newCache, some (rcOk, [])) := by
  have hepoch (v w : Word) : ((s.setReg Reg.BKW_CACHE_BASE v).setReg Reg.BKW_CACHE_SIZE w).reg Reg.BKW_EPOCH = s.reg Reg.BKW_EPOCH := by
    rw [reg_setReg, if_neg (by decide), reg_setReg, if_neg (by decide)]
  rw [cmdBkwCache, if_pos h, putRw_eq (w := 0x3FFFFF) _ (by decide +kernel), putRw_eq (w := 0x7FFFFF) _ (by decide +kernel), resetCache,
    hepoch]
  rfl

theorem bkwCache_free (hs : s.serves 0 0x45 = true) (h : s.cacheFree = true) : ∃ t, exec (.bkwCache 0) s = .next t ∧
    t.reg Reg.BKW_CACHE_BASE = BitVec.ofNat 32 (s.par 0 4 4) &&& 0x7FFFFF ∧
    t.reg Reg.BKW_CACHE_SIZE = BitVec.ofNat 32 (s.par 0 8 4) &&& 0x3FFFFF ∧
    t.bkw = { s.bkw with recs := [], occasions := [], wp := 0 } ∧ t.reg Reg.BKW_OLDEST_EPOCH = s.reg Reg.BKW_EPOCH ∧
    (t.mailbox 0).st = 2 ∧ t.mem = s.mem := by
  have hkept : ServerKept s.clearOuts s.clearOuts.newCache :=
    (((ServerKept.setReg (by decide)).trans (.setReg (by decide))).trans (.onBkw _)).trans (.setReg (by decide))
  have hreg (i : Nat) : s.clearOuts.newCache.reg i = if i = Reg.BKW_OLDEST_EPOCH then s.reg Reg.BKW_EPOCH
      else if i = Reg.BKW_CACHE_SIZE then BitVec.ofNat 32 (s.par 0 8 4) &&& 0x3FFFFF
      else if i = Reg.BKW_CACHE_BASE then BitVec.ofNat 32 (s.par 0 4 4) &&& 0x7FFFFF else s.reg i := by
    rw [newCache, reg_setReg]
    refine ite_congr rfl (fun _ => rfl) fun _ => ?_
    show ((s.setReg Reg.BKW_CACHE_BASE _).setReg Reg.BKW_CACHE_SIZE _).reg i = _
    rw [reg_setReg, reg_setReg]
    rfl
  refine ⟨_, serve_kept hs (cmdBkwCache_free (s := s.clearOuts) h) hkept, ?_, ?_, ?_, ?_, reply_done .., ?_⟩
  · rw [reply_reg, hreg, if_neg (by decide), if_neg (by decide), if_pos rfl]
  · rw [reply_reg, hreg, if_neg (by decide), if_pos rfl]
  · rw [reply_bkw]; rfl
  · rw [reply_reg, hreg, if_pos rfl]
  · rw [reply_mem]; rfl

theorem bkwCache_busy (hs : s.serves 0 0x45 = true) (h : s.cacheFree = false) :
    exec (.bkwCache 0) s = .next (s.clearOuts.reply 0 rcState []) := by
  have hbody : s.clearOuts.cmdBkwCache = (s.clearOuts, some (rcState, [])) := by
    rw [cmdBkwCache, if_neg (by rw [show s.clearOuts.cacheFree = s.cacheFree from rfl, h]; decide)]
    rfl
  exact serve_kept hs hbody .refl

/-! ## BKW_REFSIG (09 R329) -/

/-- The reference-signal registers as a BKW_REFSIG names them. -/
def newStreams (s : State) : State :=
  let v (i : Nat) : Word := BitVec.ofNat 32 (s.par 0 (4 + 4 * i) 4) &&& 0x8FFFFF00
  (((s.setReg Reg.BKW_REFSIG0 (v 0)).setReg Reg.BKW_REFSIG1 (v 1)).setReg Reg.BKW_REFSIG2 (v 2)).setReg Reg.BKW_REFSIG3 (v 3)

theorem cmdBkwRefsig_eq : s.cmdBkwRefsig = (s.newStreams, some (rcOk, [])) := by
  have hrow : ∀ i < 4, (rowAt (Reg.BKW_REFSIG0 + 4 * i)).map (·.rw) = some 0x8FFFFF00 := by decide +kernel
  simp only [cmdBkwRefsig, show List.range 4 = [0, 1, 2, 3] from rfl, List.foldl_cons, List.foldl_nil,
    putRw_eq _ (hrow 0 (by decide)), putRw_eq _ (hrow 1 (by decide)), putRw_eq _ (hrow 2 (by decide)), putRw_eq _ (hrow 3 (by decide))]
  rfl

theorem reg_newStreams (i : Nat) : s.newStreams.reg i =
    if i = Reg.BKW_REFSIG3 then BitVec.ofNat 32 (s.par 0 16 4) &&& 0x8FFFFF00
    else if i = Reg.BKW_REFSIG2 then BitVec.ofNat 32 (s.par 0 12 4) &&& 0x8FFFFF00
    else if i = Reg.BKW_REFSIG1 then BitVec.ofNat 32 (s.par 0 8 4) &&& 0x8FFFFF00
    else if i = Reg.BKW_REFSIG0 then BitVec.ofNat 32 (s.par 0 4 4) &&& 0x8FFFFF00 else s.reg i := by
  simp only [newStreams, reg_setReg, Nat.mul_zero, Nat.add_zero]

theorem bkwRefsig_sets (hs : s.serves 0 0x46 = true) : ∃ t, exec (.bkwRefsig 0) s = .next t ∧
    (∀ i, i < 4 → t.reg (Reg.BKW_REFSIG0 + 4 * i) = BitVec.ofNat 32 (s.par 0 (4 + 4 * i) 4) &&& 0x8FFFFF00) ∧
    (∀ a, a ∉ [Reg.BKW_REFSIG0, Reg.BKW_REFSIG1, Reg.BKW_REFSIG2, Reg.BKW_REFSIG3] → t.reg a = s.reg a) ∧
    (t.mailbox 0).st = 2 ∧ t.bkw = s.bkw ∧ t.mem = s.mem := by
  have hkept : ServerKept s.clearOuts s.clearOuts.newStreams :=
    (((ServerKept.setReg (by decide)).trans (.setReg (by decide))).trans (.setReg (by decide))).trans (.setReg (by decide))
  refine ⟨_, serve_kept hs cmdBkwRefsig_eq hkept, fun i hi => ?_, fun a ha => ?_, reply_done .., ?_, ?_⟩
  · rw [reply_reg, reg_newStreams]
    rcases (by omega : i = 0 ∨ i = 1 ∨ i = 2 ∨ i = 3) with rfl | rfl | rfl | rfl <;> rfl
  · simp only [List.mem_cons, List.not_mem_nil, or_false, not_or] at ha
    obtain ⟨h0, h1, h2, h3⟩ := ha
    rw [reply_reg, reg_newStreams, if_neg h3, if_neg h2, if_neg h1, if_neg h0]
    rfl
  · rw [reply_bkw]; rfl
  · rw [reply_mem]; rfl

/-! ## BKW_CTRL (09 R360, R362) -/

/-- BKW.CAPCFG to BKW.SWAP_LEAD, as far as the mask of a BKW_CTRL picks them. -/
def putSettings (mask : Nat) (v : Nat → Nat) (s : State) : State :=
  (((s.putPicked (bitOf mask 1) Reg.BKW_CAPCFG (v 1)).putPicked (bitOf mask 2) Reg.BKW_REPLAY_CFG (v 2)).putPicked (bitOf mask 3)
    Reg.BKW_EPOCH_LEN (v 3)).putPicked (bitOf mask 4) Reg.BKW_SWAP_LEAD (v 4)

theorem row_capcfg : (rowAt Reg.BKW_CAPCFG).map (·.rw) = some 0xFFFF1F := by decide +kernel
theorem row_replayCfg : (rowAt Reg.BKW_REPLAY_CFG).map (·.rw) = some 0xF0F := by decide +kernel
theorem row_epochLen : (rowAt Reg.BKW_EPOCH_LEN).map (·.rw) = some 0xFFFFFFFF := by decide +kernel
theorem row_swapLead : (rowAt Reg.BKW_SWAP_LEAD).map (·.rw) = some 0xFFFFFFFF := by decide +kernel

section
variable (mask : Nat) (v : Nat → Nat)

theorem putSettings_kept : ServerKept s (s.putSettings mask v) :=
  (((ServerKept.putPicked _ _ row_capcfg (by decide)).trans (.putPicked _ _ row_replayCfg (by decide))).trans
    (.putPicked _ _ row_epochLen (by decide))).trans (.putPicked _ _ row_swapLead (by decide))

theorem putSettings_bkw : (s.putSettings mask v).bkw = s.bkw := by
  rw [putSettings, putPicked_bkw _ _ row_swapLead, putPicked_bkw _ _ row_epochLen, putPicked_bkw _ _ row_replayCfg,
    putPicked_bkw _ _ row_capcfg]

theorem reg_putSettings (i : Nat) : (s.putSettings mask v).reg i =
    if i = Reg.BKW_SWAP_LEAD ∧ bitOf mask 4 = true then BitVec.ofNat 32 (v 4)
    else if i = Reg.BKW_EPOCH_LEN ∧ bitOf mask 3 = true then BitVec.ofNat 32 (v 3)
    else if i = Reg.BKW_REPLAY_CFG ∧ bitOf mask 2 = true then BitVec.ofNat 32 (v 2) &&& 0xF0F
    else if i = Reg.BKW_CAPCFG ∧ bitOf mask 1 = true then BitVec.ofNat 32 (v 1) &&& 0xFFFF1F else s.reg i := by
  have hones (w : Word) : w &&& BitVec.ofNat 32 0xFFFFFFFF = w := BitVec.and_allOnes
  rw [putSettings, reg_putPicked _ _ row_swapLead, reg_putPicked _ _ row_epochLen, reg_putPicked _ _ row_replayCfg,
    reg_putPicked _ _ row_capcfg, hones, hones]
  rfl

end

/-- The value of number `i` of a BKW_CTRL. -/
def ctrlValue (s : State) (i : Nat) : Nat := s.par 0 (8 + 4 * i) 4

theorem cmdBkwCtrl_eq (h : s.par 0 4 4 < 32) : s.cmdBkwCtrl =
    ((if bitOf (s.par 0 4 4) 0 then s.writeBkwCtrl (BitVec.ofNat 32 (s.ctrlValue 0)) else s).putSettings (s.par 0 4 4) s.ctrlValue,
      some (rcOk, [])) := by
  rw [cmdBkwCtrl, if_neg (by omega)]
  rfl

theorem bkwCtrl_settings (hs : s.serves 0 0x44 = true) (hmask : s.par 0 4 4 < 32) (h0 : bitOf (s.par 0 4 4) 0 = false) :
    ∃ t, exec (.bkwCtrl 0) s = .next t ∧ t.reg Reg.BKW_CTRL = s.reg Reg.BKW_CTRL ∧ t.bkw = s.bkw ∧ (t.mailbox 0).st = 2 ∧
      ∀ i, t.reg i = (s.putSettings (s.par 0 4 4) s.ctrlValue).reg i := by
  have hbody : s.clearOuts.cmdBkwCtrl = (s.clearOuts.putSettings (s.par 0 4 4) s.ctrlValue, some (rcOk, [])) := by
    rw [cmdBkwCtrl_eq (s := s.clearOuts) hmask, if_neg (by rw [show s.clearOuts.par 0 4 4 = s.par 0 4 4 from rfl, h0]; decide)]
    rfl
  have hreg (i : Nat) : (s.clearOuts.putSettings (s.par 0 4 4) s.ctrlValue).reg i = (s.putSettings (s.par 0 4 4) s.ctrlValue).reg i := by
    rw [reg_putSettings, reg_putSettings]
    rfl
  refine ⟨_, serve_kept hs hbody (putSettings_kept ..), ?_, ?_, reply_done .., fun i => ?_⟩
  · rw [reply_reg, reg_putSettings]; rfl
  · rw [reply_bkw, putSettings_bkw]; rfl
  · rw [reply_reg, hreg]

/-- A write of BKW.CTRL that does not clear TRAIN_EN ends no update (09 R360, R333). -/
theorem writeBkwCtrl_eq {v : Word} (h : bitOf v.toNat 1 = s.bkwCtl 1) : s.writeBkwCtrl v =
    (s.setReg Reg.BKW_CTRL (v &&& 0xB)).onBkw fun b => { b with advPend := b.advPend || bitOf v.toNat 2 } := by
  have hkept : (s.bkwCtl 1 && !bitOf v.toNat 1) = false := by rw [h, Bool.and_not_self]
  simp only [writeBkwCtrl, hkept, Bool.false_eq_true, if_false]
  cases bitOf v.toNat 2 with
  | false => simp only [Bool.false_eq_true, if_false, Bool.or_false]; rfl
  | true => simp only [if_true, Bool.or_true]

/-- The low bits of a word are those of the number that it is made of. -/
theorem bitOf_ofNat (n : Nat) {b : Nat} (h : b < 32) : bitOf (BitVec.ofNat 32 n).toNat b = bitOf n b := by
  rw [bitOf_eq_testBit, bitOf_eq_testBit, BitVec.toNat_ofNat, Nat.testBit_mod_two_pow, decide_eq_true h, Bool.true_and]

theorem bkwCtrl_control (hs : s.serves 0 0x44 = true) (hmask : s.par 0 4 4 = 1) (htrain : bitOf (s.par 0 8 4) 1 = s.bkwCtl 1) :
    ∃ t, exec (.bkwCtrl 0) s = .next t ∧ t.reg Reg.BKW_CTRL = BitVec.ofNat 32 (s.par 0 8 4) &&& 0xB ∧
      t.bkw = { s.bkw with advPend := s.bkw.advPend || bitOf (s.par 0 8 4) 2 } ∧ (t.mailbox 0).st = 2 := by
  let w : State := (s.clearOuts.setReg Reg.BKW_CTRL (BitVec.ofNat 32 (s.par 0 8 4) &&& 0xB)).onBkw fun b =>
    { b with advPend := b.advPend || bitOf (s.par 0 8 4) 2 }
  have hwrite : s.clearOuts.writeBkwCtrl (BitVec.ofNat 32 (s.par 0 8 4)) = w := by
    rw [writeBkwCtrl_eq (by rw [bitOf_ofNat _ (by decide), htrain]; rfl), bitOf_ofNat _ (by decide)]
  have hbody : s.clearOuts.cmdBkwCtrl = (w.putSettings 1 s.ctrlValue, some (rcOk, [])) := by
    rw [cmdBkwCtrl_eq (s := s.clearOuts) (by show s.par 0 4 4 < 32; omega), show s.clearOuts.par 0 4 4 = 1 from hmask,
      if_pos (by decide), ← hwrite]
    rfl
  have hkept : ServerKept s.clearOuts (w.putSettings 1 s.ctrlValue) :=
    ((ServerKept.setReg (by decide)).trans (.onBkw _)).trans (putSettings_kept ..)
  refine ⟨_, serve_kept hs hbody hkept, ?_, ?_, reply_done ..⟩
  · rw [reply_reg, reg_putSettings]
    show ((s.clearOuts.setReg Reg.BKW_CTRL _).reg Reg.BKW_CTRL) = _
    rw [reg_setReg, if_pos rfl]
  · rw [reply_bkw, putSettings_bkw]
    rfl

end State

open State

/-- Settles O7: the bodies of the three commands written out as writes of registers, which the answer leaves alone. -/
theorem backwaterSettingsTaken : Obligations.BackwaterSettingsTaken := by
  intro s p w
  refine ⟨bkwCache_free, bkwCache_busy, bkwRefsig_sets, fun hs hmask h0 => ?_, bkwCtrl_control⟩
  obtain ⟨t, ht, hctrl, hbkw, hdone, hreg⟩ := bkwCtrl_settings hs hmask h0
  refine ⟨t, ht, hctrl, hbkw, hdone, ?_, ?_, ?_, ?_⟩ <;>
    simp [hreg, reg_putSettings, ctrlValue, Reg.BKW_CAPCFG, Reg.BKW_REPLAY_CFG, Reg.BKW_EPOCH_LEN, Reg.BKW_SWAP_LEAD, p, w]

end Sys2Proof.Machine
end

section
/-! PROOFS. Records of the Oxbow cache (09 R331 to R336): what the write of a record leaves in memory, in the cache and in the registers,
whether its granules lie in memory or in a hole. -/
namespace Sys2Proof.Machine

/-! ## Bytes written and read back -/

/-- Bytes that are written in the middle of others read back. -/
theorem readBytes_writeBytes (m : Tab Byte) (a : Nat) (x y z : List Byte) :
    readBytes (writeBytes m a (x ++ y ++ z)) (a + x.length) y.length = y := by
  refine List.ext_getElem (readBytes_length ..) fun i _ hi => ?_
  have h := readBytes_getD (writeBytes m a (x ++ y ++ z)) (a + x.length) y.length i hi
  rw [tget_writeBytes, if_pos (by simp only [List.length_append]; omega), show a + x.length + i - a = x.length + i by omega,
    List.append_assoc, List.getD_eq_getElem?_getD, List.getD_eq_getElem?_getD, List.getElem?_append_right (by omega),
    Nat.add_sub_cancel_left, List.getElem?_append_left hi] at h
  simpa [List.getElem?_eq_getElem, hi, readBytes_length] using h

/-- Padding keeps what stands in front of the place where it begins or cuts. -/
theorem padTo_prefix {n : Nat} {p : List Byte} (h : p.length ≤ n) (y : List Byte) : ∃ z, padTo n (p ++ y) = p ++ z := by
  rw [padTo, List.append_assoc, List.take_append, List.take_of_length_le h]
  exact ⟨_, rfl⟩

theorem padTo_length (n : Nat) (bs : List Byte) : (padTo n bs).length = n := by
  rw [padTo, List.length_take, List.length_append, List.length_replicate]
  omega

/-- Bytes that stand the same in two memories read the same. -/
theorem readBytes_congr {m m' : Tab Byte} {a n : Nat} (h : ∀ i, a ≤ i → i < a + n → tget zeroByte m i = tget zeroByte m' i) :
    readBytes m a n = readBytes m' a n := by
  induction n generalizing a with
  | zero => rfl
  | succ n ih => rw [readBytes, readBytes, h a (by omega) (by omega), ih fun i _ _ => h i (by omega) (by omega)]

namespace State

variable {s t u : State}

/-! ## Writes at a granule (07 R239, R240) -/

/-- The registers that a write into memory or into a hole can change (07 R240, R244; 15 R560). -/
def storeRegs : List Nat :=
  [Reg.DRAM_FAULT_LO, Reg.DRAM_FAULT_HI, Reg.DRAM_UNCORR_CNT, Reg.DRAM_STATUS, Reg.FAULT_HOLE_LO, Reg.FAULT_HOLE_HI] ++ logRegs

/-- `t` is `s` but for what a write changes: memory, poison, and the registers that record errors and holes. -/
def Stored (s t : State) : Prop := ∃ (c : Ctl) (m : Tab Byte) (p : List Nat), t = { s with ctl := c, mem := m, poison := p } ∧
  c.eff = s.ctl.eff ∧ ∀ a, a ∉ storeRegs → c.reg a = s.ctl.reg a

namespace Stored

theorem refl : Stored s s := ⟨s.ctl, s.mem, s.poison, rfl, rfl, fun _ _ => rfl⟩

theorem trans (h : Stored s t) (k : Stored t u) : Stored s u := by
  obtain ⟨c, m, p, rfl, hc, hr⟩ := h
  obtain ⟨d, m', p', rfl, hd, hq⟩ := k
  exact ⟨d, m', p', rfl, hd.trans hc, fun a ha => (hq a ha).trans (hr a ha)⟩

theorem setReg {a : Nat} {v : Word} (ha : a ∈ storeRegs) : Stored s (s.setReg a v) :=
  ⟨_, s.mem, s.poison, rfl, rfl, fun i hi =>
    (Ctl.reg_setReg ..).trans (if_neg (by rintro rfl; exact hi ha))⟩

theorem latchIf {c : Bool} {a : Nat} {v : Word} (ha : a ∈ storeRegs) : Stored s (s.latchIf c a v) := by
  unfold State.latchIf
  split
  · exact setReg ha
  · exact refl

theorem count {a n : Nat} (ha : a ∈ storeRegs) : Stored s (s.count a n) := setReg ha

/-- An event changes no copy in force. -/
theorem event_eff (a b : Nat) : (s.event a b).ctl.eff = s.ctl.eff := by
  have hvec (c : Ctl) (a b : Nat) : (c.vec2 a b).eff = c.eff := by
    unfold Ctl.vec2 Ctl.want
    split
    · split <;> rfl
    · rfl
  have hput (c : Ctl) (i : Nat) (ws : List Word) : (c.putWords i ws).eff = c.eff := by
    obtain ⟨l, h⟩ := putWords_eq c i ws
    rw [h]
  have hraw (c : Ctl) (a b : Nat) : (c.rawEvent a b).eff = c.eff := hvec ..
  have hlog (c : Ctl) (ws : Word → List Word) : (c.logEntry ws).eff = c.eff := by
    unfold Ctl.logEntry
    extract_lets head slot c1 c2
    have h1 : c1.eff = c.eff := by
      subst c1
      split
      · exact hraw ..
      · rfl
    exact (hput c2 _ _).trans h1
  show (Ctl.event s.ns32 s.ctl a b).eff = _
  unfold Ctl.event
  dsimp only
  split
  · exact hraw ..
  · next r _ =>
    generalize (if bitOf r.fen b = true then 2 else if bitOf r.recov b = true then 1 else 0) = cls
    split
    · split
      · exact hraw ..
      · exact (hlog ..).trans (hraw ..)
    · exact hraw ..

theorem event {a b : Nat} (ha : a ∈ storeRegs) : Stored s (s.event a b) :=
  ⟨_, s.mem, s.poison, rfl, event_eff a b, fun i hi => reg_event s a b (by rintro rfl; exact hi ha)
    fun h => hi (List.mem_append_right _ h)⟩

/-- A write into DRAM. -/
theorem writeMem {a : Nat} (ha : a < 0x001000000000) (bs : List Byte) : Stored s (s.writeMem a bs) := by
  have huncorr (ks : List Nat) : Stored s (s.uncorrRead a ks) := by
    unfold State.uncorrRead
    extract_lets w q c
    split
    · exact refl
    · exact (((latchIf (by decide)).trans (latchIf (by decide))).trans (count (by decide))).trans (event (by decide))
  exact (huncorr _).trans ⟨_, _, _, rfl, rfl, fun _ _ => rfl⟩

theorem hole (a : Nat) : Stored s (s.hole (.fault a)) :=
  ((latchIf (by decide)).trans (latchIf (by decide))).trans (event (by decide))

theorem reg (h : Stored s t) {a : Nat} (ha : a ∉ storeRegs) : t.reg a = s.reg a := by
  obtain ⟨c, m, p, rfl, -, hr⟩ := h
  exact hr a ha

theorem settled (h : Stored s t) : t.settled = s.settled := by
  obtain ⟨c, m, p, rfl, -, hr⟩ := h
  have hdisj : ∀ a ∈ watched, a ∉ storeRegs := by decide +kernel
  exact settled_congr rfl rfl (fun a ha => hr a (hdisj a ha)) rfl rfl rfl

end Stored

/-- An address of this device from 0x001000000000 to the pools is in a hole (07 R239). -/
theorem place_hole {a : Nat} (hlow : 0x001000000000 ≤ a) (hhigh : a < 0x100000000000) :
    s.place (selfAddr a) = (.hole (.fault (selfAddr a)), 1) := by
  have hd : selfAddr a / 2 ^ 46 = 0x3FFFF := by unfold selfAddr; omega
  have hm : selfAddr a % 2 ^ 46 = a := by unfold selfAddr; omega
  have hs : s.isSelf 0x3FFFF = true := by simp [isSelf]
  unfold place
  simp only [hd, hm, hs, if_true]
  have hlocal : s.localPlace (selfAddr a) a = (.hole (.fault (selfAddr a)), 1) := by
    unfold localPlace
    rw [if_neg (by omega), if_neg (by omega), if_neg (by omega), if_neg (by omega), if_neg (by omega), if_neg (by omega)]
  rw [hlocal]

/-- Granules lie below the pools. -/
theorem granuleAddr_lt {g : Nat} (h : g < 2 ^ 22) : s.granuleAddr g < 2 ^ 37 := by
  have : bits (s.reg Reg.BKW_CACHE_BASE).toNat 22 0 < 2 ^ 23 := Nat.mod_lt _ (by decide)
  rw [granuleAddr]
  omega

theorem granuleAddr_add (g k : Nat) : s.granuleAddr (g + k) = s.granuleAddr g + k * 8192 := by
  simp only [granuleAddr]
  omega

/-- Granules that lie in memory lie in DRAM, where their addresses say. -/
theorem landsAt_granule {g n b : Nat} (hg : g < 2 ^ 22) (h : s.landsAt (s.granuleAddr g) n b) :
    b = s.granuleAddr g ∧ b < 0x001000000000 ∧ b + n ≤ s.dramTop ∧ b < s.dramTop := by
  obtain ⟨hplace, hlen⟩ := h
  have hlt := granuleAddr_lt (s := s) hg
  by_cases hlow : s.granuleAddr g < 0x001000000000
  · by_cases htop : s.granuleAddr g < s.dramTop
    · rw [place_dram s hlow htop] at hplace hlen
      cases hplace
      exact ⟨rfl, hlow, by omega, htop⟩
    · have hd : selfAddr (s.granuleAddr g) / 2 ^ 46 = 0x3FFFF := by unfold selfAddr; omega
      have hm : selfAddr (s.granuleAddr g) % 2 ^ 46 = s.granuleAddr g := by unfold selfAddr; omega
      have hs : s.isSelf 0x3FFFF = true := by simp [isSelf]
      unfold place at hplace
      simp only [hd, hm, hs, if_true, localPlace, if_pos hlow, if_neg htop, reduceCtorEq] at hplace
  · rw [place_hole (by omega) (by omega)] at hplace
    cases hplace

/-- What a write of bytes below the top of DRAM leaves: the bytes in memory, or nothing but the record of a hole. -/
theorem writeG_dram {req basin n a : Nat} {bs : List Byte} (hn : 0 < n) (hbs : 0 < bs.length) (ha : a < 0x100000000000)
    (htop : a + bs.length ≤ s.dramTop) : (writeG req basin n s (selfAddr a) bs).1 =
      if a < 0x001000000000 then s.writeMem a bs else s.hole (.fault (selfAddr a)) := by
  split
  · next hlow =>
    have hplace := place_dram s hlow (by omega)
    rw [writeG_mem hn hbs (by rw [hplace]) (by rw [hplace]; show _ ≤ s.dramTop - a; omega)]
  · next hlow =>
    obtain ⟨k, rfl⟩ : ∃ k, n = k + 1 := ⟨n - 1, by omega⟩
    have hne : bs.isEmpty = false := List.isEmpty_eq_false_iff.2 (List.ne_nil_of_length_pos hbs)
    simp only [writeG, hne, Bool.false_eq_true, if_false, place_hole (s := s) (by omega : 0x001000000000 ≤ a) ha]

/-! ## A record (09 R331 to R335) -/

/-- The record that the next write of `g` granules makes at the write pointer. -/
def nextRec (s : State) (kind g : Nat) : CacheRec :=
  let tag := (s.reg Reg.BKW_NEXT_TAG).toNat
  ⟨s.bkw.wp, g, tag, (s.reg Reg.BKW_EPOCH).toNat, kind, heldOut (bits (s.ctl.inForce Reg.BKW_CAPCFG).toNat 15 8) tag, s.bkw.config⟩

/-- The granules of the cache. -/
def cacheSize (s : State) : Nat := bits (s.reg Reg.BKW_CACHE_SIZE).toNat 21 0

/-- The first `g` granules at the write pointer are free (09 R332). -/
structure RoomFor (s : State) (g : Nat) : Prop where
  fits : s.bkw.wp + g ≤ s.cacheSize
  clear : ∀ x ∈ s.bkw.recs, ¬(x.granule < s.bkw.wp + g ∧ s.bkw.wp < x.granule + x.len)

theorem RoomFor.none_hit {g : Nat} (hroom : s.RoomFor g) :
    (s.bkw.recs.filter fun c => decide (c.granule < s.bkw.wp + g ∧ s.bkw.wp < c.granule + c.len)) = [] :=
  List.filter_eq_nil_iff.2 fun c hc => by simpa using hroom.clear c hc

/-- A record's place holds the magic word, its tag and its epoch (09, table "Record header"). -/
def HeaderAt (m : Tab Byte) (b tag epoch : Nat) : Prop :=
  readBytes m b 4 = leBytes 4 0x4F484F58 ∧ readBytes m (b + 8) 8 = leBytes 4 tag ++ leBytes 4 epoch

/-- `t` is `s` with a record of `g` granules written at its write pointer. -/
structure RecordPut (kind g : Nat) (s t : State) : Prop where
  bkw : t.bkw = { s.bkw with recs := s.bkw.recs ++ [s.nextRec kind g], wp := (s.bkw.wp + g) % s.cacheSize }
  nextTag : t.reg Reg.BKW_NEXT_TAG = s.reg Reg.BKW_NEXT_TAG + 1
  capCnt : t.reg Reg.BKW_CAP_CNT = s.reg Reg.BKW_CAP_CNT + 1
  regs : ∀ a ∉ [Reg.BKW_NEXT_TAG, Reg.BKW_CAP_CNT] ++ storeRegs, t.reg a = s.reg a
  eff : t.ctl.eff = s.ctl.eff
  settled : t.settled = s.settled
  charged : ∀ w, s.chargeDram (s.granuleAddr s.bkw.wp) (g * 8192) 1 = some w → t.sched = w.sched
  dramPairs : t.dramPairs = s.dramPairs
  header : s.granuleAddr s.bkw.wp < 0x001000000000 →
    HeaderAt t.mem (s.granuleAddr s.bkw.wp) (s.reg Reg.BKW_NEXT_TAG).toNat (s.reg Reg.BKW_EPOCH).toNat
  outside : ∀ j, j < s.granuleAddr s.bkw.wp ∨ s.granuleAddr s.bkw.wp + g * 8192 ≤ j → tget zeroByte t.mem j = tget zeroByte s.mem j

/-- The first sixteen bytes of a record (09, table "Record header"). -/
def headStart (s : State) (h : HeadOf) (tag : Nat) (held : Bool) : List Byte :=
  [] ++ leBytes 4 0x4F484F58 ++ ([BitVec.ofNat 8 h.kind, BitVec.ofNat 8 h.granules, BitVec.ofNat 8 (h.flags + if held then 1 else 0),
    BitVec.ofNat 8 h.carrier] ++ (leBytes 4 tag ++ leBytes 4 (s.reg Reg.BKW_EPOCH).toNat))

theorem recordHead_prefix (s : State) (h : HeadOf) (tag : Nat) (held : Bool) : ∃ y,
    s.recordHead h tag held = s.headStart h tag held ++ y := by
  simp only [recordHead, headStart, List.append_assoc, List.nil_append]
  exact ⟨_, rfl⟩

/-- A record begins with those bytes, whatever is behind its header. -/
theorem record_prefix (s : State) (h : HeadOf) (tag : Nat) (held : Bool) (tail rest : List Byte) : ∃ z,
    padTo 256 (padTo 120 (s.recordHead h tag held) ++ tail) ++ rest = s.headStart h tag held ++ z := by
  obtain ⟨y, hy⟩ := recordHead_prefix s h tag held
  have hlen : (s.headStart h tag held).length = 16 := rfl
  obtain ⟨x, hx⟩ := padTo_prefix (n := 120) (by omega : (s.headStart h tag held).length ≤ 120) y
  obtain ⟨z, hz⟩ := padTo_prefix (n := 256) (by omega : (s.headStart h tag held).length ≤ 256) (x ++ tail)
  exact ⟨z ++ rest, by rw [hy, hx, List.append_assoc, hz, List.append_assoc]⟩

/-- Where a record is written its header stands. -/
theorem headStart_headerAt (s : State) (h : HeadOf) (tag : Nat) (held : Bool) (m : Tab Byte) (a : Nat) (z : List Byte) :
    HeaderAt (writeBytes m a (s.headStart h tag held ++ z)) a tag (s.reg Reg.BKW_EPOCH).toNat := by
  constructor
  · rw [headStart, List.append_assoc _ _ z]
    exact readBytes_writeBytes m a [] (leBytes 4 0x4F484F58) _
  · rw [headStart, List.nil_append, ← List.append_assoc, List.append_assoc _ _ z]
    exact readBytes_writeBytes m a (leBytes 4 0x4F484F58 ++ [BitVec.ofNat 8 h.kind, BitVec.ofNat 8 h.granules,
      BitVec.ofNat 8 (h.flags + if held then 1 else 0), BitVec.ofNat 8 h.carrier])
      (leBytes 4 tag ++ leBytes 4 (s.reg Reg.BKW_EPOCH).toNat) z

/-- What the write of a record makes of the state `v` that its bytes leave. -/
def afterRecord (kind g : Nat) (s v : State) : State :=
  ((v.onBkw fun b => { b with recs := b.recs ++ [s.nextRec kind g], wp := (s.bkw.wp + g) % s.cacheSize }).count
    Reg.BKW_NEXT_TAG 1).count Reg.BKW_CAP_CNT 1

theorem afterRecord_reg {v : State} (kind g a : Nat) : (afterRecord kind g s v).reg a =
    if a = Reg.BKW_CAP_CNT ∨ a = Reg.BKW_NEXT_TAG then v.reg a + 1 else v.reg a := by
  rw [afterRecord, reg_count, reg_count, reg_count]
  by_cases hc : a = Reg.BKW_CAP_CNT
  · subst hc
    rfl
  · by_cases ht : a = Reg.BKW_NEXT_TAG
    · subst ht
      rfl
    · rw [if_neg hc, if_neg ht, if_neg (by simp [hc, ht])]
      rfl

/-- Once a record's bytes are written, in memory or into a hole, the record is put. -/
theorem afterRecord_put {kind g : Nat} {x : Sched} {v : State} {h : HeadOf} {held : Bool} {z : List Byte}
    (hx : ∀ w, s.chargeDram (s.granuleAddr s.bkw.wp) (g * 8192) 1 = some w → x = w.sched)
    (hstored : Stored { s with sched := x } v)
    (hmem : v.mem = if s.granuleAddr s.bkw.wp < 0x001000000000 then
      writeBytes s.mem (s.granuleAddr s.bkw.wp) (s.headStart h (s.reg Reg.BKW_NEXT_TAG).toNat held ++ z) else s.mem)
    (hlen : (s.headStart h (s.reg Reg.BKW_NEXT_TAG).toNat held ++ z).length = g * 8192) :
    RecordPut kind g s (afterRecord kind g s v) := by
  obtain ⟨c, m, p, rfl, hc, hr⟩ := hstored
  have hm : m = _ := hmem
  exact
    { bkw := rfl
      nextTag := (afterRecord_reg ..).trans ((if_pos (.inr rfl)).trans (congrArg (· + 1) (hr _ (by decide +kernel))))
      capCnt := (afterRecord_reg ..).trans ((if_pos (.inl rfl)).trans (congrArg (· + 1) (hr _ (by decide +kernel))))
      regs := fun a ha => by
        simp only [List.mem_append, List.mem_cons, List.not_mem_nil, or_false, not_or] at ha
        obtain ⟨⟨ht, hc⟩, ha⟩ := ha
        rw [afterRecord_reg, if_neg (by simp [ht, hc])]
        exact hr a ha
      eff := hc
      settled := by
        rw [afterRecord, count_settled _ (by decide +kernel), count_settled _ (by decide +kernel)]
        exact (settled_of_regs (s := { s with sched := x, ctl := c, mem := m, poison := p }) rfl rfl rfl rfl rfl rfl).trans
          (Stored.settled (s := { s with sched := x }) ⟨c, m, p, rfl, hc, hr⟩)
      charged := hx
      dramPairs := rfl
      header := fun hlow => by
        show HeaderAt m _ _ _
        rw [hm, if_pos hlow]
        exact headStart_headerAt ..
      outside := fun j hj => by
        show tget zeroByte m j = _
        rw [hm]
        split
        · rw [tget_writeBytes, if_neg (by omega)]
        · rfl }

/-- The write of a record with room and allowance (09 R331 to R335; 01 R36). -/
theorem putRecord_room {kind g : Nat} {w : State} (hroom : s.RoomFor g) (hg : 0 < g)
    (hpaid : s.chargeDram (s.granuleAddr s.bkw.wp) (g * 8192) 1 = some w)
    (htop : s.granuleAddr s.bkw.wp + g * 8192 ≤ s.dramTop) (h : HeadOf) (body : List (Nat × List Byte)) :
    ∃ t, s.putRecord kind g (s.recordHead h) body = (t, true) ∧ RecordPut kind g s t := by
  obtain ⟨x, rfl⟩ := chargeDram_eq hpaid
  have hsize : s.cacheSize < 2 ^ 22 := Nat.mod_lt _ (by decide)
  have hfits := hroom.fits
  have hlow := granuleAddr_lt (s := s) (by omega : s.bkw.wp < 2 ^ 22)
  let held := heldOut (bits (s.ctl.inForce Reg.BKW_CAPCFG).toNat 15 8) (s.reg Reg.BKW_NEXT_TAG).toNat
  let rest := readBytes (body.foldl (fun (t : Tab Byte) b => writeBytes t b.1 b.2) []) 256 (g * 8192 - 256)
  let bytes := padTo 256 (padTo 120 (s.recordHead h (s.reg Reg.BKW_NEXT_TAG).toNat held) ++ leBytes 4 (crc32c rest).toNat) ++ rest
  have hlen : bytes.length = g * 8192 := by
    rw [List.length_append, padTo_length, readBytes_length]
    omega
  obtain ⟨z, hz⟩ := record_prefix s h (s.reg Reg.BKW_NEXT_TAG).toNat held (leBytes 4 (crc32c rest).toNat) rest
  let v := if s.granuleAddr s.bkw.wp < 0x001000000000 then writeMem (s.granuleAddr s.bkw.wp) bytes { s with sched := x }
    else hole (.fault (selfAddr (s.granuleAddr s.bkw.wp))) { s with sched := x }
  have hwrite : (writeG reqWellhead 0 (g * 8192) { s with sched := x } (selfAddr (s.granuleAddr s.bkw.wp)) bytes).1 = v :=
    writeG_dram (by omega) (by omega) (by omega) (by rw [hlen]; exact htop)
  have hstored : Stored { s with sched := x } v := by
    by_cases ha : s.granuleAddr s.bkw.wp < 0x001000000000
    · simpa only [v, if_pos ha] using Stored.writeMem ha _
    · simpa only [v, if_neg ha] using Stored.hole _
  have hmem : v.mem = if s.granuleAddr s.bkw.wp < 0x001000000000 then writeBytes s.mem (s.granuleAddr s.bkw.wp) bytes else s.mem := by
    by_cases ha : s.granuleAddr s.bkw.wp < 0x001000000000
    · simpa only [v, if_pos ha] using writeMem_mem ..
    · simpa only [v, if_neg ha] using (hole_same _ _).1
  refine ⟨afterRecord kind g s v, ?_, afterRecord_put (h := h) (held := held) (z := z) ?_ hstored (hz ▸ hmem) (hz ▸ hlen)⟩
  · have hfits' : s.bkw.wp + g ≤ bits (s.reg Reg.BKW_CACHE_SIZE).toNat 21 0 := hfits
    unfold putRecord
    simp only [if_pos hfits', hroom.none_hit, List.map_nil, List.eraseDups_nil, List.any_nil, Bool.false_eq_true, if_false,
      if_neg (by omega : ¬bits (s.reg Reg.BKW_CACHE_SIZE).toNat 21 0 < g), State.evict, List.foldl_nil, hpaid]
    rw [← hwrite]
    rfl
  · intro w hw
    cases hpaid.symm.trans hw
    rfl

theorem HeaderAt.congr {m m' : Tab Byte} {b tag epoch : Nat} (h : HeaderAt m b tag epoch)
    (hm : ∀ i, b ≤ i → i < b + 16 → tget zeroByte m' i = tget zeroByte m i) : HeaderAt m' b tag epoch :=
  ⟨(readBytes_congr fun i _ _ => hm i (by omega) (by omega)).trans h.1,
    (readBytes_congr fun i _ _ => hm i (by omega) (by omega)).trans h.2⟩

/-! ## Records that are kept out (09 R335; 01 R36) -/

theorem putRecord_pinned {kind g : Nat} {x : CacheRec} (hfits : s.bkw.wp + g ≤ s.cacheSize) (hx : x ∈ s.bkw.recs)
    (hway : x.granule < s.bkw.wp + g ∧ s.bkw.wp < x.granule + x.len) (hpin : s.pinned x.epoch = true)
    (head : Nat → Bool → List Byte) (body : List (Nat × List Byte)) : s.putRecord kind g head body =
      ((s.count Reg.BKW_FULL_SKIP_CNT 1).event Reg.BKW_STATUS Ev.BKW_CACHE_FULL, false) := by
  have hfits' : s.bkw.wp + g ≤ bits (s.reg Reg.BKW_CACHE_SIZE).toNat 21 0 := hfits
  have hhit : (((s.bkw.recs.filter fun c => decide (c.granule < s.bkw.wp + g ∧ s.bkw.wp < c.granule + c.len)).map
      (·.epoch)).eraseDups.any s.pinned) = true := by
    refine List.any_eq_true.2 ⟨x.epoch, List.mem_eraseDups.2 (List.mem_map_of_mem (List.mem_filter.2 ⟨hx, ?_⟩)), hpin⟩
    exact decide_eq_true hway
  unfold putRecord
  simp only [if_pos hfits', if_neg (by omega : ¬bits (s.reg Reg.BKW_CACHE_SIZE).toNat 21 0 < g), hhit, if_true]

theorem putRecord_unpaid {kind g : Nat} (hroom : s.RoomFor g)
    (hpaid : s.chargeDram (s.granuleAddr s.bkw.wp) (g * 8192) 1 = none)
    (head : Nat → Bool → List Byte) (body : List (Nat × List Byte)) : s.putRecord kind g head body = (s.capSkip, false) := by
  have hfits : s.bkw.wp + g ≤ bits (s.reg Reg.BKW_CACHE_SIZE).toNat 21 0 := hroom.fits
  unfold putRecord
  simp only [if_pos hfits, hroom.none_hit, List.map_nil, List.eraseDups_nil, List.any_nil, Bool.false_eq_true, if_false,
    if_neg (by omega : ¬bits (s.reg Reg.BKW_CACHE_SIZE).toNat 21 0 < g), hpaid]

/-! ## The Backwater budget of the channel pairs (12 R537, R539) -/

theorem foldl_charge_sched {a n k : Nat} (ps : List Nat) (hx : t.sched = s.sched) (hp : t.dramPairs = s.dramPairs) :
    (ps.foldl (fun (s : State) p => s.charge 2 p k (s.pairCycles p a n)) t).sched =
      (ps.foldl (fun (s : State) p => s.charge 2 p k (s.pairCycles p a n)) s).sched := by
  induction ps generalizing s t with
  | nil => exact hx
  | cons p ps ih =>
    refine ih ?_ hp
    simp only [charge, used, pairCycles, pairOf, physChan, chanOf, hp, hx]

/-- What is charged depends on the budgets and on the channel pairs in use alone. -/
theorem chargeDram_sched {w : State} {a n k : Nat} (hx : t.sched = s.sched) (hp : t.dramPairs = s.dramPairs)
    (h : s.chargeDram a n k = some w) : ∃ v, t.chargeDram a n k = some v ∧ v.sched = w.sched := by
  have hcycles (p : Nat) : t.pairCycles p a n = s.pairCycles p a n := by
    simp only [pairCycles, pairOf, physChan, chanOf, hp]
  have hallowed (p : Nat) : t.allowed 2 p k (t.pairCycles p a n) = s.allowed 2 p k (s.pairCycles p a n) := by
    simp only [allowed, used, maxOf, hx, hcycles]
    rfl
  unfold chargeDram at h ⊢
  rw [funext hallowed, hp]
  split at h
  · next hall =>
    rw [if_pos hall]
    refine ⟨_, rfl, ?_⟩
    rw [← Option.some.inj h]
    exact foldl_charge_sched s.dramPairs hx hp
  · cases h

theorem chargeDram_none {a n k : Nat} (hx : t.sched = s.sched) (hp : t.dramPairs = s.dramPairs)
    (h : s.chargeDram a n k = none) : t.chargeDram a n k = none := by
  cases ht : t.chargeDram a n k with
  | none => rfl
  | some w =>
    obtain ⟨v, hv, -⟩ := chargeDram_sched hx.symm hp.symm ht
    rw [h] at hv
    cases hv

/-! ## Reaches (09 R322 to R327) -/

/-- The occasion of a reach in an epoch. -/
def isOccasion (r : CapReach) (n epoch : Nat) (x : OccRec) : Bool :=
  x.cluster == r.cluster && x.carrier == r.carrier && x.slot == slotField ⟨r.sym.sfn, r.sym.slot⟩ && x.position == r.position
    && x.occasion == n && x.epoch == epoch

/-- The labelled places of a reach (09 R325). -/
def labelled (s : State) (r : CapReach) (y : SymId) : Nat :=
  ((s.allocPlaces r).filter fun p => (s.labelAt r.cluster r.block r.mu y (p.1 * 16 + p.2.1)).isSome).length

/-- A reach has as many labels as BKW.CAPCFG asks for (09 R325). -/
def Enough (s : State) (r : CapReach) (y : SymId) : Prop :=
  bits (s.ctl.inForce Reg.BKW_CAPCFG).toNat 23 16 * (s.allocPlaces r).length ≤ s.labelled r y * 256

section Reach
variable {carrier position : Nat} {y : SymId} {r : CapReach}
  (hfound : (s.bkw.caps.find? fun r => r.carrier == carrier && r.sym == y && r.position == position) = some r)
include hfound

omit hfound in
theorem captureReach_none (h : (s.bkw.caps.find? fun r => r.carrier == carrier && r.sym == y && r.position == position) = none) :
    s.captureReach carrier y position = s := by
  simp only [captureReach, h]

theorem captureReach_ineligible (h : s.eligible r = false) : s.captureReach carrier y position = s.dropCap r := by
  have h' : (s.dropCap r).eligible r = false := h
  simp only [captureReach, hfound, h', Bool.not_false, if_true]

theorem captureReach_skipped (he : s.eligible r = true) (h : ¬s.Enough r y ∨ r.occ = none) :
    s.captureReach carrier y position = (s.dropCap r).capSkip := by
  have he' : (s.dropCap r).eligible r = true := he
  simp only [captureReach, hfound, he', Bool.not_true, Bool.false_eq_true, if_false]
  split
  · rfl
  · next hn =>
    rw [h.resolve_left fun hne => hn (Nat.lt_of_not_le hne)]

theorem captureReach_linked {o link : Nat} {oy : SymId} {w : State} (he : s.eligible r = true) (hn : s.Enough r y)
    (ho : r.occ = some (o, oy)) (hw : (s.dropCap r).occasionTag r o oy = (w, some link)) :
    ∃ h body, s.captureReach carrier y position = (w.putRecord 2 5 (w.recordHead h) body).1 := by
  have he' : (s.dropCap r).eligible r = true := he
  simp only [captureReach, hfound, he', Bool.not_true, Bool.false_eq_true, if_false, ho, hw]
  split
  · next hfew => exact absurd hfew (Nat.not_lt.2 hn)
  · exact ⟨_, _, rfl⟩

end Reach

/-- Adds an occasion to those of the epoch. -/
def addOccasion (x : OccRec) (s : State) : State := s.onBkw fun b => { b with occasions := b.occasions ++ [x] }

/-- The occasion that a reach would add now. -/
def nextOccasion (s : State) (r : CapReach) (n : Nat) : OccRec :=
  ⟨r.cluster, r.carrier, slotField ⟨r.sym.sfn, r.sym.slot⟩, r.position, n, (s.reg Reg.BKW_EPOCH).toNat,
    (s.reg Reg.BKW_NEXT_TAG).toNat⟩

theorem RoomFor.addOccasion {g : Nat} {x : OccRec} (h : s.RoomFor g) : (s.addOccasion x).RoomFor g := ⟨h.fits, h.clear⟩

theorem RoomFor.dropCap {g : Nat} {r : CapReach} (h : s.RoomFor g) : (s.dropCap r).RoomFor g := ⟨h.fits, h.clear⟩

theorem occasionTag_known {r : CapReach} {n : Nat} {oy : SymId} {x : OccRec}
    (h : s.bkw.occasions.find? (isOccasion r n (s.reg Reg.BKW_EPOCH).toNat) = some x) : s.occasionTag r n oy = (s, some x.tag) := by
  unfold isOccasion at h
  unfold occasionTag
  simp only [h]

theorem occasionTag_new {r : CapReach} {n : Nat} {oy : SymId} {w : State}
    (h : s.bkw.occasions.find? (isOccasion r n (s.reg Reg.BKW_EPOCH).toNat) = none) (hroom : s.RoomFor 7)
    (hpaid : s.chargeDram (s.granuleAddr s.bkw.wp) (7 * 8192) 1 = some w)
    (htop : s.granuleAddr s.bkw.wp + 7 * 8192 ≤ s.dramTop) :
    ∃ t, RecordPut 1 7 s t ∧
      s.occasionTag r n oy = (t.addOccasion (s.nextOccasion r n), some (s.reg Reg.BKW_NEXT_TAG).toNat) := by
  obtain ⟨t, ht, hput⟩ := putRecord_room (kind := 1) hroom (by decide) hpaid htop (capHead r 1 7 0 0 0 0)
    ((if r.allocs.any fun a => a.dmrsDouble && a.dmrs.contains oy.sym then
        [(0x2000, s.mirrored r.cluster r.block r.ants (prevSym oy)), (0x6000, s.mirrored r.cluster r.block r.ants oy)]
      else [(0x2000, s.mirrored r.cluster r.block r.ants oy)])
      ++ [(0xA000, readBytes s.mem (s.gramMirror r.cluster r.block oy) 0x3000)])
  refine ⟨t, hput, ?_⟩
  unfold isOccasion at h
  unfold occasionTag
  simp only [h, ht, if_true]
  rfl

/-! ## What a record leaves for the next -/

namespace RecordPut

variable {kind kind' g g' : Nat}

/-- Where the granules lie in memory the header stands there. -/
theorem headerAt (h : RecordPut kind g s t) {n b : Nat} (hwp : s.bkw.wp < 2 ^ 22) (hb : s.landsAt (s.granuleAddr s.bkw.wp) n b) :
    HeaderAt t.mem b (s.reg Reg.BKW_NEXT_TAG).toNat (s.reg Reg.BKW_EPOCH).toNat := by
  obtain ⟨rfl, hlow, -, -⟩ := landsAt_granule hwp hb
  exact h.header hlow

theorem nextTag_toNat (h : RecordPut kind g s t) :
    (t.reg Reg.BKW_NEXT_TAG).toNat = ((s.reg Reg.BKW_NEXT_TAG).toNat + 1) % 2 ^ 32 := by
  rw [h.nextTag]
  exact BitVec.toNat_add ..

theorem granuleAddr (h : RecordPut kind g s t) (n : Nat) : t.granuleAddr n = s.granuleAddr n := by
  simp only [State.granuleAddr, h.regs Reg.BKW_CACHE_BASE (by decide +kernel)]

theorem cacheSize (h : RecordPut kind g s t) : t.cacheSize = s.cacheSize := by
  simp only [State.cacheSize, h.regs Reg.BKW_CACHE_SIZE (by decide +kernel)]

theorem dramTop (h : RecordPut kind g s t) : t.dramTop = s.dramTop := by
  simp only [State.dramTop, h.regs Reg.DRAM_TOP (by decide +kernel)]

theorem inForce (h : RecordPut kind g s t) (a : Nat) : t.ctl.inForce a = s.ctl.inForce a := by
  simp only [Ctl.inForce, h.eff]

/-- The write pointer stands behind the record where there is room for another. -/
theorem wp (h : RecordPut kind g s t) (hroom : s.RoomFor (g + g')) (hg : 0 < g') : t.bkw.wp = s.bkw.wp + g := by
  have := hroom.fits
  rw [h.bkw]
  exact Nat.mod_eq_of_lt (by omega)

theorem room (h : RecordPut kind g s t) (hroom : s.RoomFor (g + g')) (hg : 0 < g') : t.RoomFor g' where
  fits := by
    have := hroom.fits
    rw [h.wp hroom hg, h.cacheSize]
    omega
  clear := fun x hx => by
    rw [h.wp hroom hg]
    rw [h.bkw] at hx
    rcases List.mem_append.1 hx with hx | hx
    · have := hroom.clear x hx
      omega
    · rw [List.mem_singleton.1 hx]
      show ¬(s.bkw.wp < _ ∧ s.bkw.wp + g < s.bkw.wp + g)
      omega

/-- The record that follows, after an occasion has been added. -/
theorem nextRec (h : RecordPut kind g s t) (hroom : s.RoomFor (g + g')) (hg : 0 < g') (x : OccRec) :
    (t.addOccasion x).nextRec kind' g' = ⟨s.bkw.wp + g, g', ((s.reg Reg.BKW_NEXT_TAG).toNat + 1) % 2 ^ 32, (s.reg Reg.BKW_EPOCH).toNat,
      kind', heldOut (bits (s.ctl.inForce Reg.BKW_CAPCFG).toNat 15 8) (((s.reg Reg.BKW_NEXT_TAG).toNat + 1) % 2 ^ 32), s.bkw.config⟩ := by
  have hepoch := h.regs Reg.BKW_EPOCH (by decide +kernel)
  have hcfg := h.inForce Reg.BKW_CAPCFG
  have hconfig : t.bkw.config = s.bkw.config := by rw [h.bkw]
  show (⟨t.bkw.wp, g', (t.reg Reg.BKW_NEXT_TAG).toNat, (t.reg Reg.BKW_EPOCH).toNat, kind',
    heldOut (bits (t.ctl.inForce Reg.BKW_CAPCFG).toNat 15 8) (t.reg Reg.BKW_NEXT_TAG).toNat, t.bkw.config⟩ : CacheRec) = _
  rw [h.wp hroom hg, h.nextTag_toNat, hepoch, hcfg, hconfig]

section
variable {x : OccRec} (h : RecordPut kind g s t) (k : RecordPut kind' g' (t.addOccasion x) u) (hroom : s.RoomFor (g + g')) (hg : 0 < g')
include h k

theorem pair_settled : u.settled = s.settled :=
  k.settled.trans ((settled_of_regs (s := t) rfl rfl rfl rfl rfl rfl).trans h.settled)

theorem pair_occasions : u.bkw.occasions = s.bkw.occasions ++ [x] := by
  have ht : t.bkw.occasions = s.bkw.occasions := by rw [h.bkw]
  rw [k.bkw]
  show t.bkw.occasions ++ [x] = _
  rw [ht]

theorem pair_nextTag : (u.reg Reg.BKW_NEXT_TAG).toNat = ((s.reg Reg.BKW_NEXT_TAG).toNat + 2) % 2 ^ 32 := by
  rw [k.nextTag_toNat]
  show ((t.reg Reg.BKW_NEXT_TAG).toNat + 1) % 2 ^ 32 = _
  rw [h.nextTag_toNat, Nat.mod_add_mod]

theorem pair_capCnt : u.reg Reg.BKW_CAP_CNT = s.reg Reg.BKW_CAP_CNT + 2 := by
  rw [k.capCnt]
  show t.reg Reg.BKW_CAP_CNT + 1 = _
  rw [h.capCnt, BitVec.add_assoc]
  rfl

include hroom hg

theorem pair_recs : u.bkw.recs = s.bkw.recs ++ [s.nextRec kind g,
    ⟨s.bkw.wp + g, g', ((s.reg Reg.BKW_NEXT_TAG).toNat + 1) % 2 ^ 32, (s.reg Reg.BKW_EPOCH).toNat, kind',
      heldOut (bits (s.ctl.inForce Reg.BKW_CAPCFG).toNat 15 8) (((s.reg Reg.BKW_NEXT_TAG).toNat + 1) % 2 ^ 32), s.bkw.config⟩] := by
  have ht : t.bkw.recs = s.bkw.recs ++ [s.nextRec kind g] := by rw [h.bkw]
  rw [k.bkw, h.nextRec hroom hg]
  show t.bkw.recs ++ _ = _
  rw [ht, List.append_assoc]
  rfl

theorem pair_wp : u.bkw.wp = (s.bkw.wp + (g + g')) % s.cacheSize := by
  rw [k.bkw]
  show (t.bkw.wp + g') % t.cacheSize = _
  rw [h.wp hroom hg, h.cacheSize, Nat.add_assoc]

theorem pair_first (hg1 : 0 < g) {n b : Nat} (hb : s.landsAt (s.granuleAddr s.bkw.wp) n b) :
    HeaderAt u.mem b (s.reg Reg.BKW_NEXT_TAG).toNat (s.reg Reg.BKW_EPOCH).toNat := by
  have hsize : s.cacheSize < 2 ^ 22 := Nat.mod_lt _ (by decide)
  have hfits := hroom.fits
  have hwp : s.bkw.wp < 2 ^ 22 := by omega
  refine (h.headerAt hwp hb).congr fun i hi hlt => k.outside i (.inl ?_)
  show i < t.granuleAddr t.bkw.wp
  rw [h.granuleAddr, h.wp hroom hg, granuleAddr_add]
  obtain ⟨rfl, -, -, -⟩ := landsAt_granule hwp hb
  omega

theorem pair_second {n b : Nat} (hb : s.landsAt (s.granuleAddr (s.bkw.wp + g)) n b) :
    HeaderAt u.mem b (((s.reg Reg.BKW_NEXT_TAG).toNat + 1) % 2 ^ 32) (s.reg Reg.BKW_EPOCH).toNat := by
  have hsize : s.cacheSize < 2 ^ 22 := Nat.mod_lt _ (by decide)
  have hfits := hroom.fits
  obtain ⟨rfl, hlow, -, -⟩ := landsAt_granule (by omega : s.bkw.wp + g < 2 ^ 22) hb
  have haddr : (t.addOccasion x).granuleAddr (t.addOccasion x).bkw.wp = s.granuleAddr (s.bkw.wp + g) := by
    show t.granuleAddr t.bkw.wp = _
    rw [h.granuleAddr, h.wp hroom hg]
  have hhead := k.header (by rw [haddr]; exact hlow)
  rw [haddr] at hhead
  rw [← h.nextTag_toNat, ← h.regs Reg.BKW_EPOCH (by decide +kernel)]
  exact hhead

end
end RecordPut

/-! ## The two ends of a capture of a reach -/

section Ends
variable {carrier position o : Nat} {y oy : SymId} {r : CapReach}
  (hfound : (s.bkw.caps.find? fun r => r.carrier == carrier && r.sym == y && r.position == position) = some r)
  (he : s.eligible r = true) (hn : s.Enough r y) (ho : r.occ = some (o, oy))
include hfound he hn ho

theorem captureReach_known {x : OccRec} (hx : s.bkw.occasions.find? (isOccasion r o (s.reg Reg.BKW_EPOCH).toNat) = some x) :
    ∃ h body, s.captureReach carrier y position = ((s.dropCap r).putRecord 2 5 ((s.dropCap r).recordHead h) body).1 :=
  captureReach_linked hfound he hn ho (occasionTag_known (s := s.dropCap r) hx)

/-- A reach of a new occasion leaves two records, the occasion's and its own. -/
theorem captureReach_new {w v : State} (hx : s.bkw.occasions.find? (isOccasion r o (s.reg Reg.BKW_EPOCH).toNat) = none)
    (hroom : (s.dropCap r).RoomFor 12) (htop : s.granuleAddr s.bkw.wp + 12 * 8192 ≤ s.dramTop)
    (hw : s.chargeDram (s.granuleAddr s.bkw.wp) (7 * 8192) 1 = some w)
    (hv : w.chargeDram (s.granuleAddr (s.bkw.wp + 7)) (5 * 8192) 1 = some v) :
    ∃ t, RecordPut 1 7 (s.dropCap r) t ∧ RecordPut 2 5 (t.addOccasion (s.nextOccasion r o)) (s.captureReach carrier y position) := by
  obtain ⟨w', hw', hsched⟩ := chargeDram_sched (s := s) (t := s.dropCap r) rfl rfl hw
  have hroom7 : (s.dropCap r).RoomFor 7 :=
    ⟨by have := hroom.fits; omega, fun x hx hway => hroom.clear x hx ⟨by omega, hway.2⟩⟩
  obtain ⟨t, hput, htag⟩ := occasionTag_new (s := s.dropCap r) (oy := oy) hx hroom7 hw'
    (by show s.granuleAddr s.bkw.wp + 7 * 8192 ≤ s.dramTop; omega)
  obtain ⟨h, body, hcap⟩ := captureReach_linked hfound he hn ho htag
  have hwp : t.bkw.wp = s.bkw.wp + 7 := RecordPut.wp (s := s.dropCap r) (g' := 5) hput hroom (by decide)
  have haddr : t.granuleAddr t.bkw.wp = s.granuleAddr (s.bkw.wp + 7) := (hput.granuleAddr _).trans (by rw [hwp]; rfl)
  have hpairs : w.dramPairs = s.dramPairs := by
    obtain ⟨x, rfl⟩ := chargeDram_eq hw
    rfl
  obtain ⟨v', hv', -⟩ := chargeDram_sched (t := t.addOccasion (s.nextOccasion r o)) ((hput.charged w' hw').trans hsched)
    (hput.dramPairs.trans hpairs.symm) hv
  rw [← haddr] at hv'
  have htop5 : t.granuleAddr t.bkw.wp + 5 * 8192 ≤ t.dramTop := by
    have htop' : t.dramTop = s.dramTop := hput.dramTop
    have hadd := granuleAddr_add (s := s) s.bkw.wp 7
    omega
  have hroom5 : (t.addOccasion (s.nextOccasion r o)).RoomFor 5 := (hput.room (g' := 5) hroom (by decide)).addOccasion
  obtain ⟨z, hz, hput2⟩ := putRecord_room (kind := 2) hroom5 (by decide) hv' htop5 h body
  have hcap' : s.captureReach carrier y position = z := hcap.trans (congrArg Prod.fst hz)
  exact ⟨t, hput, hcap' ▸ hput2⟩

end Ends

/-! ## The command -/

/-- A command that leaves nothing undone keeps Backwater, the memory and the registers that its effect gives. -/
theorem run_keepsBkw {v : State} {f : State → State} (hr : s.ready = true) (hf : f s.clearOuts = v) (hs : v.settled = s.settled) :
    ∃ t, s.run f = .next t ∧ t.bkw = v.bkw ∧ t.mem = v.mem ∧ ∀ a, t.reg a = v.reg a := by
  obtain ⟨l, hl⟩ := sortLog_eq v
  refine ⟨_, run_sorted (ready_awake hr) (by rw [hf, hs]; exact ready_settled hr), ?_⟩
  rw [hf, hl]
  exact ⟨rfl, rfl, fun _ => rfl⟩

/-- A command that changes Backwater's own state, and then no more than records, answers what its events make of that. -/
theorem run_bkwUntouched {v : State} {b : Bkw} {f : State → State} (hr : s.ready = true) (hf : f s.clearOuts = v)
    (h : Untouched { s.clearOuts with bkw := b } v) : s.run f = .next v.settle := by
  subst hf
  exact run_untouched hr (settled_unitsFenced (s := { s.clearOuts with bkw := b }) (ready_settled hr)) rfl h

theorem capSkip_untouched (s : State) : Untouched s s.capSkip :=
  (Untouched.count (by decide +kernel)).trans (Untouched.event (by decide +kernel))

end State

open State

variable {s : State}

/-- Room for `g` granules that lie in memory. -/
theorem roomFor_of_landsAt {g b : Nat} (hg : 0 < g) (hfits : s.bkw.wp + g ≤ s.cacheSize)
    (hclear : ∀ x ∈ s.bkw.recs, ¬(x.granule < s.bkw.wp + g ∧ s.bkw.wp < x.granule + x.len))
    (hb : s.landsAt (s.granuleAddr s.bkw.wp) (g * 8192) b) :
    s.RoomFor g ∧ s.bkw.wp < 2 ^ 22 ∧ s.granuleAddr s.bkw.wp + g * 8192 ≤ s.dramTop := by
  have hsize : s.cacheSize < 2 ^ 22 := Nat.mod_lt _ (by decide)
  have hwp : s.bkw.wp < 2 ^ 22 := by omega
  obtain ⟨rfl, -, htop, -⟩ := landsAt_granule hwp hb
  exact ⟨⟨hfits, hclear⟩, hwp, htop⟩

theorem reachesCaptured : Claims.ReachesCaptured := by
  intro s carrier y position hr
  extract_lets c u found cfg size wp tag epoch put inWay room paid magic
  have hlt : tag % 2 ^ 32 = tag := Nat.mod_eq_of_lt (BitVec.isLt _)
  have hroomFor {g : Nat} (hg : 0 < g) (h : room g) : u.RoomFor g ∧ wp < 2 ^ 22 ∧ s.granuleAddr wp + g * 8192 ≤ s.dramTop := by
    obtain ⟨hfits, hclear, b, hb⟩ := h
    obtain ⟨hroom, hwp, htop⟩ := roomFor_of_landsAt hg hfits (fun x hx hway => hclear x ⟨hx, hway⟩) hb
    exact ⟨⟨hroom.fits, hroom.clear⟩, hwp, htop⟩
  refine ⟨fun hnone => run_unchanged hr (captureReach_none hnone), fun r hfound => ?_⟩
  extract_lets d skipped places labelled enough
  have hfound' : (u.bkw.caps.find? fun r => r.carrier == carrier.val && r.sym == y && r.position == position.val) = some r := hfound
  refine ⟨fun he => ?_, fun he hn => ?_, fun o oy he hn ho => ?_⟩
  · exact run_eq hr (captureReach_ineligible hfound' he) (settled_of_regs rfl rfl rfl rfl rfl rfl) rfl rfl
  · exact run_bkwUntouched hr (captureReach_skipped hfound' he hn) (capSkip_untouched d)
  extract_lets mine
  have hy : r.sym = y := by
    have hr := List.find?_some hfound
    simp only [Bool.and_eq_true, beq_iff_eq] at hr
    obtain ⟨⟨-, hy⟩, -⟩ := hr
    exact hy
  have hmine : mine = isOccasion r o epoch := by
    funext x
    simp only [mine, isOccasion, hy]
  have hknown {x : OccRec} (hx : s.bkw.occasions.find? mine = some x) : ∃ h body,
      u.captureReach carrier.val y position.val = (d.putRecord 2 5 (d.recordHead h) body).1 :=
    captureReach_known hfound' he hn ho (hmine ▸ hx)
  refine ⟨fun x w hx hroom hpaid => ?_, fun x e hx hfits hway hpin => ?_, fun x hx hroom hpaid => ?_, fun w v hx hroom hw hv => ?_⟩
  · obtain ⟨h, body, hcap⟩ := hknown hx
    obtain ⟨hroom, hwp, htop⟩ := hroomFor (by decide) hroom
    obtain ⟨w', hw', -⟩ := chargeDram_sched (s := u) (t := d) rfl rfl hpaid
    obtain ⟨t, ht, hput⟩ := putRecord_room (s := d) (kind := 2) hroom.dropCap (by decide) hw' htop h body
    rw [ht] at hcap
    obtain ⟨t', hrun, hbkw, hmem, hreg⟩ := run_keepsBkw hr hcap (hput.settled.trans (settled_of_regs rfl rfl rfl rfl rfl rfl))
    have hput' : d.nextRec 2 5 = put 0 5 0 2 := by
      simp only [put, Nat.add_zero, hlt]
      rfl
    refine ⟨t', hrun, hbkw.trans (hput.bkw.trans (hput' ▸ rfl)), fun b hb => ?_, ?_, ?_⟩
    · rw [hmem, Nat.add_zero tag, hlt]
      exact RecordPut.headerAt (s := d) hput hwp hb
    · rw [hreg]
      exact hput.nextTag_toNat
    · rw [hreg]
      exact hput.capCnt
  · obtain ⟨h, body, hcap⟩ := hknown hx
    rw [putRecord_pinned (s := d) hfits hway.1 hway.2 hpin] at hcap
    exact run_bkwUntouched hr hcap ((Untouched.count (by decide +kernel)).trans (Untouched.event (by decide +kernel)))
  · obtain ⟨h, body, hcap⟩ := hknown hx
    obtain ⟨hroom, -, -⟩ := hroomFor (by decide) hroom
    rw [putRecord_unpaid (s := d) hroom.dropCap (chargeDram_none (s := u) (t := d) rfl rfl hpaid)] at hcap
    exact run_bkwUntouched hr hcap (capSkip_untouched d)
  · obtain ⟨hroom, hwp, htop⟩ := hroomFor (by decide) hroom
    have hroom : d.RoomFor (7 + 5) := hroom.dropCap
    obtain ⟨t, hfirst, hsecond⟩ := captureReach_new (s := u) hfound' he hn ho (hmine ▸ hx) hroom htop hw hv
    obtain ⟨t', hrun, hbkw, hmem, hreg⟩ := run_keepsBkw (f := fun s => s.captureReach carrier.val y position.val) hr rfl
      ((hfirst.pair_settled hsecond).trans (settled_of_regs rfl rfl rfl rfl rfl rfl))
    refine ⟨t', hrun, ?_, ?_, fun b hb => ?_, fun b hb => ?_, ?_, ?_, ?_⟩
    · rw [hbkw]
      refine (hfirst.pair_recs hsecond hroom (by decide)).trans ?_
      simp only [put, Nat.add_zero, hlt]
      rfl
    · rw [hbkw]
      exact hfirst.pair_wp hsecond hroom (by decide)
    · rw [hmem, Nat.add_zero tag, hlt]
      exact hfirst.pair_first hsecond hroom (by decide) (by decide) hb
    · rw [hmem]
      exact hfirst.pair_second hsecond hroom (by decide) hb
    · rw [hbkw, hfirst.pair_occasions hsecond, nextOccasion, hy]
      rfl
    · rw [hreg]
      exact hfirst.pair_nextTag hsecond
    · rw [hreg]
      exact hfirst.pair_capCnt hsecond

/-! ## Images (09 R329, R330) -/

namespace State

/-- The window of a stream begins again. -/
def dropWindow (stream : Nat) (s : State) : State := s.onBkw fun b => { b with wins := tdel b.wins stream }

/-- The reach whose slot and port an occasion of a stream belongs to. -/
def imageReach (s : State) (carrier port : Nat) (y : SymId) : Option CapReach :=
  s.bkw.caps.find? fun r => r.carrier == carrier && r.sym.sfn == y.sfn && r.sym.slot == y.slot
    && r.allocs.any fun a => a.layerBase.val == port

/-- The window that begins with an occasion of a reach. -/
def freshWindow (carrier port : Nat) (y : SymId) (r : CapReach) : ImgWin :=
  ⟨y, carrier, r.ants, ((r.allocs.find? fun a => a.layerBase.val == port).map (·.qm)).getD 0 * 16 ^ port, r.version, r.noise, r.delay,
    r.doppler, []⟩

/-- The window of a stream once an occasion has joined it. -/
def joinedWindow (s : State) (stream carrier port : Nat) (y : SymId) (r : CapReach) (row : ImgRow) : ImgWin :=
  let w := (tfind s.bkw.wins stream).getD (freshWindow carrier port y r)
  { w with rows := w.rows ++ [row] }

theorem joinedWindow_some {stream carrier port : Nat} {y : SymId} {r : CapReach} {row : ImgRow} {w : ImgWin}
    (h : tfind s.bkw.wins stream = some w) : s.joinedWindow stream carrier port y r row = { w with rows := w.rows ++ [row] } := by
  rw [joinedWindow, h]
  rfl

theorem joinedWindow_none {stream carrier port : Nat} {y : SymId} {r : CapReach} {row : ImgRow} (h : tfind s.bkw.wins stream = none) :
    s.joinedWindow stream carrier port y r row = { freshWindow carrier port y r with rows := [row] } := by
  rw [joinedWindow, h]
  rfl

section Image
variable {stream cfg : Nat} {y : SymId} {pilots : List (Nat × Word)} (hcfg : (s.ctl.inForce (Reg.BKW_REFSIG0 + 4 * stream)).toNat = cfg)
include hcfg

theorem captureImage_off (h : (bitOf cfg 31 && s.bkwCtl 0) = false ∨ s.carrierOf (bits cfg 27 24) = none) :
    s.captureImage stream y pilots = s := by
  subst hcfg
  unfold captureImage
  dsimp only
  split
  · next hk hon =>
    rcases h with h | h
    · rw [h] at hon
      cases hon
    · rw [h] at hk
      cases hk
  · rfl

variable {k : CarrierRec} (hon : (bitOf cfg 31 && s.bkwCtl 0) = true) (hk : s.carrierOf (bits cfg 27 24) = some k)
include hon hk

theorem captureImage_noReach (hreach : s.imageReach (bits cfg 27 24) (bits cfg 23 20) y = none) :
    s.captureImage stream y pilots = (s.dropWindow stream).capSkip := by
  subst hcfg
  unfold imageReach at hreach
  simp only [captureImage, hon, hk, hreach]
  rfl

variable {r : CapReach} (hreach : s.imageReach (bits cfg 27 24) (bits cfg 23 20) y = some r)
include hreach

theorem captureImage_skipped (h : ((pilots.drop (bits cfg 19 8)).take 64).length < 64 ∨
    s.capLate k.mu.val (slotOfSym k.mu.val y) = true ∨ s.mirrorOn r.cluster k.mu.val y = false) :
    s.captureImage stream y pilots = (s.dropWindow stream).capSkip := by
  subst hcfg
  unfold imageReach at hreach
  simp only [captureImage, hon, hk, hreach, Bool.not_eq_true', if_pos h]
  rfl

theorem captureImage_taken (hps : 64 ≤ ((pilots.drop (bits cfg 19 8)).take 64).length)
    (hlate : s.capLate k.mu.val (slotOfSym k.mu.val y) = false) (hmirror : s.mirrorOn r.cluster k.mu.val y = true) :
    let row := s.imgRow (bits cfg 27 24) (bits cfg 23 20) k y ((pilots.drop (bits cfg 19 8)).take 64)
    let w := s.joinedWindow stream (bits cfg 27 24) (bits cfg 23 20) y r row
    s.captureImage stream y pilots = if w.rows.length < 16 then s.onBkw fun b => { b with wins := tset b.wins stream w }
      else (s.dropWindow stream).putImage w := by
  subst hcfg
  unfold imageReach at hreach
  have h : ¬(((pilots.drop (bits (s.ctl.inForce (Reg.BKW_REFSIG0 + 4 * stream)).toNat 19 8)).take 64).length < 64 ∨
      s.capLate k.mu.val (slotOfSym k.mu.val y) = true ∨ s.mirrorOn r.cluster k.mu.val y = false) := by
    rintro (h | h | h)
    · omega
    · exact absurd (hlate.symm.trans h) Bool.false_ne_true
    · exact absurd (hmirror.symm.trans h).symm Bool.false_ne_true
  cases hwin : tfind s.bkw.wins stream <;>
    simp only [captureImage, hon, hk, hreach, Bool.not_eq_true', if_neg h, joinedWindow, freshWindow, hwin] <;> rfl

end Image

theorem putImage_room {w : ImgWin} {v : State} (hroom : s.RoomFor 17)
    (hpaid : s.chargeDram (s.granuleAddr s.bkw.wp) (17 * 8192) 1 = some v)
    (htop : s.granuleAddr s.bkw.wp + 17 * 8192 ≤ s.dramTop) : RecordPut 3 17 s (s.putImage w) := by
  unfold putImage
  extract_lets valid sec
  obtain ⟨t, ht, hput⟩ := putRecord_room (kind := 3) hroom (by decide) hpaid htop ⟨3, 17, 0, w.carrier, 0,
    slotField ⟨w.sym.sfn, w.sym.slot⟩, 0, 0, w.ants, 1, w.qm, w.version, w.noise, w.delay.toNat, w.doppler.toNat,
    (valid.filter id).length⟩ [(0x100, sec (·.pilots)), (0x1100, maskBytes valid), (0x2000, sec (·.image)), (0x12000, sec (·.target))]
  rw [ht]
  exact hput

end State

theorem imagesCaptured : Claims.ImagesCaptured := by
  intro s stream y pilots hr c u cfg carrier port on size wp tag epoch put ps reach e
  refine ⟨fun h => run_unchanged hr (captureImage_off rfl h), fun k hon hk => ⟨fun h => ?_, fun r hreach hps hlate hmirror => ?_⟩⟩
  · refine run_bkwUntouched hr ?_ (capSkip_untouched e)
    rcases h with h | ⟨r, hreach, h⟩
    · exact captureImage_noReach (s := u) rfl hon hk h
    · exact captureImage_skipped (s := u) rfl hon hk hreach h
  extract_lets row
  have htaken := captureImage_taken (s := u) rfl hon hk hreach hps hlate hmirror
  have hjoins {w : ImgWin} (hwin : u.joinedWindow stream.val carrier port y r row = w) (hlen : w.rows.length < 16) :
      exec c s = .next { u with bkw := { s.bkw with wins := tset s.bkw.wins stream.val w } } := by
    refine run_eq hr (htaken.trans ?_) (settled_of_regs rfl rfl rfl rfl rfl rfl) rfl rfl
    subst hwin
    exact if_pos hlen
  refine ⟨fun w hw hlen => hjoins (joinedWindow_some (s := u) hw) ?_, fun hnone => ?_, fun w v b hw hlen hfits hclear hb hpaid => ?_⟩
  · rw [List.length_append]
    exact Nat.succ_lt_succ hlen
  · exact ⟨_, _, hjoins (joinedWindow_none (s := u) hnone) (by show 1 < 16; decide), tfind_tset_self .., rfl, rfl, rfl, rfl, rfl⟩
  · obtain ⟨hroom, hwp, htop⟩ := roomFor_of_landsAt (by decide) hfits hclear hb
    obtain ⟨rfl, hlow, -, -⟩ := landsAt_granule hwp hb
    obtain ⟨v', hv', -⟩ := chargeDram_sched (s := s) (t := u.dropWindow stream.val) rfl rfl hpaid
    have hput := putImage_room (s := u.dropWindow stream.val) (w := { w with rows := w.rows ++ [row] })
      ⟨hroom.fits, hroom.clear⟩ hv' htop
    have hfull : u.captureImage stream.val y pilots = (u.dropWindow stream.val).putImage { w with rows := w.rows ++ [row] } := by
      refine htaken.trans ?_
      rw [joinedWindow_some (s := u) hw, if_neg (by rw [List.length_append, hlen, List.length_singleton]; decide)]
      rfl
    obtain ⟨t, hrun, hbkw, hmem, hreg⟩ := run_keepsBkw hr hfull (hput.settled.trans (settled_of_regs rfl rfl rfl rfl rfl rfl))
    refine ⟨t, hrun, hbkw.trans hput.bkw, ?_, ?_, ?_⟩
    · rw [hreg]
      exact hput.nextTag_toNat
    · rw [hreg]
      exact hput.capCnt
    · rw [hmem]
      obtain ⟨hmagic, htag⟩ := hput.header hlow
      exact ⟨hmagic, htag, hput.outside⟩

/-- Settles O55, by the write of a record: what it leaves in the cache, in memory and in the registers, and what keeps it out. -/
theorem recordsCaptured : Obligations.RecordsCaptured := ⟨reachesCaptured, imagesCaptured⟩

end Sys2Proof.Machine
end

section
/-! PROOFS. A commit whose SWAP_AT boundary has passed (09 R356, R359) posts an admin event; where the admin ring lies in the slot that
was written, the event overwrites the image. -/
namespace Sys2Proof.Machine
namespace State

variable {s : State}

/-- An entry put into an admin ring in plain memory without notify write: its bytes, and nothing is left undone. -/
theorem adminPut_plain {a : Nat} (hp : s.poison = []) (hnotify : s.aeq.notify = 0)
    (ha : (s.place (s.aeq.base + s.aeq.prod % 2 ^ s.aeq.log2 * 32)).1 = .mem a)
    (hl : 32 ≤ (s.place (s.aeq.base + s.aeq.prod % 2 ^ s.aeq.log2 * 32)).2) (entry : List Byte) :
    (s.adminPut entry).settled = s.settled ∧ (s.adminPut entry).bkw = s.bkw ∧
    (s.adminPut entry).mem = writeBytes s.mem a (padTo 31 entry ++ [BitVec.ofNat 8 (s.aeq.phase * 128)]) := by
  have hwant (c : Ctl) (f v : Nat) : (c.want f v).regs = c.regs := by
    unfold Ctl.want
    split <;> rfl
  have hwrite : s.ringPut 0 s.aeq entry =
      ({ s with mem := writeBytes s.mem a (padTo 31 entry ++ [BitVec.ofNat 8 (s.aeq.phase * 128)]) },
        { s.aeq with prod := (s.aeq.prod + 1) % 65536 }) := by
    rw [ringPut, ringWrite, writeG_plain hp ha (by rw [List.length_append, padTo_length]; exact hl) (by simp)]
    simp only [notifyPut, hnotify, if_true]
  generalize writeBytes s.mem a (padTo 31 entry ++ [BitVec.ofNat 8 (s.aeq.phase * 128)]) = m at hwrite ⊢
  unfold adminPut
  rw [hwrite]
  dsimp only
  split
  · exact ⟨settled_of_regs rfl rfl (hwant ..) rfl rfl rfl, rfl, rfl⟩
  · exact ⟨settled_of_regs rfl rfl rfl rfl rfl rfl, rfl, rfl⟩

/-- An admin event into a ring in plain memory, with room and no notify write, writes its entry and leaves nothing undone. -/
theorem adminEvent_plain {a type code seq mbx : Nat} {detail : List Byte} (hp : s.poison = []) (hfull : s.aeq.full = false)
    (hlost : s.aeqLost = 0) (hnotify : s.aeq.notify = 0)
    (ha : (s.place (s.aeq.base + s.aeq.prod % 2 ^ s.aeq.log2 * 32)).1 = .mem a)
    (hl : 32 ≤ (s.place (s.aeq.base + s.aeq.prod % 2 ^ s.aeq.log2 * 32)).2) :
    (s.adminEvent type code seq mbx detail).settled = s.settled ∧ (s.adminEvent type code seq mbx detail).bkw = s.bkw ∧
    (s.adminEvent type code seq mbx detail).mem =
      writeBytes s.mem a (padTo 31 (eventBytes type code seq mbx s.ns32 detail) ++ [BitVec.ofNat 8 (s.aeq.phase * 128)]) := by
  have hput : s.adminEvent type code seq mbx detail = s.adminPut (eventBytes type code seq mbx s.ns32 detail) := by
    simp only [adminEvent, hfull, hlost, Bool.false_eq_true, if_false, if_true]
  rw [hput]
  exact adminPut_plain hp hnotify ha hl _

/-- The entry of an admin event begins with its type and its code (13, table "Admin event entry"). -/
theorem eventBytes_prefix (type code seq mbx : Nat) (ns : Word) (detail : List Byte) : ∃ z,
    padTo 31 (eventBytes type code seq mbx ns detail) = [BitVec.ofNat 8 type, BitVec.ofNat 8 code] ++ z := by
  simp only [eventBytes, List.append_assoc]
  exact padTo_prefix (by decide : 2 ≤ 31) _

/-- A commit of a LOAD whose boundary has passed writes its image, posts SWAP_MISSED and stops (09 R356, R359). -/
theorem commitEnd_missed {i a : Nat} {u : Upd} {d : RegionDecl} (hrun : (s.region i).run = some u) (hdecl : s.regionDecl i = some d)
    (hst : (s.region i).st = 4) (hw : (s.region i).writing = true) (hheld : s.bkwCtl 3 = false) (hm : u.missed = true)
    (hkind : u.rec_.kind ≠ 1) (ha : s.slotAddrs d (1 - (s.region i).active) = [a]) :
    s.commitEnd i = (((s.writeMem a (s.newImage i d)).event Reg.BKW_STATUS Ev.BKW_SWAP_MISSED).updDone i rcSwapMissed u).stopUpd i := by
  unfold commitEnd armSwap
  simp only [hrun, hdecl, hst, hw, hheld, ha, hm, if_neg hkind, List.foldl_cons, List.foldl_nil, ne_eq, not_true, decide_false,
    Bool.not_true, Bool.or_false, Bool.false_eq_true, if_false, if_true]

/-- With no update waiting, an update that stops changes Backwater alone. -/
theorem stopUpd_alone {i : Nat} (h : (s.region i).queue = none) : (s.stopUpd i).settled = s.settled ∧ (s.stopUpd i).mem = s.mem := by
  unfold stopUpd
  simp only [h]
  exact ⟨settled_of_regs rfl rfl rfl rfl rfl rfl, rfl⟩

end State

open State

/-- A flow image that declares one region and nothing else. -/
def oneRegionImage (d : RegionDecl) : ImageFile where
  tag := 7
  sigOk := true
  key := 0
  rollback := 0
  catchments := []
  cores := []
  regions := [d]
  envelope := 0
  rampMu := 0
  ramps := []
  idle := []
  levels := [3]
  namesOthers := false
  gridRing := 0
  reachRing := 0
  gramRing := 0
  staging := 0
  permTable := []
  phases := []
  parts := []
  modelA := 0
  modelB := 0

/-! ## A device whose admin ring lies in its region's inactive slot -/

/-- A region of kind 1 with its slots below 1 MiB. -/
def overlapDecl : RegionDecl := ⟨false, [3], [], 9, 2, 0x10000, 0x20000, 0x30000, [], [], 0, 0, 0⟩

/-- A LOAD whose SWAP_AT boundary has passed while it ran. -/
def missedLoad : Upd := ⟨⟨0, 2, 1, 1, 0, 0, 1, 1, 1, 0, 0, 0, 0, 1, 0, 0, true⟩, 0, 0, true⟩

/-- The region commits that LOAD's image of two bytes to slot B. -/
def missedRegion : Region := { Region.reset with st := 4, run := some missedLoad, writing := true, staged := [1, 2] }

/-- The device with 64 MiB of DRAM, its admin ring of sixteen entries at the address of slot B. -/
def overlapState : State :=
  let s := State.reset.setReg Reg.DRAM_TOP 64
  { s with
    mode := .running
    img := ⟨some (oneRegionImage overlapDecl)⟩
    bkw := { s.bkw with regions := [(0, missedRegion)] }
    aeq := ⟨selfAddr 0x20000, 4, 0, 0, 0, 0⟩ }

theorem overlapState_ready : overlapState.ready = true := by decide +kernel

/-- The device once slot B has been written and SWAP_MISSED raised. -/
def overlapWritten : State :=
  ({ overlapState.clearOuts with mem := writeBytes [] 0x20000 [1, 2] } : State).event Reg.BKW_STATUS Ev.BKW_SWAP_MISSED

theorem overlapWritten_settled : overlapWritten.settled = true := by decide +kernel

theorem overlapWritten_place : overlapWritten.place (selfAddr 0x20000) = (.mem 0x20000, 64 * 2 ^ 20 - 0x20000) := by decide +kernel

/-- After the commit slot B holds the event's type and code. -/
theorem overlapState_commitEnd : (overlapState.clearOuts.commitEnd 0).settled = true ∧
    readBytes (overlapState.clearOuts.commitEnd 0).mem 0x20000 2 = [2, BitVec.ofNat 8 rcSwapMissed] := by
  have hplace := overlapWritten_place
  have hend : overlapState.clearOuts.commitEnd 0 = (overlapWritten.updDone 0 rcSwapMissed missedLoad).stopUpd 0 :=
    commitEnd_missed (s := overlapState.clearOuts) (d := overlapDecl) rfl rfl rfl rfl (by decide +kernel) rfl (by decide) rfl
  obtain ⟨hsettled, hbkw, hmem⟩ := adminEvent_plain (s := overlapWritten) (a := 0x20000) (type := 2) (code := rcSwapMissed) (seq := 0)
    (mbx := 0) (detail := Config.eventDetail 2 [0, overlapWritten.slotVersion overlapDecl 0, 0]) rfl rfl rfl rfl
    (congrArg Prod.fst hplace) (by rw [show overlapWritten.aeq.base + _ = selfAddr 0x20000 from rfl, hplace]; decide)
  have hdone : overlapWritten.updDone 0 rcSwapMissed missedLoad =
      overlapWritten.adminEvent 2 rcSwapMissed 0 0 (Config.eventDetail 2 [0, overlapWritten.slotVersion overlapDecl 0, 0]) := rfl
  rw [hend, hdone]
  obtain ⟨hstopped, hkept⟩ := stopUpd_alone (i := 0)
    (s := overlapWritten.adminEvent 2 rcSwapMissed 0 0 (Config.eventDetail 2 [0, overlapWritten.slotVersion overlapDecl 0, 0]))
    (by rw [region, hbkw]; rfl)
  refine ⟨(hstopped.trans hsettled).trans overlapWritten_settled, ?_⟩
  obtain ⟨z, hz⟩ := eventBytes_prefix 2 rcSwapMissed 0 0 overlapWritten.ns32
    (Config.eventDetail 2 [0, overlapWritten.slotVersion overlapDecl 0, 0])
  rw [hkept, hmem, hz, List.append_assoc]
  exact readBytes_writeBytes _ 0x20000 [] [2, BitVec.ofNat 8 rcSwapMissed] _

/-- The clause that fails: the two bytes of the image are asked for in slot B, where the event begins with its type and its code. -/
theorem not_swapsTaken : ¬Claims.SwapsTaken := by
  intro h
  obtain ⟨-, -, -, -, hdone, -⟩ := h overlapState 0 0 overlapState_ready
  obtain ⟨t, hexec, -, -, -, -, hread, -⟩ := hdone missedLoad overlapDecl 0x20000 rfl rfl rfl rfl (by decide +kernel) rfl rfl rfl
  obtain ⟨hsettled, hbytes⟩ := overlapState_commitEnd
  obtain ⟨t', hrun, -, hmem⟩ := run_kept overlapState_ready rfl hsettled
  cases hexec.symm.trans hrun
  have himage : readBytes t.mem 0x20000 2 = [1, 2] := hread
  rw [hmem] at himage
  exact absurd (hbytes.symm.trans himage) (by decide)

/-- Refutes O57: a commit whose SWAP_AT boundary has passed ends with the event SWAP_MISSED, which the admin ring may place in the slot
itself; the slot then does not hold the image. -/
theorem not_updatesAndSwaps : ¬Obligations.UpdatesAndSwaps := fun h => not_swapsTaken h.2

end Sys2Proof.Machine
end

section
/-! PROOFS. A third run of a Backwater step (09 R349, R350) whose read of the augmentation records meets an uncorrectable word of a
local memory: the core of that memory joins the tests' queue behind the core that was outvoted. -/
namespace Sys2Proof.Machine
open State

variable {s : State}

/-- A third run that agrees with the first of two outvotes the second, and the first commits (09 R349). -/
theorem stepEnd_outvoted {i : Nat} {x : StepRun} {r : Region} {u : Upd} {d : RegionDecl} {a b y : StepRes} {w : State}
    (hr : s.region i = r) (hrun : r.run = some u) (hdecl : s.regionDecl i = some d) (hst : r.st = 1) (hwin : r.window.isNone = false)
    (hruns : r.runs = [a, b]) (hother : (r.runs.all fun a => otherCores a x.cores) = true)
    (hresult : (s.setRegion i { r with window := none }).runResult i u d x = (w, y)) (hagree : runsAgree a y = true) :
    s.stepEnd i x = (b.cores.foldl (fun (s : State) p => s.suspect p.val)
      ((w.count Reg.BKW_DISAGREE_CNT 1).event Reg.BKW_STATUS Ev.BKW_DISAGREE)).commitStep i u d a := by
  have hopen : (decide (r.st ≠ 1) || r.window.isNone) = false := by rw [hst, hwin]; rfl
  unfold stepEnd
  rw [hr]
  dsimp only
  split
  · next u' d' hu hd =>
    cases hrun.symm.trans hu
    cases hdecl.symm.trans hd
    rw [hopen, hother, hresult, hruns]
    simp only [hagree, Bool.not_true, Bool.false_eq_true, if_false, if_true]
  · next hnone => exact absurd hdecl (hnone u d hrun)

/-! ## A step whose augmentation records lie in a local memory -/

/-- A region of kind 2, in no quad. -/
def stepDecl : RegionDecl := ⟨true, [3], [], 9, 2, 0x10000, 0x20000, 0x30000, [], [], 0, 0, 0⟩

/-- A TRAIN of one sample, its augmentation record at the start of the local memory of logical core 0. -/
def lmTrain : Upd :=
  ⟨⟨0, 1, 1, 1, BitVec.ofNat 64 (selfAddr 0x110000000000), 0, 1, 1, 1, 0, 0, 0, 0, 0, 0, 0, true⟩, 0, 0, false⟩

/-- The loss of that step's samples, none: its one record names no record of the cache. -/
def stepLoss : BitVec 64 := Config.trainLoss 7 0 (readBytes [] 0 2240) [] []

/-- The first two runs of the step, on cores 49 and 50, of different losses. -/
def firstRun : StepRes := ⟨[], stepLoss, [49]⟩
def secondRun : StepRes := ⟨[], stepLoss + 1, [50]⟩

/-- The third run, on core 51. -/
def thirdRun : StepRun := ⟨[51], [], 0⟩

/-- The region in the third run of its step. -/
def thirdRunRegion : Region :=
  { Region.reset with st := 1, run := some lmTrain, window := some 51, runs := [firstRun, secondRun] }

/-- The device with that region; the first word of the local memory of core 0 is uncorrectable (04 R144). -/
def thirdRunState : State :=
  { State.reset with
    mode := .running
    img := ⟨some (oneRegionImage stepDecl)⟩
    cores := [(0, { Core.reset with lmErr := [0] })]
    l2p := [(0, 0)]
    bkw := { State.reset.bkw with regions := [(0, thirdRunRegion)] } }

/-- The device as the run ends, its step window closed. -/
def closedState : State := thirdRunState.clearOuts.setRegion 0 { thirdRunRegion with window := none }

/-- The device once the step's samples are read. -/
def sampledState : State := (closedState.stepSamples 0 lmTrain stepDecl).1

theorem thirdRunState_ready : thirdRunState.ready = true := by decide +kernel

theorem closedState_samples : (closedState.stepSamples 0 lmTrain stepDecl).2.1 = [] := by decide +kernel

theorem sampledState_flowTag : sampledState.flowTag = 7 := by decide +kernel

theorem sampledState_mem : sampledState.mem = [] := by decide +kernel

/-- With no samples the step's gradient is empty, and its loss that of the training program on none. -/
theorem closedState_runResult : closedState.runResult 0 lmTrain stepDecl thirdRun = (sampledState, ⟨[], stepLoss, [51]⟩) := by
  have hloss : (sampledState.stepResult 0 stepDecl (sampledState.region 0).active []).2 = stepLoss := by
    rw [stepResult, slotImage, sampledState_flowTag, sampledState_mem]
    rfl
  rw [runResult, closedState_samples]
  show (sampledState, (⟨_, (sampledState.stepResult 0 stepDecl (sampledState.region 0).active []).2 ^^^ (0#64), [51]⟩ : StepRes)) = _
  rw [hloss, BitVec.xor_zero]
  rfl

theorem firstRun_agrees : runsAgree firstRun ⟨[], stepLoss, [51]⟩ = true := by simp [runsAgree, firstRun]

/-- The device once the second run is outvoted. -/
def outvotedState : State := secondRun.cores.foldl (fun (s : State) p => s.suspect p.val)
  ((sampledState.count Reg.BKW_DISAGREE_CNT 1).event Reg.BKW_STATUS Ev.BKW_DISAGREE)

theorem outvotedState_queue : outvotedState.flt.queue = [50] := by decide +kernel

theorem committed_queue : (outvotedState.commitStep 0 lmTrain stepDecl firstRun).settle.flt.queue = [50, 0] := by decide +kernel

/-- As the run ends the second run is outvoted and the first commits. -/
theorem thirdRunState_stepEnd :
    thirdRunState.clearOuts.stepEnd 0 thirdRun = outvotedState.commitStep 0 lmTrain stepDecl firstRun :=
  stepEnd_outvoted (r := thirdRunRegion) (u := lmTrain) (d := stepDecl) (a := firstRun) (b := secondRun) (w := sampledState)
    rfl rfl rfl rfl rfl rfl (by decide +kernel) closedState_runResult firstRun_agrees

/-- The command answers a device whose tests' queue holds the outvoted core and the one whose memory was read. -/
theorem thirdRunState_answer : ∃ t, exec (.stepEnd 0 thirdRun) thirdRunState = .next t ∧ t.flt.queue = [50, 0] := by
  refine ⟨(thirdRunState.clearOuts.stepEnd 0 thirdRun).settle.withPending thirdRunState.pending, ?_, ?_⟩
  · show thirdRunState.run (stepEnd 0 thirdRun) = _
    rw [run, if_pos (ready_awake thirdRunState_ready)]
  · have hflt (s : State) (q : List Instr) : (s.withPending q).flt = s.flt := rfl
    rw [hflt, thirdRunState_stepEnd]
    exact committed_queue

/-- The clause that fails: the queue is asked to be the one that the outvoted run's cores make. -/
theorem not_stepsCommitted : ¬Claims.StepsCommitted := by
  intro h
  obtain ⟨-, hstep⟩ := h thirdRunState 0 thirdRun thirdRunState_ready
  obtain ⟨-, -, hclauses⟩ := hstep lmTrain stepDecl 51 rfl rfl rfl rfl
  obtain ⟨-, -, -, -, -, hthird, -⟩ := hclauses (by decide +kernel) rfl
  have hagrees : runsAgree firstRun (closedState.runResult 0 lmTrain stepDecl thirdRun).2 = true := by
    rw [closedState_runResult]
    exact firstRun_agrees
  obtain ⟨t, hexec, -, -, -, -, hasked⟩ := hthird firstRun secondRun firstRun [] rfl (if_pos hagrees).symm hagrees
  have hasked : t.flt.queue = ((if runsAgree firstRun (closedState.runResult 0 lmTrain stepDecl thirdRun).2 then secondRun
      else firstRun).cores.foldl (fun (q : State) p => q.suspect p.val) (((closedState.runResult 0 lmTrain stepDecl thirdRun).1.count
        Reg.BKW_DISAGREE_CNT 1).event Reg.BKW_STATUS Ev.BKW_DISAGREE)).flt.queue := hasked
  rw [if_pos hagrees, closedState_runResult] at hasked
  obtain ⟨t', hexec', hqueue⟩ := thirdRunState_answer
  cases hexec.symm.trans hexec'
  exact absurd (hqueue.symm.trans (hasked.trans outvotedState_queue)) (by decide)

/-- Refutes O56: the third run's read of its augmentation records leaves an uncorrectable word of a local memory to be handled, whose core
joins the tests' queue too. -/
theorem not_trainingStepsEnd : ¬Obligations.TrainingStepsEnd := fun h => not_stepsCommitted h.1

end Sys2Proof.Machine
end
